-- ==== Sys2Proof/Word.lean ====
section
/-! DEFINITION. The word types of the Dyzihan (R48, R50, R6, R7) and the fixed array the state is built from. -/
namespace Sys2Proof

/-- A scalar register, a PC, an offset (R48, R102). -/
abbrev Word := BitVec 64
/-- A byte of memory. -/
abbrev Byte := BitVec 8
/-- The value bits of a vector register (R50): lane e is bits [32e+31:32e]. -/
abbrev VBits := BitVec 1024
/-- A slot of a core (R9): 0 to 11 resident, 12 to 14 guest, 15 ranger. -/
abbrev SlotN := Fin 16
/-- A core of the package (R8). -/
abbrev CoreId := BitVec 14

/-- A fixed number of like things, as plain data: a list whose length is fixed. -/
structure Bank (α : Type) (n : Nat) where
  items : List α
  size  : items.length = n
deriving DecidableEq, Repr

/-- Every entry holds x. -/
def Bank.fill (α : Type) (n : Nat) (x : α) : Bank α n := ⟨List.replicate n x, List.length_replicate⟩

/-- Entry i. -/
def Bank.get {α : Type} {n : Nat} (b : Bank α n) (i : Fin n) : α :=
  b.items[i.val]'(by rw [b.size]; exact i.isLt)

/-- Entry i becomes x, and no other entry changes. -/
def Bank.set {α : Type} {n : Nat} (b : Bank α n) (i : Fin n) (x : α) : Bank α n :=
  ⟨b.items.set i.val x, by rw [List.length_set]; exact b.size⟩

/-- Every entry through f. -/
def Bank.map {α : Type} {n : Nat} (b : Bank α n) (f : α → α) : Bank α n :=
  ⟨b.items.map f, by rw [List.length_map]; exact b.size⟩

theorem Bank.get_set_eq {α : Type} {n : Nat} (b : Bank α n) (i : Fin n) (x : α) :
    (b.set i x).get i = x := by
  simp [Bank.get, Bank.set]

theorem Bank.get_set_ne {α : Type} {n : Nat} (b : Bank α n) (i j : Fin n) (x : α) (h : i ≠ j) :
    (b.set i x).get j = b.get j := by
  have hv : i.val ≠ j.val := fun e => h (Fin.ext e)
  simp [Bank.get, Bank.set, hv]

theorem Bank.get_fill {α : Type} {n : Nat} (x : α) (i : Fin n) :
    (Bank.fill α n x).get i = x := by
  simp [Bank.get, Bank.fill]

end Sys2Proof
end

