-- ==== Sys2Proof/Syntax.lean ====
section
/-! DEFINITION. Instructions as data: the operand enumerations, the payloads of the part's steps, and Instr with one
constructor per row of the opcode table: 174 encoded instructions (R161, R187, R201, R209, R219, R231, R252, R262, R326)
and the steps of the part that have no encoding (95_what_each_step_holds.md). -/
namespace Sys2Proof

/-- The integer access types of R110. -/
inductive IType where
  | i8 | n8 | i16 | n16 | i32 | n32 | i64
deriving DecidableEq, Repr

/-- The field code of a IType. -/
def IType.code : IType → BitVec 3
  | .i8 => 0
  | .n8 => 1
  | .i16 => 2
  | .n16 => 3
  | .i32 => 4
  | .n32 => 5
  | .i64 => 6

/-- The IType of a field code, none where the code is reserved. -/
def IType.ofCode (b : BitVec 3) : Option IType :=
  match b.toNat with
  | 0 => some .i8
  | 1 => some .n8
  | 2 => some .i16
  | 3 => some .n16
  | 4 => some .i32
  | 5 => some .n32
  | 6 => some .i64
  | _ => none

/-- The rounding field of R136; code 6 is illegal. -/
inductive Rm where
  | rne | rz | rdn | rup | rna | sr | dyn
deriving DecidableEq, Repr

/-- The field code of a Rm. -/
def Rm.code : Rm → BitVec 3
  | .rne => 0
  | .rz => 1
  | .rdn => 2
  | .rup => 3
  | .rna => 4
  | .sr => 5
  | .dyn => 7

/-- The Rm of a field code, none where the code is reserved. -/
def Rm.ofCode (b : BitVec 3) : Option Rm :=
  match b.toNat with
  | 0 => some .rne
  | 1 => some .rz
  | 2 => some .rdn
  | 3 => some .rup
  | 4 => some .rna
  | 5 => some .sr
  | 7 => some .dyn
  | _ => none

/-- The scalar float types of R197. -/
inductive FTy where
  | f32 | f64 | f16 | bf16
deriving DecidableEq, Repr

/-- The field code of a FTy. -/
def FTy.code : FTy → BitVec 2
  | .f32 => 0
  | .f64 => 1
  | .f16 => 2
  | .bf16 => 3

/-- The FTy of a field code, none where the code is reserved. -/
def FTy.ofCode (b : BitVec 2) : Option FTy :=
  match b.toNat with
  | 0 => some .f32
  | 1 => some .f64
  | 2 => some .f16
  | 3 => some .bf16
  | _ => none

/-- The sign operations of R204. -/
inductive SignOp where
  | copy | neg | abs
deriving DecidableEq, Repr

/-- The field code of a SignOp. -/
def SignOp.code : SignOp → BitVec 2
  | .copy => 0
  | .neg => 1
  | .abs => 2

/-- The SignOp of a field code, none where the code is reserved. -/
def SignOp.ofCode (b : BitVec 2) : Option SignOp :=
  match b.toNat with
  | 0 => some .copy
  | 1 => some .neg
  | 2 => some .abs
  | _ => none

/-- The conversion types of R205. -/
inductive CvtTy where
  | f32 | f64 | f16 | bf16 | e4m3 | e5m2 | i32 | n32 | i64 | n64
deriving DecidableEq, Repr

/-- The field code of a CvtTy. -/
def CvtTy.code : CvtTy → BitVec 4
  | .f32 => 0
  | .f64 => 1
  | .f16 => 2
  | .bf16 => 3
  | .e4m3 => 4
  | .e5m2 => 5
  | .i32 => 8
  | .n32 => 9
  | .i64 => 10
  | .n64 => 11

/-- The CvtTy of a field code, none where the code is reserved. -/
def CvtTy.ofCode (b : BitVec 4) : Option CvtTy :=
  match b.toNat with
  | 0 => some .f32
  | 1 => some .f64
  | 2 => some .f16
  | 3 => some .bf16
  | 4 => some .e4m3
  | 5 => some .e5m2
  | 8 => some .i32
  | 9 => some .n32
  | 10 => some .i64
  | 11 => some .n64
  | _ => none

/-- The functions of R208. -/
inductive Fun where
  | rcp | rsq | exp2 | log2 | sin | cos | tanh | sqrt
deriving DecidableEq, Repr

/-- The field code of a Fun. -/
def Fun.code : Fun → BitVec 3
  | .rcp => 0
  | .rsq => 1
  | .exp2 => 2
  | .log2 => 3
  | .sin => 4
  | .cos => 5
  | .tanh => 6
  | .sqrt => 7

/-- The Fun of a field code, none where the code is reserved. -/
def Fun.ofCode (b : BitVec 3) : Option Fun :=
  match b.toNat with
  | 0 => some .rcp
  | 1 => some .rsq
  | 2 => some .exp2
  | 3 => some .log2
  | 4 => some .sin
  | 5 => some .cos
  | 6 => some .tanh
  | 7 => some .sqrt
  | _ => none

/-- The condition codes of R210; 6 and 7 are float conditions only. -/
inductive Cond where
  | eq | ne | lt | le | gt | ge | un | or
deriving DecidableEq, Repr

/-- The field code of a Cond. -/
def Cond.code : Cond → BitVec 3
  | .eq => 0
  | .ne => 1
  | .lt => 2
  | .le => 3
  | .gt => 4
  | .ge => 5
  | .un => 6
  | .or => 7

/-- The Cond of a field code, none where the code is reserved. -/
def Cond.ofCode (b : BitVec 3) : Option Cond :=
  match b.toNat with
  | 0 => some .eq
  | 1 => some .ne
  | 2 => some .lt
  | 3 => some .le
  | 4 => some .gt
  | 5 => some .ge
  | 6 => some .un
  | 7 => some .or
  | _ => none

/-- The vector types of R216. -/
inductive VTy where
  | f32 | f16 | bf16 | i32 | n32 | i16 | n16 | i8 | n8
deriving DecidableEq, Repr

/-- The field code of a VTy. -/
def VTy.code : VTy → BitVec 4
  | .f32 => 0
  | .f16 => 1
  | .bf16 => 2
  | .i32 => 3
  | .n32 => 4
  | .i16 => 5
  | .n16 => 6
  | .i8 => 7
  | .n8 => 8

/-- The VTy of a field code, none where the code is reserved. -/
def VTy.ofCode (b : BitVec 4) : Option VTy :=
  match b.toNat with
  | 0 => some .f32
  | 1 => some .f16
  | 2 => some .bf16
  | 3 => some .i32
  | 4 => some .n32
  | 5 => some .i16
  | 6 => some .n16
  | 7 => some .i8
  | 8 => some .n8
  | _ => none

/-- The operations of VFOLD, VSCAN and VRED (R255, R241). -/
inductive FoldOp where
  | add | min | max
deriving DecidableEq, Repr

/-- The field code of a FoldOp. -/
def FoldOp.code : FoldOp → BitVec 2
  | .add => 0
  | .min => 1
  | .max => 2

/-- The FoldOp of a field code, none where the code is reserved. -/
def FoldOp.ofCode (b : BitVec 2) : Option FoldOp :=
  match b.toNat with
  | 0 => some .add
  | 1 => some .min
  | 2 => some .max
  | _ => none

/-- The packed formats of R256. -/
inductive PackTy where
  | f16 | bf16 | e4m3 | e5m2 | e2m1 | t8 | i8 | i16
deriving DecidableEq, Repr

/-- The field code of a PackTy. -/
def PackTy.code : PackTy → BitVec 4
  | .f16 => 1
  | .bf16 => 2
  | .e4m3 => 3
  | .e5m2 => 4
  | .e2m1 => 5
  | .t8 => 6
  | .i8 => 7
  | .i16 => 8

/-- The PackTy of a field code, none where the code is reserved. -/
def PackTy.ofCode (b : BitVec 4) : Option PackTy :=
  match b.toNat with
  | 1 => some .f16
  | 2 => some .bf16
  | 3 => some .e4m3
  | 4 => some .e5m2
  | 5 => some .e2m1
  | 6 => some .t8
  | 7 => some .i8
  | 8 => some .i16
  | _ => none

/-- The operations of ATOM (R239). -/
inductive AtomOp where
  | add | and | or | xor | min | max | minu | maxu | exch | fadd32 | faddbf | fmin | fmax
deriving DecidableEq, Repr

/-- The field code of a AtomOp. -/
def AtomOp.code : AtomOp → BitVec 4
  | .add => 0
  | .and => 1
  | .or => 2
  | .xor => 3
  | .min => 4
  | .max => 5
  | .minu => 6
  | .maxu => 7
  | .exch => 8
  | .fadd32 => 9
  | .faddbf => 10
  | .fmin => 11
  | .fmax => 12

/-- The AtomOp of a field code, none where the code is reserved. -/
def AtomOp.ofCode (b : BitVec 4) : Option AtomOp :=
  match b.toNat with
  | 0 => some .add
  | 1 => some .and
  | 2 => some .or
  | 3 => some .xor
  | 4 => some .min
  | 5 => some .max
  | 6 => some .minu
  | 7 => some .maxu
  | 8 => some .exch
  | 9 => some .fadd32
  | 10 => some .faddbf
  | 11 => some .fmin
  | 12 => some .fmax
  | _ => none

/-- The modes of BIND (R266). -/
inductive BindMode where
  | pop | push | rd | wr
deriving DecidableEq, Repr

/-- The field code of a BindMode. -/
def BindMode.code : BindMode → BitVec 2
  | .pop => 0
  | .push => 1
  | .rd => 2
  | .wr => 3

/-- The BindMode of a field code, none where the code is reserved. -/
def BindMode.ofCode (b : BitVec 2) : Option BindMode :=
  match b.toNat with
  | 0 => some .pop
  | 1 => some .push
  | 2 => some .rd
  | 3 => some .wr
  | _ => none

/-- The scopes of FENCE (R183). -/
inductive Scope where
  | cluster | die | package | domain | system
deriving DecidableEq, Repr

/-- The field code of a Scope. -/
def Scope.code : Scope → BitVec 5
  | .cluster => 0
  | .die => 1
  | .package => 2
  | .domain => 3
  | .system => 4

/-- The Scope of a field code, none where the code is reserved. -/
def Scope.ofCode (b : BitVec 5) : Option Scope :=
  match b.toNat with
  | 0 => some .cluster
  | 1 => some .die
  | 2 => some .package
  | 3 => some .domain
  | 4 => some .system
  | _ => none

/-- A scalar name s0 to s31 (R48). -/
abbrev SReg := BitVec 5
/-- A vector name v0 to v31 (R50). -/
abbrev VNum := BitVec 5
/-- A predicate name q0 to q7 (R53). -/
abbrev PReg := BitVec 3
/-- A reach name k0 to k3 (R55). -/
abbrev KReg := BitVec 2
/-- A tile name m0, m1 (R56). -/
abbrev TileN := BitVec 1
/-- A ring name (R261). -/
abbrev RingN := BitVec 5
/-- A barrier counter (R93). -/
abbrev BarN := BitVec 4
/-- A Pritas link of the package (R390). -/
abbrev LinkN := Fin 18

/-- The guard and the camp bit of a head (R105). -/
structure Hdr where
  g : BitVec 4
  c : Bool
deriving DecidableEq, Repr


/-- A scalar value with its poison bit (R48). -/
structure SVal where
  v : Word
  p : Bool
deriving DecidableEq, Repr

/-- A vector value with one poison bit per 32-bit lane (R49, R50). -/
structure VVal where
  bits : VBits
  poison : BitVec 32
deriving DecidableEq, Repr

/-- An entry of the T8 decode table: an F19 value and its poison (R144). -/
structure TEntry where
  v : BitVec 19
  p : Bool
deriving DecidableEq, Repr


/-- A symbolic tag: none is concrete, some (i, c) is SYM(i, c) (R291). -/
abbrev Tag := Option (Nat × Word)

/-- The name of a word by space, reach and offset (R363, R368). -/
structure WordRef where
  space : BitVec 16
  reach : BitVec 16
  off   : Word
deriving DecidableEq, Repr

/-- What a packet parked on a ring waits for: room, an element, the performing of an RDEF (R263, R264). -/
inductive RingWait where
  | push | pop | defn
deriving DecidableEq, Repr
/-- Which siding cannot accept a packet: the matrix queue, the copy engine's queue; or no arrival entry of a class is free for the
guest that a CTXLOAD brings (R32, R251, R269, R334). -/
inductive QueueWait where
  | matrix | engine | entry (reply : Bool)
deriving DecidableEq, Repr
/-- Why a slot is parked (R39, R323 PARK). -/
inductive Park where
  /-- a chunk-ending packet waits for the thread's older chunks (R156 CommitWait; log 11) -/
  | commit
  /-- a translation miss (R32, R366) -/
  | walk
  /-- a code line that is not cached -/
  | fill
  /-- a ring that is full or empty, or whose RDEF is pending (R263, R264) -/
  | ring (r : RingN) (why : RingWait)
  /-- a stream buffer that is empty or a stream ring that is full (R268) -/
  | stream (k : Fin 4)
  /-- no credit toward a destination (R89) -/
  | credit (dest : CoreId) (reply : Bool)
  /-- a siding queue that is full, or an arrival entry that is not free (R251, R269, R334) -/
  | queue (q : QueueWait)
  /-- values owed to the thread must land first: all, or those whose packets can set FPFLAGS (R84, R169, R180, R199) -/
  | owed (flags : Bool)
  /-- JOIN on a word, n retries made (R81) -/
  | join (word : WordRef) (n : Nat)
  /-- WAKEAT (R171) -/
  | wakeAt (t : Word)
  /-- BARC on a counter: arrived when counted (R93) -/
  | barc (ctr : BarN) (count : Nat) (counted : Bool)
  /-- BARG, waiting for the generation to complete (R94) -/
  | barg (gen : Nat)
  /-- SETTLE (R88) -/
  | settle
  /-- FENCE: scope, and whether tokens are waited for (R183) -/
  | fence (sc : Scope) (tokens : Bool)
  /-- a command or message must complete before the thread issues (R244, R178, R332, R341) -/
  | command
  /-- a solo grant (R298) -/
  | solo
  /-- a value must return before the packet retires (R28, R167, R200) -/
  | value
  /-- the thread has executed HIKE and leaves once its credit is there (R84) -/
  | hike (dest : CoreId)
  /-- IDLE in slot 15 (R328) -/
  | idle
deriving DecidableEq, Repr

/-- A task pack entry (R74). -/
structure Task where
  pc     : Word
  arg    : SVal
  join   : WordRef
  level  : BitVec 2
  core   : CoreId
deriving DecidableEq, Repr

/-- A hiker on its way: the 192 bytes of its context (R67), the code reach of its sender, or of the stub (R102, R348; log 21), the
core it came from (R86, R378), and the launch mark of a stub (R348). -/
structure HikerMsg where
  bytes  : List Byte
  creach : BitVec 16
  src    : CoreId
  mark   : Option (BitVec 32 × Word)
deriving DecidableEq, Repr

/-- A hiker that has arrived: what its context says (R67), the core it came from (R86, R378), and the launch mark of a stub
(R348). -/
structure Hiker where
  pc    : Word
  s     : Bank SVal 15
  k     : Bank (BitVec 16) 4
  q     : BitVec 8
  qp    : BitVec 8
  space : BitVec 16
  /-- the code reach of its sender, or of the stub (R102, R348; log 21) -/
  creach : BitVec 16
  dest  : CoreId
  reply : Bool
  hiked : Bool
  src   : CoreId
  mark  : Option (BitVec 32 × Word)
deriving DecidableEq, Repr

/-- What one of a pair of network interfaces tells the other of its credits (R92, R341): those it holds toward the other of each
class, those it has granted to the other, and whether the message belongs to a CREDSYNC. -/
structure CreditReport where
  heldO    : Nat
  heldR    : Nat
  grantedO : Nat
  grantedR : Nat
  sync     : Bool
deriving DecidableEq, Repr

/-- A victim as a thief finds it (R77, R78): its core, whether its hint bit is set, the launch it runs and the top entry of its
pack at the moment of the attempt. -/
structure Victim where
  core : CoreId
  hint : Bool
  seq  : BitVec 32
  top  : Option Task
deriving DecidableEq, Repr
/-- Who takes work (R70, R77): a resident slot of this core; or another core, running a launch,
which tries to take the top entry of this core's pack. -/
inductive Fill where
  | own (slot : SlotN)
  | thief (core : CoreId) (seq : BitVec 32)
deriving DecidableEq, Repr

/-- A task on its way to the pack (R75): has its join word counted it? -/
structure Pushed where
  task    : Task
  counted : Bool
deriving DecidableEq, Repr
/-- A gang: the STRICT launches of one GANG and one START (R351). -/
structure Gang where
  id    : BitVec 64
  start : BitVec 64
deriving DecidableEq, Repr
/-- What this core's own counters read at a check: its free arrival entries, and whether a credit counter has a parity fault (R92). -/
structure OwnCounters where
  free   : Nat
  parity : Bool
deriving DecidableEq, Repr
/-- What a core reports when its share is finished (R73, R352). -/
structure ShareReport where
  seq   : BitVec 32
  share : Nat
  count : Nat
  check : BitVec 32
  killed : List (CoreId × SlotN)
deriving DecidableEq, Repr

/-- A ring entry of a kernel header (R126). -/
structure RingEntry where
  ring  : RingN
  win   : BitVec 3
  kind  : BitVec 2
  log2n : BitVec 4
  off   : Nat
deriving DecidableEq, Repr

/-- What a core knows of the launch it runs (R64 LAUNCH, R66, R343, R126). -/
structure LaunchInfo where
  seq    : BitVec 32
  entry  : Word
  creach : BitVec 16
  dreach : BitVec 16
  space  : BitVec 16
  t      : Nat
  a      : Nat
  flags  : BitVec 8
  weight : Nat
  fpctl  : BitVec 8
  param  : Word
  seed   : Word
  x      : Nat
  y      : Nat
  z      : Nat
  start  : Word
  tol    : Nat
  gang   : Word
  npatch : Nat
  patch  : Word
  /-- the header's window formats, F32 where none is given, and its rings (R126, R127) -/
  wfmt   : BitVec 32
  rings  : List RingEntry
deriving DecidableEq, Repr

/-- A core's share of a launch (R350). -/
structure Share where
  info  : LaunchInfo
  share : Nat
  lo    : Nat
  hi    : Nat
deriving DecidableEq, Repr

/-- A thread of the cluster that waits at a barrier counter (R93). -/
structure Waiter where
  core : CoreId
  slot : SlotN
deriving DecidableEq, Repr

/-- The owner of a far value: slot, sequence number, incarnation (R36). -/
structure FarRef where
  slot : SlotN
  seq  : BitVec 8
  inc  : BitVec 4
deriving DecidableEq, Repr

/-- A walker command: UNSTASH of a span's global bytes, or FLUSH of a span (R245, R246). -/
inductive WalkCmd where
  | unstash (tok : FarRef) (base : WordRef) (len : Nat)
  | flush (tok : FarRef) (base : WordRef) (len : Nat)
deriving DecidableEq, Repr

/-- A GATHN in flight: the lanes' physical addresses, the old destination (R242). -/
structure Gather where
  ref   : FarRef
  dest  : VNum
  lanes : List (Option Nat)
  old   : VVal
deriving DecidableEq, Repr

/-- A TLOAD in flight: the physical addresses of its 16 blocks of 64 bytes (R260). -/
structure TableLoad where
  ref   : FarRef
  lines : List Nat
deriving DecidableEq, Repr

/-- A range descriptor, addresses in bytes (R359). -/
structure RangeDesc where
  base    : Nat
  limit   : Nat
  wmark   : Nat
  phys    : Nat
  perm    : BitVec 8
  attr    : BitVec 8
  newPhys : Nat
  mark    : Nat
deriving DecidableEq, Repr

/-- The six range instructions (R336). -/
inductive RangeOp where
  | rload | rinval | rsplit | rmerge | rgrow | rcompact
deriving DecidableEq, Repr

/-- A range command on its way: the token's owner, the block, the space, the issuing core (R336). -/
structure RangeCmd where
  op    : RangeOp
  ref   : Option FarRef
  block : WordRef
  space : BitVec 16
deriving DecidableEq, Repr

/-- A store on its way to another package or to host memory (R283, R286). -/
structure OutStore where
  addr : Nat
  data : List Byte
  p    : Bool
deriving DecidableEq, Repr

/-- The operations that a word's home performs (R237, R240, R241). -/
inductive HomeKind where
  | ldf | ldfe | stef | stf
  | feset (full : Bool)
  | atom (op : AtomOp) (w4 : Bool)
  | cas (w4 : Bool)
  /-- the governed elements, each with its address -/
  | vred (op : FoldOp) (t : VTy) (es : List (Nat × Nat))
deriving DecidableEq, Repr

/-- A singleton at its home: physical address, type, operands, mask (R280). -/
structure HomeOp where
  kind : HomeKind
  addr : Nat
  ty   : IType
  fe   : Bool
  b    : SVal
  c    : SVal
  vec  : VVal
  mask : Word
deriving DecidableEq, Repr

/-- Whose chunk commits (R279, R295): one of this core's threads; or another core's, with the stores that take their place in this
package's memory, and the elements that it pushes into and pops from rings of this cluster. -/
inductive Committer where
  | own (slot : SlotN)
  | other (stores : List OutStore) (pushes : List (RingN × List (List Byte × Bool))) (pops : List RingN)
deriving DecidableEq, Repr
/-- Whose singleton is performed at a home (R280): one of this core's threads, or another core's. -/
inductive Performer where
  | own (slot : SlotN)
  | other (who : Waiter) (op : HomeOp)
deriving DecidableEq, Repr
/-- A store of another package's thread, with whom its acknowledgement goes to (R283). -/
structure AwayStore where
  src : BitVec 8
  who : Waiter
  st  : OutStore
deriving DecidableEq, Repr
/-- An acknowledgement of a slot's oldest store to a destination: a package, or the host (R283, R286). -/
structure AckFrom where
  slot : SlotN
  dest : Option (BitVec 8)
deriving DecidableEq, Repr
/-- Whose operation is performed at a home in another package (R285): a thread's of this core; or one that another package has
sent to a home here, with whether a waiter may be recorded for it (R237). -/
inductive RemoteOp where
  | own (slot : SlotN)
  | other (src : BitVec 8) (who : Waiter) (mark : Bool)
deriving DecidableEq, Repr
/-- A unit that another cluster's copy engine delivers to this cluster (R250), with the packet's slot: to its pad, or as an element of a
ring of a kind. -/
inductive EngArrival where
  | pad (who : Waiter) (off : Nat) (data : List Byte) (p : List Bool)
  | ring (who : Waiter) (r : RingN) (kind : BitVec 2) (data : List Byte) (p : List Bool)
deriving DecidableEq, Repr

/-- An entry of the ranger's event queue (R316, R318). -/
structure EventRec where
  cause : BitVec 8
  slot  : BitVec 4
  info  : Word
  aux   : Word
deriving DecidableEq, Repr

/-- A register that the host reaches by a plain write (R344, R395, R385). -/
inductive DevReg where
  | jhead | jtail | qstat | mailCmd | mailData | mailStatus
  | report (i : Fin 512)
  | unassigned
deriving DecidableEq, Repr

/-- A flit of a Pritas link (R390): its fields, its payload bytes, those not given being zero, and the CRC it carries. -/
structure Flit where
  seq    : BitVec 12
  type   : BitVec 4
  ackseq : BitVec 12
  ackv   : Bool
  vn     : BitVec 2
  poison : Bool
  data   : List Byte
  crc    : BitVec 64
deriving DecidableEq, Repr

/-- What a home answers to an operation of another package (R237, R285): the value; not ready; not ready, and its waiter has been
recorded. -/
inductive HomeReply where
  | done (v : SVal)
  | notYet
  | marked
deriving DecidableEq, Repr
/-- What a message between packages asks its destination to do, or answers (R237, R283 to R285): stores and home operations of a
thread, their acknowledgements and replies, invalidations of 512-byte blocks and their acknowledgements, reads of lines, events
for a core's ranger; and that a message has arrived (R393). -/
inductive E2EBody where
  | store (st : OutStore) (who : Waiter)
  | ack (who : Waiter)
  | atomic (op : HomeOp) (who : Waiter) (mark : Bool)
  | reply (who : Waiter) (r : HomeReply)
  | invalidate (block : Nat)
  | invalAck (block : Nat)
  | read (line : Nat)
  | event (core : CoreId) (ev : EventRec)
  | got (vn : BitVec 2) (seq : Nat)
deriving DecidableEq, Repr

/-- A message between packages with its end-to-end sequence number (R393). -/
structure E2EMsg where
  src  : BitVec 8
  vn   : BitVec 2
  seq  : Nat
  body : E2EBody
deriving DecidableEq, Repr

/-- What a register soft error hits (R375). -/
inductive SoftTarget where
  | scalar (slot : SlotN) (r : SReg)
  | predicate (slot : SlotN) (q : PReg)
  | lane (entry : Fin 128) (lane : Fin 32)
  | element (tile : TileN) (i : Fin 1024)
deriving DecidableEq, Repr

/-- One constructor per row of the opcode table. Encoded instructions take their head fields first (R105). -/
inductive Instr where
  /-- NOP, opcode 0x000 -/
  | nop (h : Hdr)
  /-- BR, opcode 0x001 -/
  | br (h : Hdr) (j : BitVec 5) (l : BitVec 27)
  /-- JMP, opcode 0x002 -/
  | jmp (h : Hdr) (a : SReg)
  /-- CALL, opcode 0x003 -/
  | call (h : Hdr) (j : BitVec 5) (l : BitVec 27)
  /-- CALLI, opcode 0x004 -/
  | calli (h : Hdr) (a : SReg)
  /-- RET, opcode 0x005 -/
  | ret (h : Hdr)
  /-- FRAME, opcode 0x006 -/
  | frame (h : Hdr) (k : BitVec 5) (o : BitVec 5)
  /-- JTAB, opcode 0x007 -/
  | jtab (h : Hdr) (a : SReg) (b : SReg) (x : BitVec 12)
  /-- LOOP, opcode 0x008 -/
  | loop (h : Hdr) (d : SReg) (a : SReg) (j : BitVec 5) (l : BitVec 17)
  /-- EXIT, opcode 0x009 -/
  | exit (h : Hdr)
  /-- YIELD, opcode 0x00a -/
  | yield (h : Hdr)
  /-- WAKEAT, opcode 0x00b -/
  | wakeat (h : Hdr) (a : SReg)
  /-- FORK, opcode 0x00c -/
  | fork (h : Hdr) (a : SReg) (b : SReg) (c : SReg) (lvl : BitVec 2)
  /-- JOIN, opcode 0x00d -/
  | join (h : Hdr) (a : SReg)
  /-- HIKE, opcode 0x00e -/
  | hike (h : Hdr) (a : SReg) (m : Bool)
  /-- POST, opcode 0x00f -/
  | post (h : Hdr) (a : SReg) (b : SReg) (c : SReg) (n : BitVec 4) (core : Bool) (reply : Bool)
  /-- SETTLE, opcode 0x010 -/
  | settle (h : Hdr)
  /-- BARC, opcode 0x011 -/
  | barc (h : Hdr) (d : BarN) (a : SReg)
  /-- BARG, opcode 0x012 -/
  | barg (h : Hdr)
  /-- FANOUT, opcode 0x013 -/
  | fanout (h : Hdr) (a : SReg)
  /-- TRAP, opcode 0x014 -/
  | trap (h : Hdr) (n : BitVec 5)
  /-- CHKERR, opcode 0x015 -/
  | chkerr (h : Hdr) (d : SReg) (m : Bool)
  /-- TSTAMP, opcode 0x016 -/
  | tstamp (h : Hdr) (d : SReg)
  /-- CYCLE, opcode 0x017 -/
  | cycle (h : Hdr) (d : SReg)
  /-- PITCH, opcode 0x018 -/
  | pitch (h : Hdr) (j : BitVec 5) (l : BitVec 27)
  /-- STRIKE, opcode 0x019 -/
  | strike (h : Hdr) (d : SReg)
  /-- DOUSE, opcode 0x01a -/
  | douse (h : Hdr)
  /-- FENCE, opcode 0x01b -/
  | fence (h : Hdr) (sc : Scope) (m : Bool)
  /-- CHUNK, opcode 0x01c -/
  | chunk (h : Hdr)
  /-- GETSR, opcode 0x01d -/
  | getsr (h : Hdr) (d : SReg) (x : BitVec 12)
  /-- SETSR, opcode 0x01e -/
  | setsr (h : Hdr) (a : SReg) (x : BitVec 12)
  /-- IFLUSH, opcode 0x01f -/
  | iflush (h : Hdr)
  /-- ADD, opcode 0x040 -/
  | add (h : Hdr) (d : SReg) (a : SReg) (b : SReg) (m : Bool)
  /-- SUB, opcode 0x041 -/
  | sub (h : Hdr) (d : SReg) (a : SReg) (b : SReg) (m : Bool)
  /-- MUL, opcode 0x043 -/
  | mul (h : Hdr) (d : SReg) (a : SReg) (b : SReg) (m : Bool)
  /-- MULH, opcode 0x044 -/
  | mulh (h : Hdr) (d : SReg) (a : SReg) (b : SReg) (m : Bool)
  /-- DIV, opcode 0x045 -/
  | div (h : Hdr) (d : SReg) (a : SReg) (b : SReg) (m : Bool)
  /-- REM, opcode 0x046 -/
  | rem (h : Hdr) (d : SReg) (a : SReg) (b : SReg) (m : Bool)
  /-- AND, opcode 0x047 -/
  | and (h : Hdr) (d : SReg) (a : SReg) (b : SReg) (m : Bool)
  /-- OR, opcode 0x048 -/
  | or (h : Hdr) (d : SReg) (a : SReg) (b : SReg) (m : Bool)
  /-- XOR, opcode 0x049 -/
  | xor (h : Hdr) (d : SReg) (a : SReg) (b : SReg) (m : Bool)
  /-- ANDN, opcode 0x04a -/
  | andn (h : Hdr) (d : SReg) (a : SReg) (b : SReg) (m : Bool)
  /-- SHL, opcode 0x04e -/
  | shl (h : Hdr) (d : SReg) (a : SReg) (b : SReg) (m : Bool)
  /-- SHR, opcode 0x04f -/
  | shr (h : Hdr) (d : SReg) (a : SReg) (b : SReg) (m : Bool)
  /-- ROT, opcode 0x052 -/
  | rot (h : Hdr) (d : SReg) (a : SReg) (b : SReg) (m : Bool)
  /-- MIN, opcode 0x056 -/
  | min (h : Hdr) (d : SReg) (a : SReg) (b : SReg) (m : Bool)
  /-- MAX, opcode 0x057 -/
  | max (h : Hdr) (d : SReg) (a : SReg) (b : SReg) (m : Bool)
  /-- CLZ, opcode 0x053 -/
  | clz (h : Hdr) (d : SReg) (a : SReg) (m : Bool)
  /-- CTZ, opcode 0x054 -/
  | ctz (h : Hdr) (d : SReg) (a : SReg) (m : Bool)
  /-- POPC, opcode 0x055 -/
  | popc (h : Hdr) (d : SReg) (a : SReg) (m : Bool)
  /-- MOV, opcode 0x05d -/
  | mov (h : Hdr) (d : SReg) (a : SReg) (m : Bool)
  /-- ADDI, opcode 0x042 -/
  | addi (h : Hdr) (d : SReg) (a : SReg) (i : BitVec 22)
  /-- ANDI, opcode 0x04b -/
  | andi (h : Hdr) (d : SReg) (a : SReg) (i : BitVec 22)
  /-- ORI, opcode 0x04c -/
  | ori (h : Hdr) (d : SReg) (a : SReg) (i : BitVec 22)
  /-- XORI, opcode 0x04d -/
  | xori (h : Hdr) (d : SReg) (a : SReg) (i : BitVec 22)
  /-- SHLI, opcode 0x050 -/
  | shli (h : Hdr) (d : SReg) (a : SReg) (n : BitVec 6)
  /-- SHRI, opcode 0x051 -/
  | shri (h : Hdr) (d : SReg) (a : SReg) (n : BitVec 6) (ar : Bool)
  /-- EXT, opcode 0x058 -/
  | ext (h : Hdr) (d : SReg) (a : SReg) (p : BitVec 6) (n : BitVec 6)
  /-- EXTS, opcode 0x059 -/
  | exts (h : Hdr) (d : SReg) (a : SReg) (p : BitVec 6) (n : BitVec 6)
  /-- INS, opcode 0x05a -/
  | ins (h : Hdr) (d : SReg) (a : SReg) (p : BitVec 6) (n : BitVec 6)
  /-- MOVI, opcode 0x05b -/
  | movi (h : Hdr) (d : SReg) (i : BitVec 48)
  /-- MOVK, opcode 0x05c -/
  | movk (h : Hdr) (d : SReg) (i : BitVec 16) (hw : BitVec 2)
  /-- SEL, opcode 0x05e -/
  | sel (h : Hdr) (d : SReg) (a : SReg) (b : SReg) (q : PReg) (neg : Bool)
  /-- LEA, opcode 0x05f -/
  | lea (h : Hdr) (d : SReg) (a : SReg) (b : SReg) (sh : BitVec 2) (disp : BitVec 10)
  /-- GETK, opcode 0x060 -/
  | getk (h : Hdr) (d : SReg) (a : KReg)
  /-- SETK, opcode 0x061 -/
  | setk (h : Hdr) (d : KReg) (a : SReg)
  /-- FADD, opcode 0x080 -/
  | fadd (h : Hdr) (d : SReg) (a : SReg) (b : SReg) (t : FTy) (rm : Rm)
  /-- FSUB, opcode 0x081 -/
  | fsub (h : Hdr) (d : SReg) (a : SReg) (b : SReg) (t : FTy) (rm : Rm)
  /-- FMUL, opcode 0x082 -/
  | fmul (h : Hdr) (d : SReg) (a : SReg) (b : SReg) (t : FTy) (rm : Rm)
  /-- FDIV, opcode 0x084 -/
  | fdiv (h : Hdr) (d : SReg) (a : SReg) (b : SReg) (t : FTy) (rm : Rm)
  /-- FFMA, opcode 0x083 -/
  | ffma (h : Hdr) (d : SReg) (a : SReg) (b : SReg) (c : SReg) (t : FTy) (rm : Rm)
  /-- FSQRT, opcode 0x085 -/
  | fsqrt (h : Hdr) (d : SReg) (a : SReg) (t : FTy) (rm : Rm)
  /-- FMIN, opcode 0x086 -/
  | fmin (h : Hdr) (d : SReg) (a : SReg) (b : SReg) (t : FTy)
  /-- FMAX, opcode 0x087 -/
  | fmax (h : Hdr) (d : SReg) (a : SReg) (b : SReg) (t : FTy)
  /-- FSGN, opcode 0x088 -/
  | fsgn (h : Hdr) (d : SReg) (a : SReg) (b : SReg) (t : FTy) (op : SignOp)
  /-- FCVT, opcode 0x089 -/
  | fcvt (h : Hdr) (d : SReg) (a : SReg) (dt : CvtTy) (sty : CvtTy) (rm : Rm) (inf : Bool)
  /-- FRND, opcode 0x08a -/
  | frnd (h : Hdr) (d : SReg) (a : SReg) (t : FTy) (rm : Rm)
  /-- FCLS, opcode 0x08b -/
  | fcls (h : Hdr) (d : SReg) (a : SReg) (t : FTy)
  /-- FXF, opcode 0x08c -/
  | fxf (h : Hdr) (d : SReg) (a : SReg) (t : FTy) (rm : Rm) (fn : Fun)
  /-- CMP, opcode 0x0c0 -/
  | cmp (h : Hdr) (d : PReg) (c : PReg) (a : SReg) (b : SReg) (cd : Cond) (un : Bool)
  /-- CMPI, opcode 0x0c1 -/
  | cmpi (h : Hdr) (d : PReg) (c : PReg) (a : SReg) (cd : Cond) (un : Bool) (i : BitVec 12)
  /-- FCMP, opcode 0x0c2 -/
  | fcmp (h : Hdr) (d : PReg) (c : PReg) (a : SReg) (b : SReg) (t : FTy) (cd : Cond)
  /-- PLOG, opcode 0x0c3 -/
  | plog (h : Hdr) (d : PReg) (a : PReg) (b : PReg) (tt : BitVec 4)
  /-- PFROM, opcode 0x0c4 -/
  | pfrom (h : Hdr) (d : PReg) (a : SReg)
  /-- PTOS, opcode 0x0c5 -/
  | ptos (h : Hdr) (d : SReg) (a : PReg)
  /-- PCNT, opcode 0x0c6 -/
  | pcnt (h : Hdr) (d : SReg) (a : PReg)
  /-- PFIRST, opcode 0x0c7 -/
  | pfirst (h : Hdr) (d : SReg) (a : PReg)
  /-- PLIM, opcode 0x0c8 -/
  | plim (h : Hdr) (d : PReg) (a : SReg) (b : SReg) (byte : Bool)
  /-- VCMP, opcode 0x0c9 -/
  | vcmp (h : Hdr) (d : PReg) (c : PReg) (a : VNum) (b : VNum) (t : VTy) (cd : Cond) (sb : Bool)
  /-- LD, opcode 0x100 -/
  | ld (h : Hdr) (d : SReg) (a : SReg) (b : SReg) (k : KReg) (t : IType) (sh : BitVec 2) (disp : BitVec 5)
  /-- ST, opcode 0x101 -/
  | st (h : Hdr) (d : SReg) (a : SReg) (b : SReg) (k : KReg) (t : IType) (sh : BitVec 2) (disp : BitVec 5)
  /-- LDF, opcode 0x108 -/
  | ldf (h : Hdr) (d : SReg) (a : SReg) (b : SReg) (k : KReg) (t : IType) (sh : BitVec 2) (disp : BitVec 5)
  /-- LDFE, opcode 0x109 -/
  | ldfe (h : Hdr) (d : SReg) (a : SReg) (b : SReg) (k : KReg) (t : IType) (sh : BitVec 2) (disp : BitVec 5)
  /-- STEF, opcode 0x10a -/
  | stef (h : Hdr) (d : SReg) (a : SReg) (b : SReg) (k : KReg) (t : IType) (sh : BitVec 2) (disp : BitVec 5)
  /-- STF, opcode 0x10b -/
  | stf (h : Hdr) (d : SReg) (a : SReg) (b : SReg) (k : KReg) (t : IType) (sh : BitVec 2) (disp : BitVec 5)
  /-- LDO, opcode 0x102 -/
  | ldo (h : Hdr) (d : SReg) (a : SReg) (k : KReg) (t : IType) (i : BitVec 48)
  /-- STO, opcode 0x103 -/
  | sto (h : Hdr) (d : SReg) (a : SReg) (k : KReg) (t : IType) (i : BitVec 48)
  /-- VLD, opcode 0x104 -/
  | vld (h : Hdr) (d : VNum) (a : SReg) (b : SReg) (disp : BitVec 5) (k : KReg) (t : VTy) (sh : BitVec 2)
  /-- VST, opcode 0x105 -/
  | vst (h : Hdr) (d : VNum) (a : SReg) (b : SReg) (disp : BitVec 5) (k : KReg) (t : VTy) (sh : BitVec 2) (rm : Rm) (nar : Bool)
  /-- VLDG, opcode 0x106 -/
  | vldg (h : Hdr) (d : VNum) (a : SReg) (b : VNum) (k : KReg) (t : VTy) (sh : BitVec 2) (sgn : Bool)
  /-- VSTS, opcode 0x107 -/
  | vsts (h : Hdr) (d : VNum) (a : SReg) (b : VNum) (k : KReg) (t : VTy) (sh : BitVec 2) (sgn : Bool)
  /-- GATHN, opcode 0x110 -/
  | gathn (h : Hdr) (d : VNum) (a : SReg) (b : VNum) (k : KReg) (t : VTy) (sh : BitVec 2) (sgn : Bool)
  /-- FESET, opcode 0x10c -/
  | feset (h : Hdr) (k : KReg) (a : SReg) (m : Bool)
  /-- ATOM, opcode 0x10d -/
  | atom (h : Hdr) (d : SReg) (a : SReg) (b : SReg) (k : KReg) (op : AtomOp) (w : Bool)
  /-- CAS, opcode 0x10e -/
  | cas (h : Hdr) (d : SReg) (a : SReg) (b : SReg) (c : SReg) (k : KReg) (w : Bool)
  /-- VRED, opcode 0x10f -/
  | vred (h : Hdr) (a : SReg) (b : VNum) (k : KReg) (op : FoldOp) (t : VTy)
  /-- PREF, opcode 0x111 -/
  | pref (h : Hdr) (k : KReg) (a : SReg) (m : Bool)
  /-- STASH, opcode 0x112 -/
  | stash (h : Hdr) (a : SReg) (b : SReg) (c : SReg)
  /-- UNSTASH, opcode 0x113 -/
  | unstash (h : Hdr) (d : SReg) (a : SReg)
  /-- FLUSH, opcode 0x114 -/
  | flush (h : Hdr) (d : SReg) (a : SReg) (b : SReg) (k : KReg)
  /-- COPY, opcode 0x115 -/
  | copy (h : Hdr) (d : SReg) (a : SReg) (b : SReg) (c : SReg) (desc : Bool) (ring : Bool)
  /-- MCAST, opcode 0x116 -/
  | mcast (h : Hdr) (d : SReg) (a : SReg) (b : SReg) (c : SReg) (ring : Bool)
  /-- VADD, opcode 0x140 -/
  | vadd (h : Hdr) (d : VNum) (a : VNum) (b : VNum) (t : VTy) (rm : Rm) (na : Bool) (nb : Bool) (sat : Bool) (sb : Bool)
  /-- VSUB, opcode 0x141 -/
  | vsub (h : Hdr) (d : VNum) (a : VNum) (b : VNum) (t : VTy) (rm : Rm) (na : Bool) (nb : Bool) (sat : Bool) (sb : Bool)
  /-- VMUL, opcode 0x142 -/
  | vmul (h : Hdr) (d : VNum) (a : VNum) (b : VNum) (t : VTy) (rm : Rm) (na : Bool) (nb : Bool) (sat : Bool) (sb : Bool)
  /-- VFMA, opcode 0x143 -/
  | vfma (h : Hdr) (d : VNum) (a : VNum) (b : VNum) (c : VNum) (t : VTy) (rm : Rm) (na : Bool) (nb : Bool) (nc : Bool) (sat : Bool) (sb : Bool)
  /-- VMIN, opcode 0x144 -/
  | vmin (h : Hdr) (d : VNum) (a : VNum) (b : VNum) (t : VTy) (sb : Bool)
  /-- VMAX, opcode 0x145 -/
  | vmax (h : Hdr) (d : VNum) (a : VNum) (b : VNum) (t : VTy) (sb : Bool)
  /-- VAND, opcode 0x14a -/
  | vand (h : Hdr) (d : VNum) (a : VNum) (b : VNum) (t : VTy) (sb : Bool)
  /-- VOR, opcode 0x14b -/
  | vor (h : Hdr) (d : VNum) (a : VNum) (b : VNum) (t : VTy) (sb : Bool)
  /-- VXOR, opcode 0x14c -/
  | vxor (h : Hdr) (d : VNum) (a : VNum) (b : VNum) (t : VTy) (sb : Bool)
  /-- VSHR, opcode 0x14e -/
  | vshr (h : Hdr) (d : VNum) (a : VNum) (b : VNum) (t : VTy) (sb : Bool)
  /-- VMULH, opcode 0x14f -/
  | vmulh (h : Hdr) (d : VNum) (a : VNum) (b : VNum) (t : VTy) (sb : Bool)
  /-- VSGN, opcode 0x146 -/
  | vsgn (h : Hdr) (d : VNum) (a : VNum) (b : VNum) (t : VTy) (op : SignOp) (sb : Bool)
  /-- VDIV, opcode 0x147 -/
  | vdiv (h : Hdr) (d : VNum) (a : VNum) (b : VNum) (t : VTy) (rm : Rm) (sb : Bool)
  /-- VXF, opcode 0x148 -/
  | vxf (h : Hdr) (d : VNum) (a : VNum) (t : VTy) (rm : Rm) (fn : Fun)
  /-- VCVT, opcode 0x149 -/
  | vcvt (h : Hdr) (d : VNum) (a : VNum) (dt : VTy) (sty : VTy) (rm : Rm) (x : Bool)
  /-- VSHL, opcode 0x14d -/
  | vshl (h : Hdr) (d : VNum) (a : VNum) (b : VNum) (t : VTy) (sat : Bool) (sb : Bool)
  /-- VDOT, opcode 0x150 -/
  | vdot (h : Hdr) (d : VNum) (a : VNum) (b : VNum) (t : VTy) (rm : Rm) (na : Bool) (nb : Bool) (sat : Bool) (sb : Bool)
  /-- VCLAMP, opcode 0x151 -/
  | vclamp (h : Hdr) (d : VNum) (a : VNum) (b : VNum) (c : VNum) (t : VTy) (sb : Bool)
  /-- VSEL, opcode 0x152 -/
  | vsel (h : Hdr) (d : VNum) (a : VNum) (b : VNum) (q : PReg) (neg : Bool) (t : VTy) (sb : Bool)
  /-- VMOV, opcode 0x180 -/
  | vmov (h : Hdr) (d : VNum) (a : VNum)
  /-- VBCAST, opcode 0x181 -/
  | vbcast (h : Hdr) (d : VNum) (a : SReg) (t : VTy)
  /-- VGET, opcode 0x182 -/
  | vget (h : Hdr) (d : SReg) (a : VNum) (lane : BitVec 5) (sx : Bool)
  /-- VINS, opcode 0x183 -/
  | vins (h : Hdr) (d : VNum) (a : SReg) (lane : BitVec 5)
  /-- VPERM, opcode 0x184 -/
  | vperm (h : Hdr) (d : VNum) (a : VNum) (b : VNum) (t : VTy) (sb : Bool)
  /-- VSLIDE, opcode 0x185 -/
  | vslide (h : Hdr) (d : VNum) (a : VNum) (t : VTy) (n : BitVec 6)
  /-- VFOLD, opcode 0x186 -/
  | vfold (h : Hdr) (d : SReg) (a : VNum) (t : VTy) (rm : Rm) (op : FoldOp)
  /-- VSCAN, opcode 0x187 -/
  | vscan (h : Hdr) (d : VNum) (a : VNum) (t : VTy) (rm : Rm) (op : FoldOp)
  /-- VIDX, opcode 0x188 -/
  | vidx (h : Hdr) (d : VNum) (m : Bool)
  /-- VPACK, opcode 0x189 -/
  | vpack (h : Hdr) (d : VNum) (a : VNum) (b : VNum) (dt : PackTy) (rm : Rm) (nar : Bool)
  /-- VUNPK, opcode 0x18a -/
  | vunpk (h : Hdr) (d : VNum) (a : VNum) (sty : PackTy) (n : Bool)
  /-- TENC, opcode 0x18b -/
  | tenc (h : Hdr) (d : VNum) (a : VNum)
  /-- TDEC, opcode 0x18c -/
  | tdec (h : Hdr) (d : VNum) (a : VNum)
  /-- TLOAD, opcode 0x18d -/
  | tload (h : Hdr) (d : SReg) (a : SReg)
  /-- VMXS, opcode 0x18e -/
  | vmxs (h : Hdr) (d : VNum) (a : VNum) (b : VNum) (rm : Rm) (inf : Bool) (sb : Bool)
  /-- RDEF, opcode 0x1c0 -/
  | rdef (h : Hdr) (d : RingN) (a : SReg) (b : SReg)
  /-- RPUSH, opcode 0x1c1 -/
  | rpush (h : Hdr) (d : RingN) (a : VNum) (vec : Bool)
  /-- RPOP, opcode 0x1c2 -/
  | rpop (h : Hdr) (d : VNum) (a : RingN) (vec : Bool)
  /-- RSTAT, opcode 0x1c3 -/
  | rstat (h : Hdr) (d : SReg) (a : RingN)
  /-- BIND, opcode 0x1c4 -/
  | bind (h : Hdr) (d : VNum) (a : VNum) (mode : BindMode) (desc : Bool) (k : KReg)
  /-- UNBIND, opcode 0x1c5 -/
  | unbind (h : Hdr) (d : VNum)
  /-- MMA, opcode 0x1c6 -/
  | mma (h : Hdr) (d : TileN) (a : RingN) (b : RingN) (n : BitVec 6)
  /-- MZERO, opcode 0x1c7 -/
  | mzero (h : Hdr) (d : TileN)
  /-- MDRAIN, opcode 0x1c8 -/
  | mdrain (h : Hdr) (d : TileN) (a : SReg) (c : SReg) (k : KReg)
  /-- MFILL, opcode 0x1c9 -/
  | mfill (h : Hdr) (d : TileN) (a : SReg) (k : KReg)
  /-- RQUERY, opcode 0x1ca -/
  | rquery (h : Hdr) (d : SReg) (a : SReg) (k : KReg)
  /-- RETT, opcode 0x1e0 -/
  | rett (h : Hdr)
  /-- CTXSAVE, opcode 0x1e1 -/
  | ctxsave (h : Hdr) (d : SReg) (a : SReg) (b : SReg)
  /-- CTXLOAD, opcode 0x1e2 -/
  | ctxload (h : Hdr) (d : SReg) (a : SReg) (b : SReg)
  /-- RLOAD, opcode 0x1e7 -/
  | rload (h : Hdr) (d : SReg) (a : SReg) (b : SReg)
  /-- RINVAL, opcode 0x1e8 -/
  | rinval (h : Hdr) (d : SReg) (a : SReg) (b : SReg)
  /-- RSPLIT, opcode 0x1e9 -/
  | rsplit (h : Hdr) (d : SReg) (a : SReg) (b : SReg)
  /-- RMERGE, opcode 0x1ea -/
  | rmerge (h : Hdr) (d : SReg) (a : SReg) (b : SReg)
  /-- RGROW, opcode 0x1eb -/
  | rgrow (h : Hdr) (d : SReg) (a : SReg) (b : SReg)
  /-- RCOMPACT, opcode 0x1ec -/
  | rcompact (h : Hdr) (d : SReg) (a : SReg) (b : SReg)
  /-- RESUME, opcode 0x1e3 -/
  | resume (h : Hdr) (a : SReg)
  /-- KILLT, opcode 0x1e4 -/
  | killt (h : Hdr) (a : SReg)
  /-- DBGHALT, opcode 0x1ee -/
  | dbghalt (h : Hdr) (a : SReg)
  /-- WAKEF, opcode 0x1ef -/
  | wakef (h : Hdr) (a : SReg)
  /-- CREDSYNC, opcode 0x1f0 -/
  | credsync (h : Hdr) (a : SReg)
  /-- GETPR, opcode 0x1e5 -/
  | getpr (h : Hdr) (d : SReg) (x : BitVec 12)
  /-- SETPR, opcode 0x1e6 -/
  | setpr (h : Hdr) (a : SReg) (x : BitVec 12)
  /-- IDLE, opcode 0x1ed -/
  | idle (h : Hdr)
  /-- the step FAR_ARRIVAL -/
  | farArrival (slot : SlotN) (seq : BitVec 8)
  /-- the step CROWN_TRAP -/
  | crownTrap (slot : SlotN)
  /-- the step CROWN_REPLAY -/
  | crownReplay (slot : SlotN) (why : Park)
  /-- the step KILL_APPLY -/
  | killApply (slot : SlotN)
  /-- the step REPLAY_WAKE -/
  | replayWake (slot : SlotN)
  /-- the step LINE_FILL -/
  | lineFill (slot : SlotN)
  /-- the step SLOT_FILL -/
  | slotFill (f : Fill) (around : List Victim)
  /-- the step TASK_PUSH -/
  | taskPush (push : Pushed)
  /-- the step JOIN_DECREMENT -/
  | joinDecrement (ref : WordRef) (slot : SlotN)
  /-- the step JOIN_RETRY -/
  | joinRetry (slot : SlotN)
  /-- the step SYNC_RETRY -/
  | syncRetry (slot : SlotN)
  /-- the step CORE_SHARE_FINISHED -/
  | coreShareFinished (rep : ShareReport)
  /-- the step HIKER_ARRIVAL -/
  | hikerArrival (hk : HikerMsg)
  /-- the step GUEST_START -/
  | guestStart (slot : SlotN)
  /-- the step CREDIT_REQUEST -/
  | creditRequest (src : CoreId) (reply : Bool) (ticket : Option (BitVec 16))
  /-- the step CREDIT_GRANT -/
  | creditGrant (dest : CoreId) (reply : Bool)
  /-- the step CREDIT_RETRY -/
  | creditRetry (dest : CoreId) (reply : Bool) (ticket : BitVec 16)
  /-- the step CREDIT_HOLD_TIMEOUT -/
  | creditHoldTimeout (reply : Bool)
  /-- the step CREDIT_RETURN -/
  | creditReturn (peer : CoreId) (reply : Bool) (atDest : Bool)
  /-- the step BARRIER_ARRIVAL -/
  | barrierArrival (who : Waiter) (ctr : BarN) (count : Nat)
  /-- the step BARG_ARRIVAL -/
  | bargArrival (who : Option SlotN) (n : Nat)
  /-- the step CHUNK_COMMIT -/
  | chunkCommit (who : Committer)
  /-- the step SOLO_GRANT -/
  | soloGrant (slot : SlotN)
  /-- the step SINGLETON_PERFORM -/
  | singletonPerform (who : Performer)
  /-- the step WINDOW_FORMAT_APPLY -/
  | windowFormatApply (win : Fin 8) (fmt : BitVec 4)
  /-- the step RDEF_PERFORM -/
  | rdefPerform (ring : RingN)
  /-- the step STREAM_PREFETCH -/
  | streamPrefetch (slot : SlotN) (b : Fin 4)
  /-- the step WALKER_RUN -/
  | walkerRun (cmd : WalkCmd)
  /-- the step GATHER_RETURN -/
  | gatherReturn (gat : Gather)
  /-- the step TABLE_LOAD_COMPLETE -/
  | tableLoadComplete (ld : TableLoad)
  /-- the step PAD_LINE_FILL -/
  | padLineFill (line : Nat)
  /-- the step RANGE_WALK -/
  | rangeWalk (space : BitVec 16) (va : Nat)
  /-- the step RANGE_FILL -/
  | rangeFill (space : BitVec 16) (va : Nat) (desc : Option RangeDesc)
  /-- the step RANGE_COMMAND_EXECUTE -/
  | rangeCommandExecute (cmd : RangeCmd)
  /-- the step REMOTE_STORE_PERFORM -/
  | remoteStorePerform (away : AwayStore)
  /-- the step REMOTE_ACK -/
  | remoteAck (ack : AckFrom)
  /-- the step REMOTE_INVALIDATE -/
  | remoteInvalidate (line : Nat)
  /-- the step REMOTE_ATOMIC_PERFORM -/
  | remoteAtomicPerform (who : RemoteOp) (op : HomeOp)
  /-- the step HOST_STORE_SEND -/
  | hostStoreSend (slot : SlotN)
  /-- the step CXL_MEM_WRITE -/
  | cxlMemWrite (a : Nat) (data : List (BitVec 8)) (poison : Bool)
  /-- the step HOST_SNOOP -/
  | hostSnoop (line : Nat)
  /-- the step BACK_INVALIDATE -/
  | backInvalidate (line : Nat)
  /-- the step EVENT_ENQUEUE -/
  | eventEnqueue (ev : EventRec)
  /-- the step EVENT_RETRY -/
  | eventRetry (ev : EventRec)
  /-- the step PREEMPT_STOP -/
  | preemptStop (mask : BitVec 15)
  /-- the step TRAPPC_WRITE -/
  | trappcWrite (v : BitVec 64)
  /-- the step TREG_WRITE -/
  | tregWrite (v : BitVec 64)
  /-- the step RESUME_COMMAND -/
  | resumeCommand (w : BitVec 18)
  /-- the step IMAGE_ARRIVAL -/
  | imageArrival (img : Nat) (seq : BitVec 8)
  /-- the step WAKEAT_EXPIRY -/
  | wakeatExpiry (slot : SlotN)
  /-- the step DOORBELL -/
  | doorbell (off : BitVec 64)
  /-- the step SHARE_DELIVER -/
  | shareDeliver (sh : Share)
  /-- the step GANG_READY -/
  | gangReady (gang : Gang) (core : CoreId)
  /-- the step GANG_TIMEOUT -/
  | gangTimeout (gang : Gang)
  /-- the step LAUNCH_DONE -/
  | launchDone (seq : BitVec 32)
  /-- the step CORE_CONTAIN -/
  | coreContain (cls : BitVec 2)
  /-- the step SEALED_ARRIVAL -/
  | sealedArrival (hk : HikerMsg)
  /-- the step END_TO_END_MESSAGE -/
  | endToEndMessage (msg : E2EMsg)
  /-- the step READ_DEBUG_REGISTER -/
  | readDebugRegister (core : CoreId) (num : BitVec 12)
  /-- the step WRITE_DEBUG_REGISTER -/
  | writeDebugRegister (core : CoreId) (num : BitVec 12) (v : BitVec 64)
  /-- the step SET_FREQUENCY -/
  | setFrequency (v : BitVec 64)
  /-- the step SET_POWER_CAP -/
  | setPowerCap (v : BitVec 64)
  /-- the step ISSUE_COUNTER_CLEAR -/
  | issueCounterClear (num : BitVec 12)
  /-- the step CENSUS_CLEAR -/
  | censusClear (num : BitVec 12)
  /-- the step RANGE_WALK_RETRY -/
  | rangeWalkRetry (space : BitVec 16) (va : Nat)
  /-- the step PACK_READBACK -/
  | packReadback
  /-- the step CORE_TAKE_LAUNCH -/
  | coreTakeLaunch
  /-- the step CREDIT_WATCHDOG -/
  | creditWatchdog
  /-- the step ENGINE_COMMAND_RUN -/
  | engineCommandRun
  /-- the step ENGINE_REVALIDATE -/
  | engineRevalidate
  /-- the step ENGINE_RESUME -/
  | engineResume
  /-- the step MATRIX_TILE_OP -/
  | matrixTileOp
  /-- the step RANGER_DISPATCH -/
  | rangerDispatch
  /-- the step TIMER_INTERRUPT -/
  | timerInterrupt
  /-- the step PREEMPT_INTERRUPT -/
  | preemptInterrupt
  /-- the step SKIP -/
  | skip
  /-- the step RETRY -/
  | retry
  /-- the step PACK_SPILL_RETRY -/
  | packSpillRetry
  /-- the step DEPENDENCY_SAMPLE -/
  | dependencySample
  /-- the step LAUNCH_DISPATCH -/
  | launchDispatch
  /-- the step TIMED_START -/
  | timedStart
  /-- the step PARTITION_SWAP_OUT -/
  | partitionSwapOut
  /-- the step PARTITION_SWAP_IN -/
  | partitionSwapIn
  /-- the step CONTAIN_OWED_TIMEOUT -/
  | containOwedTimeout
  /-- the step PARTITION_CONTAIN -/
  | partitionContain
  /-- the step ATTEST -/
  | attest
  /-- the step XTRIG -/
  | xtrig
  /-- the step RELEASE -/
  | release
  /-- the step FREQUENCY_SWITCH -/
  | frequencySwitch
  /-- the step DROOP_TRIP -/
  | droopTrip
  /-- the step DROOP_END -/
  | droopEnd
  /-- the step POWER_ON_RESET -/
  | powerOnReset
  /-- the step SIGNATURE_VERIFY -/
  | signatureVerify
  /-- the step HBM_LINK_TRAINING -/
  | hbmLinkTraining
  /-- the step CONFIGURATION_LOAD -/
  | configurationLoad
  /-- the step LAUNCH_PORTS_OPEN -/
  | launchPortsOpen
  /-- the step PARTITION_RESET -/
  | partitionReset
  /-- the step CREDIT_CHECK -/
  | creditCheck (peer : CoreId) (rep : CreditReport) (own : OwnCounters)
  /-- the step CXL_MEM_READ -/
  | cxlMemRead (a : Nat) (n : Nat)
  /-- the step BACK_INVALIDATE_RESPONSE -/
  | backInvalidateResponse (line : Nat)
  /-- the step REGISTER_WRITE -/
  | registerWrite (reg : DevReg) (v : BitVec 64)
  /-- the step POISONED_TAIL -/
  | poisonedTail (src : CoreId) (reply : Bool)
  /-- the step CANCEL -/
  | cancel (seq : BitVec 32)
  /-- the step ECC_CORRECTED -/
  | eccCorrected (a : Nat)
  /-- the step ECC_UNCORRECTABLE -/
  | eccUncorrectable (a : Nat)
  /-- the step REGISTER_SOFT_ERROR -/
  | registerSoftError (tgt : SoftTarget)
  /-- the step ENGINE_RESET -/
  | engineReset (walker : Bool)
  /-- the step CHANNEL_THRESHOLD -/
  | channelThreshold (spans : List (Nat × Nat))
  /-- the step SHADOW_COMPARE -/
  | shadowCompare (slot : SlotN) (same : Bool)
  /-- the step PORT_TRAIN -/
  | portTrain (width : Nat) (rate : Nat)
  /-- the step HOST_MESSAGE -/
  | hostMessage (core : CoreId) (w : BitVec 64)
  /-- the step FLIT_RECEIVE -/
  | flitReceive (link : LinkN) (f : Flit)
  /-- the step NEGATIVE_ACKNOWLEDGEMENT -/
  | negativeAcknowledgement (link : LinkN) (seq : BitVec 12)
  /-- the step ACKNOWLEDGEMENT -/
  | acknowledgement (link : LinkN) (seq : BitVec 12)
  /-- the step REPLAY_TIMEOUT -/
  | replayTimeout (link : LinkN)
  /-- the step LINK_RETRAIN -/
  | linkRetrain (link : LinkN) (failed : BitVec 16)
  /-- the step LINK_DOWN -/
  | linkDown (link : LinkN)
  /-- the step TWIN_MISMATCH -/
  | twinMismatch (seq : BitVec 32)
  /-- the step POWER_ESTIMATE -/
  | powerEstimate (duty : Fin 17)
  /-- the step NEW_IMAGE -/
  | newImage (img : List (BitVec 8))
  /-- the step LINK_RESET -/
  | linkReset (link : LinkN)
  /-- the step ROUTE_REBUILD -/
  | routeRebuild (gone : List (BitVec 8))
deriving DecidableEq, Repr

end Sys2Proof
end

