-- ==== Sys2Proof/Machine/Alu.lean ====
section
/-! DEFINITION. The scalar integer arithmetic of R188 to R195 and the predicate bits of R53 and R215, on plain values. -/
namespace Sys2Proof.Machine

/-- A result under .w: the low 32 bits, sign-extended (R188). -/
def wRes (m : Bool) (r : Word) : Word := if m then (r.truncate 32).signExtend 64 else r

/-- The low n bits of x at position p, zero-extended (R191). -/
def fieldZ (x : Word) (p n : Nat) : Word := (x >>> p) &&& BitVec.ofNat 64 (2 ^ n - 1)
/-- The low n bits of x at position p, sign-extended (R191). -/
def fieldS (x : Word) (p n : Nat) : Word := (((x >>> p).truncate n).signExtend 64)
/-- x with its bits [p+n−1:p] replaced by the low n bits of y (R191). -/
def fieldIns (x y : Word) (p n : Nat) : Word :=
  let mask := BitVec.ofNat 64 (2 ^ n - 1)
  (x &&& ~~~(mask <<< p)) ||| ((y &&& mask) <<< p)

/-- Sign extension of an immediate field. -/
def sx {n : Nat} (i : BitVec n) : Word := i.signExtend 64

def aluAdd (m : Bool) (a b : Word) : Word := wRes m (a + b)
def aluSub (m : Bool) (a b : Word) : Word := wRes m (a - b)
def aluMul (m : Bool) (a b : Word) : Word := wRes m (a * b)
def aluAnd (m : Bool) (a b : Word) : Word := wRes m (a &&& b)
def aluOr (m : Bool) (a b : Word) : Word := wRes m (a ||| b)
def aluXor (m : Bool) (a b : Word) : Word := wRes m (a ^^^ b)
def aluAndn (m : Bool) (a b : Word) : Word := wRes m (a &&& ~~~b)
/-- MULH: bits [127:64] of the exact product, signed or unsigned under .n (R188). -/
def aluMulh (n : Bool) (a b : Word) : Word :=
  if n then BitVec.ofNat 64 (a.toNat * b.toNat / 2 ^ 64) else BitVec.ofInt 64 (a.toInt * b.toInt / 2 ^ 64)
/-- MIN, MAX: signed, or unsigned under .n (R188). -/
def aluMin (n : Bool) (a b : Word) : Word := if (if n then a.ult b else a.slt b) then a else b
def aluMax (n : Bool) (a b : Word) : Word := if (if n then a.ult b else a.slt b) then b else a
/-- DIV truncates toward zero; REM takes the sign of the dividend (R195). -/
def aluDiv (n : Bool) (a b : Word) : Word :=
  if n then BitVec.ofNat 64 (a.toNat / b.toNat) else BitVec.ofInt 64 (a.toInt.tdiv b.toInt)
def aluRem (n : Bool) (a b : Word) : Word :=
  if n then BitVec.ofNat 64 (a.toNat % b.toNat) else BitVec.ofInt 64 (a.toInt.tmod b.toInt)
/-- SHL; under .w the low 32 bits by b[4:0] (R188). -/
def aluShl (m : Bool) (a b : Word) : Word :=
  if m then wRes true (a <<< (b.toNat % 32)) else a <<< (b.toNat % 64)
/-- SHR, arithmetic under .a (R189). -/
def aluShr (ar : Bool) (a : Word) (n : Nat) : Word := if ar then a.sshiftRight (n % 64) else a >>> (n % 64)
/-- ROT right, left under .l (R189). -/
def aluRot (l : Bool) (a b : Word) : Word :=
  if l then a.rotateLeft (b.toNat % 64) else a.rotateRight (b.toNat % 64)

/-- Leading zeros of the low w bits: w minus the position above the highest set bit. -/
def clzNat (w x : Nat) : Nat := if x = 0 then w else w - 1 - Nat.log2 x
/-- Trailing zeros of the low w bits. -/
def ctzNat : Nat → Nat → Nat
  | 0, _ => 0
  | w + 1, x => if x % 2 = 1 then 0 else 1 + ctzNat w (x / 2)
/-- Set bits of the low w bits. -/
def popNat : Nat → Nat → Nat
  | 0, _ => 0
  | w + 1, x => x % 2 + popNat w (x / 2)

/-- The operand of a count: a, or its low 32 bits under .w, and the width (R189). -/
def cntW (m : Bool) : Nat := if m then 32 else 64
def cntArg (m : Bool) (a : Word) : Nat := a.toNat % 2 ^ cntW m
def aluClz (m : Bool) (a : Word) : Word := BitVec.ofNat 64 (clzNat (cntW m) (cntArg m a))
def aluCtz (m : Bool) (a : Word) : Word := BitVec.ofNat 64 (ctzNat (cntW m) (cntArg m a))
def aluPopc (m : Bool) (a : Word) : Word := BitVec.ofNat 64 (popNat (cntW m) (cntArg m a))

/-- MOVK: halfword h of x replaced (R190). -/
def aluMovk (x : Word) (i : BitVec 16) (h : BitVec 2) : Word := fieldIns x (i.setWidth 64) (16 * h.toNat) 16

/-- PLOG: bit e from the truth table at qa[e], qb[e] (R215). -/
def plogBits (tt : BitVec 4) (a b : Word) : Word :=
  let sel (i : Nat) : Word := if tt.getLsbD i then BitVec.allOnes 64 else 0
  (sel 0 &&& ~~~a &&& ~~~b) ||| (sel 1 &&& ~~~a &&& b) ||| (sel 2 &&& a &&& ~~~b) ||| (sel 3 &&& a &&& b)

/-- PLIM: bit e is set when a + e (a + 2e in byte mode) is below b, exactly and unsigned (R215). -/
def plimBits (byte : Bool) (a b : Word) : Word :=
  let step := if byte then 2 else 1
  let d := b.toNat - a.toNat
  let n := min 64 ((d + step - 1) / step)
  BitVec.ofNat 64 (2 ^ n - 1)

/-- A masked merge of predicate bits: governed bits from x, the others from the old value (R212). -/
def mergeBits (mask x old : Word) : Word := (x &&& mask) ||| (old &&& ~~~mask)

end Sys2Proof.Machine
end

