-- ==== Sys2Proof/Config.lean ====
section
/-! DEFINITION. What an implementation fixes and the spec leaves open: constants with no body, so that nothing can be
proved about their values. Each is named in the assumption log. -/
namespace Sys2Proof.Config

/-- Which of the pending steps goes next (log 10): the n-th choice among k candidates, taken modulo k. -/
opaque choice : Nat → Nat → Nat
/-- The value of a poisoned DIV or REM, 'any bits' (R195; log 13). -/
opaque poisonedDivide : Word → Word → Word
/-- How many timebase ticks pass before the n-th reading (log 3). -/
opaque ticks : Nat → Nat
/-- How many region cycles pass before the n-th reading (log 3). -/
opaque cycles : Nat → Nat
/-- A function value the enclosures leave undecided at the last precision tried (log 14). -/
opaque undecided : Nat → Nat → Nat
/-- A free word for every other open value of the spec, the n-th of a run (log 10). -/
opaque freeWord : Nat → Word
/-- The device identity key's identifier and private seed, which external storage holds (R406; log 18). -/
opaque deviceId : Nat
opaque deviceSeed : Nat
/-- The randomizer of the n-th attestation signature (R406; log 18). -/
opaque randomizer : Nat → Nat

end Sys2Proof.Config
end

