-- ==== Sys2Proof/WellFormed.lean ====
section
/-! DEFINITION. Which encoded instructions are well formed: the values of fields that R109 and the instruction
descriptions reserve beyond what the operand types already exclude. A breach raises Illegal Instruction (R119, check 10). -/
namespace Sys2Proof

/-- Is the conversion type an integer (R205)? -/
def CvtTy.isInt : CvtTy → Bool
  | .i32 => true | .n32 => true | .i64 => true | .n64 => true | _ => false
/-- Is the condition one of the integer conditions (R210)? -/
def Cond.isInt : Cond → Bool
  | .un => false | .or => false | _ => true
/-- Is the vector type an integer type (R216)? -/
def VTy.isInt : VTy → Bool
  | .f32 => false | .f16 => false | .bf16 => false | _ => true
/-- Element width of a vector type (R216). -/
def VTy.bits : VTy → Nat
  | .f32 => 32 | .f16 => 16 | .bf16 => 16 | .i32 => 32 | .n32 => 32 | .i16 => 16 | .n16 => 16 | .i8 => 8 | .n8 => 8
/-- Is the packed format an integer format (R256)? -/
def PackTy.isInt : PackTy → Bool
  | .i8 => true | .i16 => true | _ => false

/-- The numbers of R63's table. -/
def userReg (x : Nat) : Bool :=
  [0, 1, 2, 3, 4, 5, 6, 7, 8, 9, 10, 0x10, 0x11, 0x12, 0x13, 0x14, 0x15, 0x16, 0x17, 0x18, 0x20, 0x21].contains x
/-- The numbers of R313's table. -/
def privReg (x : Nat) : Bool :=
  [0x100, 0x101, 0x102, 0x103, 0x104, 0x105, 0x106, 0x108, 0x109, 0x10A, 0x10B, 0x10C, 0x10D, 0x110, 0x111, 0x112, 0x113,
    0x114, 0x115].contains x

/-- Well-formedness of an instruction; the part's own steps have no encoding and nothing to check. -/
def Instr.wf : Instr → Bool
  | .frame h k o => decide (h.g = 0 ∧ k.toNat ≠ 0 ∧ k.toNat ≤ 24 ∧ o.toNat ≤ 8 ∧ o.toNat ≤ k.toNat)
  | .loop _ d a _ _ => decide (d = a)
  | .post _ _ _ c n _ _ => decide (n = 0 → c = 0)
  | .getsr _ _ x => decide (userReg x.toNat)
  | .setsr _ _ x => decide (userReg x.toNat)
  | .ext _ _ _ p n => decide (p.toNat + n.toNat + 1 ≤ 64)
  | .exts _ _ _ p n => decide (p.toNat + n.toNat + 1 ≤ 64)
  | .ins _ _ _ p n => decide (p.toNat + n.toNat + 1 ≤ 64)
  | .fsgn _ _ _ b _ op => decide (op = .abs → b = 0)
  | .fcvt _ _ _ dt sty _ inf => decide (dt ≠ sty ∧ ¬ (dt.isInt ∧ sty.isInt) ∧ (inf → ¬ dt.isInt))
  | .fxf _ _ _ t _ _ => decide (t ≠ .f64)
  | .cmp _ d c _ _ cd _ => decide (cd.isInt ∧ (d = c → d = 0))
  | .cmpi _ d c _ cd _ _ => decide (cd.isInt ∧ (d = c → d = 0))
  | .fcmp _ d c _ _ _ _ => decide (d = c → d = 0)
  | .vcmp _ d c _ _ t cd _ => decide ((t.isInt → cd.isInt) ∧ (d = c → d = 0))
  | .vldg _ _ _ _ _ t _ _ => decide (t = .f32 ∨ t = .i32 ∨ t = .n32)
  | .vsts _ _ _ _ _ t _ _ => decide (t = .f32 ∨ t = .i32 ∨ t = .n32)
  | .gathn _ _ _ _ _ t _ _ => decide (t = .f32 ∨ t = .i32 ∨ t = .n32)
  | .atom _ _ _ _ _ op w => decide ((op = .fadd32 ∨ op = .faddbf) → w)
  | .vred _ _ _ _ _ t => decide (t = .f32 ∨ t = .bf16 ∨ t = .i32 ∨ t = .n32)
  | .vadd _ _ _ _ t rm _ _ sat _ => decide ((t.isInt → rm = .rne) ∧ (sat → t.isInt))
  | .vsub _ _ _ _ t rm _ _ sat _ => decide ((t.isInt → rm = .rne) ∧ (sat → t.isInt))
  | .vmul _ _ _ _ t rm _ _ sat _ => decide ((t.isInt → rm = .rne) ∧ (sat → t.isInt))
  | .vfma _ _ _ _ _ t rm _ _ _ sat _ => decide ((t.isInt → rm = .rne) ∧ (sat → t.isInt))
  | .vshr _ _ _ _ t _ => decide (t.isInt)
  | .vmulh _ _ _ _ t _ => decide (t.isInt)
  | .vsgn _ _ _ b t op sb => decide (¬ t.isInt ∧ (op = .abs → b = 0 ∧ ¬ sb))
  | .vdiv _ _ _ _ t _ _ => decide (¬ t.isInt)
  | .vxf _ _ _ t _ _ => decide (¬ t.isInt)
  | .vcvt _ _ _ dt sty rm x => decide (dt ≠ sty ∧ dt.bits = sty.bits ∧ (dt.isInt ∧ sty.isInt → rm = .rne) ∧ (x → dt.isInt → sty.isInt))
  | .vshl _ _ _ _ t _ _ => decide (t.isInt)
  | .vdot _ _ _ _ t rm _ _ sat _ => decide ((t = .f16 ∨ t = .bf16 ∨ t = .i16 ∨ t = .n16) ∧ (t.isInt → rm = .rne) ∧ (sat → t.isInt))
  | .vslide _ _ _ _ n => decide (n.toNat ≠ 32)
  | .vfold _ _ _ t rm op => decide ((t.isInt ∨ op ≠ .add) → rm = .rne)
  | .vscan _ _ _ t rm op => decide ((t.isInt ∨ op ≠ .add) → rm = .rne)
  | .vpack _ d _ b dt rm nar => decide ((dt.isInt ∨ dt = .t8 → rm = .rne) ∧ (dt = .t8 → ¬ nar) ∧ (dt ≠ .e2m1 → b = 0) ∧ (dt = .e2m1 → d ≠ b))
  | .vunpk _ _ _ sty n => decide (n → sty.isInt)
  | .bind _ _ _ _ desc k => decide (¬ desc → k = 0)
  | .getpr _ _ x => decide (privReg x.toNat)
  | .setpr _ _ x => decide (privReg x.toNat)
  | .nop _ => true
  | .br _ _ _ => true
  | .jmp _ _ => true
  | .call _ _ _ => true
  | .calli _ _ => true
  | .ret _ => true
  | .jtab _ _ _ _ => true
  | .exit _ => true
  | .yield _ => true
  | .wakeat _ _ => true
  | .fork _ _ _ _ _ => true
  | .join _ _ => true
  | .hike _ _ _ => true
  | .settle _ => true
  | .barc _ _ _ => true
  | .barg _ => true
  | .fanout _ _ => true
  | .trap _ _ => true
  | .chkerr _ _ _ => true
  | .tstamp _ _ => true
  | .cycle _ _ => true
  | .pitch _ _ _ => true
  | .strike _ _ => true
  | .douse _ => true
  | .fence _ _ _ => true
  | .chunk _ => true
  | .iflush _ => true
  | .add _ _ _ _ _ => true
  | .sub _ _ _ _ _ => true
  | .mul _ _ _ _ _ => true
  | .mulh _ _ _ _ _ => true
  | .div _ _ _ _ _ => true
  | .rem _ _ _ _ _ => true
  | .and _ _ _ _ _ => true
  | .or _ _ _ _ _ => true
  | .xor _ _ _ _ _ => true
  | .andn _ _ _ _ _ => true
  | .shl _ _ _ _ _ => true
  | .shr _ _ _ _ _ => true
  | .rot _ _ _ _ _ => true
  | .min _ _ _ _ _ => true
  | .max _ _ _ _ _ => true
  | .clz _ _ _ _ => true
  | .ctz _ _ _ _ => true
  | .popc _ _ _ _ => true
  | .mov _ _ _ _ => true
  | .addi _ _ _ _ => true
  | .andi _ _ _ _ => true
  | .ori _ _ _ _ => true
  | .xori _ _ _ _ => true
  | .shli _ _ _ _ => true
  | .shri _ _ _ _ _ => true
  | .movi _ _ _ => true
  | .movk _ _ _ _ => true
  | .sel _ _ _ _ _ _ => true
  | .lea _ _ _ _ _ _ => true
  | .getk _ _ _ => true
  | .setk _ _ _ => true
  | .fadd _ _ _ _ _ _ => true
  | .fsub _ _ _ _ _ _ => true
  | .fmul _ _ _ _ _ _ => true
  | .fdiv _ _ _ _ _ _ => true
  | .ffma _ _ _ _ _ _ _ => true
  | .fsqrt _ _ _ _ _ => true
  | .fmin _ _ _ _ _ => true
  | .fmax _ _ _ _ _ => true
  | .frnd _ _ _ _ _ => true
  | .fcls _ _ _ _ => true
  | .plog _ _ _ _ _ => true
  | .pfrom _ _ _ => true
  | .ptos _ _ _ => true
  | .pcnt _ _ _ => true
  | .pfirst _ _ _ => true
  | .plim _ _ _ _ _ => true
  | .ld _ _ _ _ _ _ _ _ => true
  | .st _ _ _ _ _ _ _ _ => true
  | .ldf _ _ _ _ _ _ _ _ => true
  | .ldfe _ _ _ _ _ _ _ _ => true
  | .stef _ _ _ _ _ _ _ _ => true
  | .stf _ _ _ _ _ _ _ _ => true
  | .ldo _ _ _ _ _ _ => true
  | .sto _ _ _ _ _ _ => true
  | .vld _ _ _ _ _ _ _ _ => true
  | .vst _ _ _ _ _ _ _ _ _ _ => true
  | .feset _ _ _ _ => true
  | .cas _ _ _ _ _ _ _ => true
  | .pref _ _ _ _ => true
  | .stash _ _ _ _ => true
  | .unstash _ _ _ => true
  | .flush _ _ _ _ _ => true
  | .copy _ _ _ _ _ _ _ => true
  | .mcast _ _ _ _ _ _ => true
  | .vmin _ _ _ _ _ _ => true
  | .vmax _ _ _ _ _ _ => true
  | .vand _ _ _ _ _ _ => true
  | .vor _ _ _ _ _ _ => true
  | .vxor _ _ _ _ _ _ => true
  | .vclamp _ _ _ _ _ _ _ => true
  | .vsel _ _ _ _ _ _ _ _ => true
  | .vmov _ _ _ => true
  | .vbcast _ _ _ _ => true
  | .vget _ _ _ _ _ => true
  | .vins _ _ _ _ => true
  | .vperm _ _ _ _ _ _ => true
  | .vidx _ _ _ => true
  | .tenc _ _ _ => true
  | .tdec _ _ _ => true
  | .tload _ _ _ => true
  | .vmxs _ _ _ _ _ _ _ => true
  | .rdef _ _ _ _ => true
  | .rpush _ _ _ _ => true
  | .rpop _ _ _ _ => true
  | .rstat _ _ _ => true
  | .unbind _ _ => true
  | .mma _ _ _ _ _ => true
  | .mzero _ _ => true
  | .mdrain _ _ _ _ _ => true
  | .mfill _ _ _ _ => true
  | .rquery _ _ _ _ => true
  | .rett _ => true
  | .ctxsave _ _ _ _ => true
  | .ctxload _ _ _ _ => true
  | .rload _ _ _ _ => true
  | .rinval _ _ _ _ => true
  | .rsplit _ _ _ _ => true
  | .rmerge _ _ _ _ => true
  | .rgrow _ _ _ _ => true
  | .rcompact _ _ _ _ => true
  | .resume _ _ => true
  | .killt _ _ => true
  | .dbghalt _ _ => true
  | .wakef _ _ => true
  | .credsync _ _ => true
  | .idle _ => true
  | .farArrival _ _ => true
  | .crownTrap _ => true
  | .crownReplay _ _ => true
  | .killApply _ => true
  | .replayWake _ => true
  | .lineFill _ => true
  | .slotFill _ _ => true
  | .taskPush _ => true
  | .joinDecrement _ _ => true
  | .joinRetry _ => true
  | .syncRetry _ => true
  | .coreShareFinished _ => true
  | .hikerArrival _ => true
  | .guestStart _ => true
  | .creditRequest _ _ _ => true
  | .creditGrant _ _ => true
  | .creditRetry _ _ _ => true
  | .creditHoldTimeout _ => true
  | .creditReturn _ _ _ => true
  | .barrierArrival _ _ _ => true
  | .bargArrival _ _ => true
  | .chunkCommit _ => true
  | .soloGrant _ => true
  | .singletonPerform _ => true
  | .windowFormatApply _ _ => true
  | .rdefPerform _ => true
  | .streamPrefetch _ _ => true
  | .walkerRun _ => true
  | .gatherReturn _ => true
  | .tableLoadComplete _ => true
  | .padLineFill _ => true
  | .rangeWalk _ _ => true
  | .rangeFill _ _ _ => true
  | .rangeCommandExecute _ => true
  | .remoteStorePerform _ => true
  | .remoteAck _ => true
  | .remoteInvalidate _ => true
  | .remoteAtomicPerform _ _ => true
  | .hostStoreSend _ => true
  | .cxlMemWrite _ _ _ => true
  | .hostSnoop _ => true
  | .backInvalidate _ => true
  | .eventEnqueue _ => true
  | .eventRetry _ => true
  | .preemptStop _ => true
  | .trappcWrite _ => true
  | .tregWrite _ => true
  | .resumeCommand _ => true
  | .imageArrival _ _ => true
  | .wakeatExpiry _ => true
  | .doorbell _ => true
  | .shareDeliver _ => true
  | .gangReady _ _ => true
  | .gangTimeout _ => true
  | .launchDone _ => true
  | .coreContain _ => true
  | .sealedArrival _ => true
  | .endToEndMessage _ => true
  | .readDebugRegister _ _ => true
  | .writeDebugRegister _ _ _ => true
  | .setFrequency _ => true
  | .setPowerCap _ => true
  | .issueCounterClear _ => true
  | .censusClear _ => true
  | .rangeWalkRetry _ _ => true
  | .packReadback => true
  | .coreTakeLaunch => true
  | .creditWatchdog => true
  | .engineCommandRun => true
  | .engineRevalidate => true
  | .engineResume => true
  | .matrixTileOp => true
  | .rangerDispatch => true
  | .timerInterrupt => true
  | .preemptInterrupt => true
  | .skip => true
  | .retry => true
  | .packSpillRetry => true
  | .dependencySample => true
  | .launchDispatch => true
  | .timedStart => true
  | .partitionSwapOut => true
  | .partitionSwapIn => true
  | .containOwedTimeout => true
  | .partitionContain => true
  | .attest => true
  | .xtrig => true
  | .release => true
  | .frequencySwitch => true
  | .droopTrip => true
  | .droopEnd => true
  | .powerOnReset => true
  | .signatureVerify => true
  | .hbmLinkTraining => true
  | .configurationLoad => true
  | .launchPortsOpen => true
  | .partitionReset => true
  | .creditCheck _ _ _ => true
  | .cxlMemRead _ _ => true
  | .backInvalidateResponse _ => true
  | .registerWrite _ _ => true
  | .poisonedTail _ _ => true
  | .cancel _ => true
  | .eccCorrected _ => true
  | .eccUncorrectable _ => true
  | .registerSoftError _ => true
  | .engineReset _ => true
  | .channelThreshold _ => true
  | .shadowCompare _ _ => true
  | .portTrain _ _ => true
  | .hostMessage _ _ => true
  | .flitReceive _ _ => true
  | .negativeAcknowledgement _ _ => true
  | .acknowledgement _ _ => true
  | .replayTimeout _ => true
  | .linkRetrain _ _ => true
  | .linkDown _ => true
  | .twinMismatch _ => true
  | .powerEstimate _ => true
  | .newImage _ => true
  | .linkReset _ => true
  | .routeRebuild _ => true

end Sys2Proof
end

