-- ==== Sys2Proof/Decode.lean ====
section
/-! DEFINITION. The decoder and the encoder of heads and tails (R105 to R111, R117, R118, R299) and of whole lines (R98 to R100).
A tail's fields are read at the positions its instruction's encoding table gives. Every bit that no field covers is
reserved (R109): a word decodes only when encoding what was read gives back the same head and tail. -/
namespace Sys2Proof

/-- The tail formats of R107. -/
inductive Fmt where
  | t0 | t16 | t32 | t32i | t32j | t64
deriving DecidableEq, Repr

/-- The TL code of a format (R107). -/
def Fmt.tl : Fmt → BitVec 2
  | .t0 => 0 | .t16 => 1 | .t32 => 2 | .t32i => 2 | .t32j => 2 | .t64 => 3

/-- Bytes of a tail by its TL code (R98). -/
def tailLen (tl : BitVec 2) : Nat := match tl.toNat with | 0 => 0 | 1 => 2 | 2 => 4 | _ => 8

/-- The opcodes of each format (R117). -/
def ops_t0 : List Nat := [
  0x000, 0x005, 0x009, 0x00a, 0x010, 0x012, 0x01a, 0x01c, 0x01f, 0x1e0, 0x1ed]
def ops_t16 : List Nat := [
  0x002, 0x004, 0x006, 0x00b, 0x00d, 0x00e, 0x011, 0x013, 0x014, 0x015, 0x016, 0x017, 0x019, 0x01b, 0x040, 0x041, 
  0x043, 0x044, 0x045, 0x046, 0x047, 0x048, 0x049, 0x04a, 0x04e, 0x04f, 0x052, 0x056, 0x057, 0x053, 0x054, 0x055, 
  0x05d, 0x060, 0x061, 0x08b, 0x0c4, 0x0c5, 0x0c6, 0x0c7, 0x10c, 0x111, 0x180, 0x188, 0x18d, 0x1c5, 0x1c7, 0x1e3, 
  0x1e4, 0x1ee, 0x1ef, 0x1f0]
def ops_t32 : List Nat := [
  0x007, 0x00c, 0x00f, 0x01d, 0x01e, 0x050, 0x051, 0x058, 0x059, 0x05a, 0x05e, 0x05f, 0x080, 0x081, 0x082, 0x084, 
  0x083, 0x085, 0x086, 0x087, 0x088, 0x089, 0x08a, 0x08c, 0x0c0, 0x0c1, 0x0c2, 0x0c3, 0x0c8, 0x0c9, 0x100, 0x101, 
  0x108, 0x109, 0x10a, 0x10b, 0x104, 0x105, 0x106, 0x107, 0x110, 0x10d, 0x10e, 0x10f, 0x112, 0x113, 0x114, 0x115, 
  0x116, 0x140, 0x141, 0x142, 0x143, 0x144, 0x145, 0x14a, 0x14b, 0x14c, 0x14e, 0x14f, 0x146, 0x147, 0x148, 0x149, 
  0x14d, 0x150, 0x151, 0x152, 0x181, 0x182, 0x183, 0x184, 0x185, 0x186, 0x187, 0x189, 0x18a, 0x18b, 0x18c, 0x18e, 
  0x1c0, 0x1c1, 0x1c2, 0x1c3, 0x1c4, 0x1c6, 0x1c8, 0x1c9, 0x1ca, 0x1e1, 0x1e2, 0x1e7, 0x1e8, 0x1e9, 0x1ea, 0x1eb, 
  0x1ec, 0x1e5, 0x1e6]
def ops_t32i : List Nat := [
  0x008, 0x042, 0x04b, 0x04c, 0x04d, 0x05c]
def ops_t32j : List Nat := [
  0x001, 0x003, 0x018]
def ops_t64 : List Nat := [
  0x05b, 0x102, 0x103]

/-- The format of an opcode, none where it is unassigned (R117, R118). -/
def opFmt (op : BitVec 9) : Option Fmt :=
  if ops_t0.contains op.toNat then some .t0
  else if ops_t16.contains op.toNat then some .t16
  else if ops_t32.contains op.toNat then some .t32
  else if ops_t32i.contains op.toNat then some .t32i
  else if ops_t32j.contains op.toNat then some .t32j
  else if ops_t64.contains op.toNat then some .t64
  else none

/-- The privileged opcodes of R117. -/
def opPrivileged (op : BitVec 9) : Bool := decide (0x1E0 ≤ op.toNat) && (opFmt op).isSome

/-- Fields of a head (R105). -/
def headG (w : BitVec 16) : BitVec 4 := w.extractLsb' 0 4
def headOp (w : BitVec 16) : BitVec 9 := w.extractLsb' 4 9
def headC (w : BitVec 16) : Bool := w.getLsbD 13
def headTl (w : BitVec 16) : BitVec 2 := w.extractLsb' 14 2
def headHdr (w : BitVec 16) : Hdr := ⟨headG w, headC w⟩

/-- Field of n bits at position p of a tail. -/
def tf (t : BitVec 64) (p n : Nat) : BitVec n := t.extractLsb' p n
/-- A field placed at position p of a tail. -/
def pf {n : Nat} (p : Nat) (x : BitVec n) : BitVec 64 := x.setWidth 64 <<< p
/-- A one-bit field placed at position p of a tail. -/
def pb (p : Nat) (b : Bool) : BitVec 64 := (BitVec.ofBool b).setWidth 64 <<< p

/-- Instructions with opcodes 0x000 to 0x03f from their fields. -/
def build0 (op : Nat) (h : Hdr) (w : BitVec 64) : Option Instr :=
  match op with
  | 0x000 => some (.nop h)
  | 0x001 => some (.br h (tf w 0 5) (tf w 5 27))
  | 0x002 => some (.jmp h (tf w 5 5))
  | 0x003 => some (.call h (tf w 0 5) (tf w 5 27))
  | 0x004 => some (.calli h (tf w 5 5))
  | 0x005 => some (.ret h)
  | 0x006 => some (.frame h (tf w 0 5) (tf w 5 5))
  | 0x007 => some (.jtab h (tf w 5 5) (tf w 10 5) (tf w 20 12))
  | 0x008 => some (.loop h (tf w 0 5) (tf w 5 5) (tf w 10 5) (tf w 15 17))
  | 0x009 => some (.exit h)
  | 0x00a => some (.yield h)
  | 0x00b => some (.wakeat h (tf w 5 5))
  | 0x00c => some (.fork h (tf w 5 5) (tf w 10 5) (tf w 15 5) (tf w 20 2))
  | 0x00d => some (.join h (tf w 5 5))
  | 0x00e => some (.hike h (tf w 5 5) (w.getLsbD 15))
  | 0x00f => some (.post h (tf w 5 5) (tf w 10 5) (tf w 15 5) (tf w 20 4) (w.getLsbD 24) (w.getLsbD 25))
  | 0x010 => some (.settle h)
  | 0x011 => some (.barc h (tf w 0 4) (tf w 5 5))
  | 0x012 => some (.barg h)
  | 0x013 => some (.fanout h (tf w 5 5))
  | 0x014 => some (.trap h (tf w 0 5))
  | 0x015 => some (.chkerr h (tf w 0 5) (w.getLsbD 15))
  | 0x016 => some (.tstamp h (tf w 0 5))
  | 0x017 => some (.cycle h (tf w 0 5))
  | 0x018 => some (.pitch h (tf w 0 5) (tf w 5 27))
  | 0x019 => some (.strike h (tf w 0 5))
  | 0x01a => some (.douse h)
  | 0x01b => (Scope.ofCode (tf w 0 5)).bind fun sc => some (.fence h sc (w.getLsbD 15))
  | 0x01c => some (.chunk h)
  | 0x01d => some (.getsr h (tf w 0 5) (tf w 20 12))
  | 0x01e => some (.setsr h (tf w 5 5) (tf w 20 12))
  | 0x01f => some (.iflush h)
  | _ => none

/-- Instructions with opcodes 0x040 to 0x07f from their fields. -/
def build1 (op : Nat) (h : Hdr) (w : BitVec 64) : Option Instr :=
  match op with
  | 0x040 => some (.add h (tf w 0 5) (tf w 5 5) (tf w 10 5) (w.getLsbD 15))
  | 0x041 => some (.sub h (tf w 0 5) (tf w 5 5) (tf w 10 5) (w.getLsbD 15))
  | 0x043 => some (.mul h (tf w 0 5) (tf w 5 5) (tf w 10 5) (w.getLsbD 15))
  | 0x044 => some (.mulh h (tf w 0 5) (tf w 5 5) (tf w 10 5) (w.getLsbD 15))
  | 0x045 => some (.div h (tf w 0 5) (tf w 5 5) (tf w 10 5) (w.getLsbD 15))
  | 0x046 => some (.rem h (tf w 0 5) (tf w 5 5) (tf w 10 5) (w.getLsbD 15))
  | 0x047 => some (.and h (tf w 0 5) (tf w 5 5) (tf w 10 5) (w.getLsbD 15))
  | 0x048 => some (.or h (tf w 0 5) (tf w 5 5) (tf w 10 5) (w.getLsbD 15))
  | 0x049 => some (.xor h (tf w 0 5) (tf w 5 5) (tf w 10 5) (w.getLsbD 15))
  | 0x04a => some (.andn h (tf w 0 5) (tf w 5 5) (tf w 10 5) (w.getLsbD 15))
  | 0x04e => some (.shl h (tf w 0 5) (tf w 5 5) (tf w 10 5) (w.getLsbD 15))
  | 0x04f => some (.shr h (tf w 0 5) (tf w 5 5) (tf w 10 5) (w.getLsbD 15))
  | 0x052 => some (.rot h (tf w 0 5) (tf w 5 5) (tf w 10 5) (w.getLsbD 15))
  | 0x056 => some (.min h (tf w 0 5) (tf w 5 5) (tf w 10 5) (w.getLsbD 15))
  | 0x057 => some (.max h (tf w 0 5) (tf w 5 5) (tf w 10 5) (w.getLsbD 15))
  | 0x053 => some (.clz h (tf w 0 5) (tf w 5 5) (w.getLsbD 15))
  | 0x054 => some (.ctz h (tf w 0 5) (tf w 5 5) (w.getLsbD 15))
  | 0x055 => some (.popc h (tf w 0 5) (tf w 5 5) (w.getLsbD 15))
  | 0x05d => some (.mov h (tf w 0 5) (tf w 5 5) (w.getLsbD 15))
  | 0x042 => some (.addi h (tf w 0 5) (tf w 5 5) (tf w 10 22))
  | 0x04b => some (.andi h (tf w 0 5) (tf w 5 5) (tf w 10 22))
  | 0x04c => some (.ori h (tf w 0 5) (tf w 5 5) (tf w 10 22))
  | 0x04d => some (.xori h (tf w 0 5) (tf w 5 5) (tf w 10 22))
  | 0x050 => some (.shli h (tf w 0 5) (tf w 5 5) (tf w 20 6))
  | 0x051 => some (.shri h (tf w 0 5) (tf w 5 5) (tf w 20 6) (w.getLsbD 26))
  | 0x058 => some (.ext h (tf w 0 5) (tf w 5 5) (tf w 20 6) (tf w 26 6))
  | 0x059 => some (.exts h (tf w 0 5) (tf w 5 5) (tf w 20 6) (tf w 26 6))
  | 0x05a => some (.ins h (tf w 0 5) (tf w 5 5) (tf w 20 6) (tf w 26 6))
  | 0x05b => some (.movi h (tf w 0 5) (tf w 16 48))
  | 0x05c => some (.movk h (tf w 0 5) (tf w 10 16) (tf w 26 2))
  | 0x05e => some (.sel h (tf w 0 5) (tf w 5 5) (tf w 10 5) (tf w 15 3) (w.getLsbD 18))
  | 0x05f => some (.lea h (tf w 0 5) (tf w 5 5) (tf w 10 5) (tf w 20 2) (tf w 22 10))
  | 0x060 => some (.getk h (tf w 0 5) (tf w 5 2))
  | 0x061 => some (.setk h (tf w 0 2) (tf w 5 5))
  | _ => none

/-- Instructions with opcodes 0x080 to 0x0bf from their fields. -/
def build2 (op : Nat) (h : Hdr) (w : BitVec 64) : Option Instr :=
  match op with
  | 0x080 => (FTy.ofCode (tf w 20 2)).bind fun t => (Rm.ofCode (tf w 22 3)).bind fun rm => some (.fadd h (tf w 0 5) (tf w 5 5) (tf w 10 5) t rm)
  | 0x081 => (FTy.ofCode (tf w 20 2)).bind fun t => (Rm.ofCode (tf w 22 3)).bind fun rm => some (.fsub h (tf w 0 5) (tf w 5 5) (tf w 10 5) t rm)
  | 0x082 => (FTy.ofCode (tf w 20 2)).bind fun t => (Rm.ofCode (tf w 22 3)).bind fun rm => some (.fmul h (tf w 0 5) (tf w 5 5) (tf w 10 5) t rm)
  | 0x084 => (FTy.ofCode (tf w 20 2)).bind fun t => (Rm.ofCode (tf w 22 3)).bind fun rm => some (.fdiv h (tf w 0 5) (tf w 5 5) (tf w 10 5) t rm)
  | 0x083 => (FTy.ofCode (tf w 20 2)).bind fun t => (Rm.ofCode (tf w 22 3)).bind fun rm => some (.ffma h (tf w 0 5) (tf w 5 5) (tf w 10 5) (tf w 15 5) t rm)
  | 0x085 => (FTy.ofCode (tf w 20 2)).bind fun t => (Rm.ofCode (tf w 22 3)).bind fun rm => some (.fsqrt h (tf w 0 5) (tf w 5 5) t rm)
  | 0x086 => (FTy.ofCode (tf w 20 2)).bind fun t => some (.fmin h (tf w 0 5) (tf w 5 5) (tf w 10 5) t)
  | 0x087 => (FTy.ofCode (tf w 20 2)).bind fun t => some (.fmax h (tf w 0 5) (tf w 5 5) (tf w 10 5) t)
  | 0x088 => (FTy.ofCode (tf w 20 2)).bind fun t => (SignOp.ofCode (tf w 25 2)).bind fun op => some (.fsgn h (tf w 0 5) (tf w 5 5) (tf w 10 5) t op)
  | 0x089 => (CvtTy.ofCode (tf w 20 4)).bind fun dt => (CvtTy.ofCode (tf w 24 4)).bind fun sty => (Rm.ofCode (tf w 28 3)).bind fun rm => some (.fcvt h (tf w 0 5) (tf w 5 5) dt sty rm (w.getLsbD 31))
  | 0x08a => (FTy.ofCode (tf w 20 2)).bind fun t => (Rm.ofCode (tf w 22 3)).bind fun rm => some (.frnd h (tf w 0 5) (tf w 5 5) t rm)
  | 0x08b => (FTy.ofCode (tf w 10 2)).bind fun t => some (.fcls h (tf w 0 5) (tf w 5 5) t)
  | 0x08c => (FTy.ofCode (tf w 20 2)).bind fun t => (Rm.ofCode (tf w 22 3)).bind fun rm => (Fun.ofCode (tf w 25 3)).bind fun fn => some (.fxf h (tf w 0 5) (tf w 5 5) t rm fn)
  | _ => none

/-- Instructions with opcodes 0x0c0 to 0x0ff from their fields. -/
def build3 (op : Nat) (h : Hdr) (w : BitVec 64) : Option Instr :=
  match op with
  | 0x0c0 => (Cond.ofCode (tf w 20 3)).bind fun cd => some (.cmp h (tf w 0 3) (tf w 15 3) (tf w 5 5) (tf w 10 5) cd (w.getLsbD 23))
  | 0x0c1 => (Cond.ofCode (tf w 10 3)).bind fun cd => some (.cmpi h (tf w 0 3) (tf w 15 3) (tf w 5 5) cd (w.getLsbD 13) (tf w 20 12))
  | 0x0c2 => (FTy.ofCode (tf w 20 2)).bind fun t => (Cond.ofCode (tf w 22 3)).bind fun cd => some (.fcmp h (tf w 0 3) (tf w 15 3) (tf w 5 5) (tf w 10 5) t cd)
  | 0x0c3 => some (.plog h (tf w 0 3) (tf w 5 3) (tf w 10 3) (tf w 20 4))
  | 0x0c4 => some (.pfrom h (tf w 0 3) (tf w 5 5))
  | 0x0c5 => some (.ptos h (tf w 0 5) (tf w 5 3))
  | 0x0c6 => some (.pcnt h (tf w 0 5) (tf w 5 3))
  | 0x0c7 => some (.pfirst h (tf w 0 5) (tf w 5 3))
  | 0x0c8 => some (.plim h (tf w 0 3) (tf w 5 5) (tf w 10 5) (w.getLsbD 20))
  | 0x0c9 => (VTy.ofCode (tf w 20 4)).bind fun t => (Cond.ofCode (tf w 24 3)).bind fun cd => some (.vcmp h (tf w 0 3) (tf w 15 3) (tf w 5 5) (tf w 10 5) t cd (w.getLsbD 31))
  | _ => none

/-- Instructions with opcodes 0x100 to 0x13f from their fields. -/
def build4 (op : Nat) (h : Hdr) (w : BitVec 64) : Option Instr :=
  match op with
  | 0x100 => (IType.ofCode (tf w 22 3)).bind fun t => some (.ld h (tf w 0 5) (tf w 5 5) (tf w 10 5) (tf w 20 2) t (tf w 25 2) (tf w 27 5))
  | 0x101 => (IType.ofCode (tf w 22 3)).bind fun t => some (.st h (tf w 0 5) (tf w 5 5) (tf w 10 5) (tf w 20 2) t (tf w 25 2) (tf w 27 5))
  | 0x108 => (IType.ofCode (tf w 22 3)).bind fun t => some (.ldf h (tf w 0 5) (tf w 5 5) (tf w 10 5) (tf w 20 2) t (tf w 25 2) (tf w 27 5))
  | 0x109 => (IType.ofCode (tf w 22 3)).bind fun t => some (.ldfe h (tf w 0 5) (tf w 5 5) (tf w 10 5) (tf w 20 2) t (tf w 25 2) (tf w 27 5))
  | 0x10a => (IType.ofCode (tf w 22 3)).bind fun t => some (.stef h (tf w 0 5) (tf w 5 5) (tf w 10 5) (tf w 20 2) t (tf w 25 2) (tf w 27 5))
  | 0x10b => (IType.ofCode (tf w 22 3)).bind fun t => some (.stf h (tf w 0 5) (tf w 5 5) (tf w 10 5) (tf w 20 2) t (tf w 25 2) (tf w 27 5))
  | 0x102 => (IType.ofCode (tf w 12 3)).bind fun t => some (.ldo h (tf w 0 5) (tf w 5 5) (tf w 10 2) t (tf w 16 48))
  | 0x103 => (IType.ofCode (tf w 12 3)).bind fun t => some (.sto h (tf w 0 5) (tf w 5 5) (tf w 10 2) t (tf w 16 48))
  | 0x104 => (VTy.ofCode (tf w 22 4)).bind fun t => some (.vld h (tf w 0 5) (tf w 5 5) (tf w 10 5) (tf w 15 5) (tf w 20 2) t (tf w 26 2))
  | 0x105 => (VTy.ofCode (tf w 22 4)).bind fun t => (Rm.ofCode (tf w 28 3)).bind fun rm => some (.vst h (tf w 0 5) (tf w 5 5) (tf w 10 5) (tf w 15 5) (tf w 20 2) t (tf w 26 2) rm (w.getLsbD 31))
  | 0x106 => (VTy.ofCode (tf w 22 4)).bind fun t => some (.vldg h (tf w 0 5) (tf w 5 5) (tf w 10 5) (tf w 20 2) t (tf w 26 2) (w.getLsbD 28))
  | 0x107 => (VTy.ofCode (tf w 22 4)).bind fun t => some (.vsts h (tf w 0 5) (tf w 5 5) (tf w 10 5) (tf w 20 2) t (tf w 26 2) (w.getLsbD 28))
  | 0x110 => (VTy.ofCode (tf w 22 4)).bind fun t => some (.gathn h (tf w 0 5) (tf w 5 5) (tf w 10 5) (tf w 20 2) t (tf w 26 2) (w.getLsbD 28))
  | 0x10c => some (.feset h (tf w 0 2) (tf w 5 5) (w.getLsbD 15))
  | 0x10d => (AtomOp.ofCode (tf w 22 4)).bind fun op => some (.atom h (tf w 0 5) (tf w 5 5) (tf w 10 5) (tf w 20 2) op (w.getLsbD 26))
  | 0x10e => some (.cas h (tf w 0 5) (tf w 5 5) (tf w 10 5) (tf w 15 5) (tf w 20 2) (w.getLsbD 22))
  | 0x10f => (FoldOp.ofCode (tf w 22 2)).bind fun op => (VTy.ofCode (tf w 24 4)).bind fun t => some (.vred h (tf w 5 5) (tf w 10 5) (tf w 20 2) op t)
  | 0x111 => some (.pref h (tf w 0 2) (tf w 5 5) (w.getLsbD 15))
  | 0x112 => some (.stash h (tf w 5 5) (tf w 10 5) (tf w 15 5))
  | 0x113 => some (.unstash h (tf w 0 5) (tf w 5 5))
  | 0x114 => some (.flush h (tf w 0 5) (tf w 5 5) (tf w 10 5) (tf w 20 2))
  | 0x115 => some (.copy h (tf w 0 5) (tf w 5 5) (tf w 10 5) (tf w 15 5) (w.getLsbD 20) (w.getLsbD 21))
  | 0x116 => some (.mcast h (tf w 0 5) (tf w 5 5) (tf w 10 5) (tf w 15 5) (w.getLsbD 20))
  | _ => none

/-- Instructions with opcodes 0x140 to 0x17f from their fields. -/
def build5 (op : Nat) (h : Hdr) (w : BitVec 64) : Option Instr :=
  match op with
  | 0x140 => (VTy.ofCode (tf w 20 4)).bind fun t => (Rm.ofCode (tf w 24 3)).bind fun rm => some (.vadd h (tf w 0 5) (tf w 5 5) (tf w 10 5) t rm (w.getLsbD 27) (w.getLsbD 28) (w.getLsbD 30) (w.getLsbD 31))
  | 0x141 => (VTy.ofCode (tf w 20 4)).bind fun t => (Rm.ofCode (tf w 24 3)).bind fun rm => some (.vsub h (tf w 0 5) (tf w 5 5) (tf w 10 5) t rm (w.getLsbD 27) (w.getLsbD 28) (w.getLsbD 30) (w.getLsbD 31))
  | 0x142 => (VTy.ofCode (tf w 20 4)).bind fun t => (Rm.ofCode (tf w 24 3)).bind fun rm => some (.vmul h (tf w 0 5) (tf w 5 5) (tf w 10 5) t rm (w.getLsbD 27) (w.getLsbD 28) (w.getLsbD 30) (w.getLsbD 31))
  | 0x143 => (VTy.ofCode (tf w 20 4)).bind fun t => (Rm.ofCode (tf w 24 3)).bind fun rm => some (.vfma h (tf w 0 5) (tf w 5 5) (tf w 10 5) (tf w 15 5) t rm (w.getLsbD 27) (w.getLsbD 28) (w.getLsbD 29) (w.getLsbD 30) (w.getLsbD 31))
  | 0x144 => (VTy.ofCode (tf w 20 4)).bind fun t => some (.vmin h (tf w 0 5) (tf w 5 5) (tf w 10 5) t (w.getLsbD 31))
  | 0x145 => (VTy.ofCode (tf w 20 4)).bind fun t => some (.vmax h (tf w 0 5) (tf w 5 5) (tf w 10 5) t (w.getLsbD 31))
  | 0x14a => (VTy.ofCode (tf w 20 4)).bind fun t => some (.vand h (tf w 0 5) (tf w 5 5) (tf w 10 5) t (w.getLsbD 31))
  | 0x14b => (VTy.ofCode (tf w 20 4)).bind fun t => some (.vor h (tf w 0 5) (tf w 5 5) (tf w 10 5) t (w.getLsbD 31))
  | 0x14c => (VTy.ofCode (tf w 20 4)).bind fun t => some (.vxor h (tf w 0 5) (tf w 5 5) (tf w 10 5) t (w.getLsbD 31))
  | 0x14e => (VTy.ofCode (tf w 20 4)).bind fun t => some (.vshr h (tf w 0 5) (tf w 5 5) (tf w 10 5) t (w.getLsbD 31))
  | 0x14f => (VTy.ofCode (tf w 20 4)).bind fun t => some (.vmulh h (tf w 0 5) (tf w 5 5) (tf w 10 5) t (w.getLsbD 31))
  | 0x146 => (VTy.ofCode (tf w 20 4)).bind fun t => (SignOp.ofCode (tf w 27 2)).bind fun op => some (.vsgn h (tf w 0 5) (tf w 5 5) (tf w 10 5) t op (w.getLsbD 31))
  | 0x147 => (VTy.ofCode (tf w 20 4)).bind fun t => (Rm.ofCode (tf w 24 3)).bind fun rm => some (.vdiv h (tf w 0 5) (tf w 5 5) (tf w 10 5) t rm (w.getLsbD 31))
  | 0x148 => (VTy.ofCode (tf w 20 4)).bind fun t => (Rm.ofCode (tf w 24 3)).bind fun rm => (Fun.ofCode (tf w 27 3)).bind fun fn => some (.vxf h (tf w 0 5) (tf w 5 5) t rm fn)
  | 0x149 => (VTy.ofCode (tf w 20 4)).bind fun dt => (VTy.ofCode (tf w 24 4)).bind fun sty => (Rm.ofCode (tf w 28 3)).bind fun rm => some (.vcvt h (tf w 0 5) (tf w 5 5) dt sty rm (w.getLsbD 31))
  | 0x14d => (VTy.ofCode (tf w 20 4)).bind fun t => some (.vshl h (tf w 0 5) (tf w 5 5) (tf w 10 5) t (w.getLsbD 30) (w.getLsbD 31))
  | 0x150 => (VTy.ofCode (tf w 20 4)).bind fun t => (Rm.ofCode (tf w 24 3)).bind fun rm => some (.vdot h (tf w 0 5) (tf w 5 5) (tf w 10 5) t rm (w.getLsbD 27) (w.getLsbD 28) (w.getLsbD 30) (w.getLsbD 31))
  | 0x151 => (VTy.ofCode (tf w 20 4)).bind fun t => some (.vclamp h (tf w 0 5) (tf w 5 5) (tf w 10 5) (tf w 15 5) t (w.getLsbD 31))
  | 0x152 => (VTy.ofCode (tf w 20 4)).bind fun t => some (.vsel h (tf w 0 5) (tf w 5 5) (tf w 10 5) (tf w 15 3) (w.getLsbD 18) t (w.getLsbD 31))
  | _ => none

/-- Instructions with opcodes 0x180 to 0x1bf from their fields. -/
def build6 (op : Nat) (h : Hdr) (w : BitVec 64) : Option Instr :=
  match op with
  | 0x180 => some (.vmov h (tf w 0 5) (tf w 5 5))
  | 0x181 => (VTy.ofCode (tf w 20 4)).bind fun t => some (.vbcast h (tf w 0 5) (tf w 5 5) t)
  | 0x182 => some (.vget h (tf w 0 5) (tf w 5 5) (tf w 20 5) (w.getLsbD 25))
  | 0x183 => some (.vins h (tf w 0 5) (tf w 5 5) (tf w 20 5))
  | 0x184 => (VTy.ofCode (tf w 20 4)).bind fun t => some (.vperm h (tf w 0 5) (tf w 5 5) (tf w 10 5) t (w.getLsbD 31))
  | 0x185 => (VTy.ofCode (tf w 20 4)).bind fun t => some (.vslide h (tf w 0 5) (tf w 5 5) t (tf w 24 6))
  | 0x186 => (VTy.ofCode (tf w 20 4)).bind fun t => (Rm.ofCode (tf w 24 3)).bind fun rm => (FoldOp.ofCode (tf w 27 2)).bind fun op => some (.vfold h (tf w 0 5) (tf w 5 5) t rm op)
  | 0x187 => (VTy.ofCode (tf w 20 4)).bind fun t => (Rm.ofCode (tf w 24 3)).bind fun rm => (FoldOp.ofCode (tf w 27 2)).bind fun op => some (.vscan h (tf w 0 5) (tf w 5 5) t rm op)
  | 0x188 => some (.vidx h (tf w 0 5) (w.getLsbD 15))
  | 0x189 => (PackTy.ofCode (tf w 20 4)).bind fun dt => (Rm.ofCode (tf w 24 3)).bind fun rm => some (.vpack h (tf w 0 5) (tf w 5 5) (tf w 10 5) dt rm (w.getLsbD 27))
  | 0x18a => (PackTy.ofCode (tf w 20 4)).bind fun sty => some (.vunpk h (tf w 0 5) (tf w 5 5) sty (w.getLsbD 24))
  | 0x18b => some (.tenc h (tf w 0 5) (tf w 5 5))
  | 0x18c => some (.tdec h (tf w 0 5) (tf w 5 5))
  | 0x18d => some (.tload h (tf w 0 5) (tf w 5 5))
  | 0x18e => (Rm.ofCode (tf w 24 3)).bind fun rm => some (.vmxs h (tf w 0 5) (tf w 5 5) (tf w 10 5) rm (w.getLsbD 27) (w.getLsbD 31))
  | _ => none

/-- Instructions with opcodes 0x1c0 to 0x1df from their fields. -/
def build7 (op : Nat) (h : Hdr) (w : BitVec 64) : Option Instr :=
  match op with
  | 0x1c0 => some (.rdef h (tf w 0 5) (tf w 5 5) (tf w 10 5))
  | 0x1c1 => some (.rpush h (tf w 0 5) (tf w 5 5) (w.getLsbD 20))
  | 0x1c2 => some (.rpop h (tf w 0 5) (tf w 5 5) (w.getLsbD 20))
  | 0x1c3 => some (.rstat h (tf w 0 5) (tf w 5 5))
  | 0x1c4 => (BindMode.ofCode (tf w 20 2)).bind fun mode => some (.bind h (tf w 0 5) (tf w 5 5) mode (w.getLsbD 22) (tf w 23 2))
  | 0x1c5 => some (.unbind h (tf w 0 5))
  | 0x1c6 => some (.mma h (tf w 0 1) (tf w 5 5) (tf w 10 5) (tf w 20 6))
  | 0x1c7 => some (.mzero h (tf w 0 1))
  | 0x1c8 => some (.mdrain h (tf w 0 1) (tf w 5 5) (tf w 15 5) (tf w 20 2))
  | 0x1c9 => some (.mfill h (tf w 0 1) (tf w 5 5) (tf w 20 2))
  | 0x1ca => some (.rquery h (tf w 0 5) (tf w 5 5) (tf w 20 2))
  | _ => none

/-- Instructions with opcodes 0x1e0 to 0x1ff from their fields. -/
def build8 (op : Nat) (h : Hdr) (w : BitVec 64) : Option Instr :=
  match op with
  | 0x1e0 => some (.rett h)
  | 0x1e1 => some (.ctxsave h (tf w 0 5) (tf w 5 5) (tf w 10 5))
  | 0x1e2 => some (.ctxload h (tf w 0 5) (tf w 5 5) (tf w 10 5))
  | 0x1e7 => some (.rload h (tf w 0 5) (tf w 5 5) (tf w 10 5))
  | 0x1e8 => some (.rinval h (tf w 0 5) (tf w 5 5) (tf w 10 5))
  | 0x1e9 => some (.rsplit h (tf w 0 5) (tf w 5 5) (tf w 10 5))
  | 0x1ea => some (.rmerge h (tf w 0 5) (tf w 5 5) (tf w 10 5))
  | 0x1eb => some (.rgrow h (tf w 0 5) (tf w 5 5) (tf w 10 5))
  | 0x1ec => some (.rcompact h (tf w 0 5) (tf w 5 5) (tf w 10 5))
  | 0x1e3 => some (.resume h (tf w 5 5))
  | 0x1e4 => some (.killt h (tf w 5 5))
  | 0x1ee => some (.dbghalt h (tf w 5 5))
  | 0x1ef => some (.wakef h (tf w 5 5))
  | 0x1f0 => some (.credsync h (tf w 5 5))
  | 0x1e5 => some (.getpr h (tf w 0 5) (tf w 20 12))
  | 0x1e6 => some (.setpr h (tf w 5 5) (tf w 20 12))
  | 0x1ed => some (.idle h)
  | _ => none

/-- The instruction that an opcode and a tail's fields name, reserved bits not yet looked at. -/
def build (op : BitVec 9) (h : Hdr) (t : BitVec 64) : Option Instr :=
  let n := op.toNat
  if n < 0x40 then build0 n h t else if n < 0x80 then build1 n h t else if n < 0xc0 then build2 n h t
  else if n < 0x100 then build3 n h t else if n < 0x140 then build4 n h t else if n < 0x180 then build5 n h t
  else if n < 0x1c0 then build6 n h t else if n < 0x1e0 then build7 n h t else build8 n h t

/-- Opcode, head fields, format and tail of an encoded instruction. -/
structure Enc0 where
  op   : BitVec 9
  h    : Hdr
  fmt  : Fmt
  tail : BitVec 64
deriving DecidableEq, Repr

/-- The head word (R105). -/
def Enc0.head (e : Enc0) : BitVec 16 :=
  (e.h.g.setWidth 16) ||| (e.op.setWidth 16 <<< 4) ||| ((BitVec.ofBool e.h.c).setWidth 16 <<< 13) |||
    (e.fmt.tl.setWidth 16 <<< 14)

/-- The encoding tables read the other way; none for the part's own steps, which have no encoding. -/
def enc : Instr → Option Enc0
  | .nop h => some ⟨0x000, h, .t0, 0⟩
  | .br h j l => some ⟨0x001, h, .t32j, pf 0 j ||| pf 5 l⟩
  | .jmp h a => some ⟨0x002, h, .t16, pf 5 a⟩
  | .call h j l => some ⟨0x003, h, .t32j, pf 0 j ||| pf 5 l⟩
  | .calli h a => some ⟨0x004, h, .t16, pf 5 a⟩
  | .ret h => some ⟨0x005, h, .t0, 0⟩
  | .frame h k o => some ⟨0x006, h, .t16, pf 0 k ||| pf 5 o⟩
  | .jtab h a b x => some ⟨0x007, h, .t32, pf 5 a ||| pf 10 b ||| pf 20 x⟩
  | .loop h d a j l => some ⟨0x008, h, .t32i, pf 0 d ||| pf 5 a ||| pf 10 j ||| pf 15 l⟩
  | .exit h => some ⟨0x009, h, .t0, 0⟩
  | .yield h => some ⟨0x00a, h, .t0, 0⟩
  | .wakeat h a => some ⟨0x00b, h, .t16, pf 5 a⟩
  | .fork h a b c lvl => some ⟨0x00c, h, .t32, pf 5 a ||| pf 10 b ||| pf 15 c ||| pf 20 lvl⟩
  | .join h a => some ⟨0x00d, h, .t16, pf 5 a⟩
  | .hike h a m => some ⟨0x00e, h, .t16, pf 5 a ||| pb 15 m⟩
  | .post h a b c n core reply => some ⟨0x00f, h, .t32, pf 5 a ||| pf 10 b ||| pf 15 c ||| pf 20 n ||| pb 24 core ||| pb 25 reply⟩
  | .settle h => some ⟨0x010, h, .t0, 0⟩
  | .barc h d a => some ⟨0x011, h, .t16, pf 0 d ||| pf 5 a⟩
  | .barg h => some ⟨0x012, h, .t0, 0⟩
  | .fanout h a => some ⟨0x013, h, .t16, pf 5 a⟩
  | .trap h n => some ⟨0x014, h, .t16, pf 0 n⟩
  | .chkerr h d m => some ⟨0x015, h, .t16, pf 0 d ||| pb 15 m⟩
  | .tstamp h d => some ⟨0x016, h, .t16, pf 0 d⟩
  | .cycle h d => some ⟨0x017, h, .t16, pf 0 d⟩
  | .pitch h j l => some ⟨0x018, h, .t32j, pf 0 j ||| pf 5 l⟩
  | .strike h d => some ⟨0x019, h, .t16, pf 0 d⟩
  | .douse h => some ⟨0x01a, h, .t0, 0⟩
  | .fence h sc m => some ⟨0x01b, h, .t16, pf 0 sc.code ||| pb 15 m⟩
  | .chunk h => some ⟨0x01c, h, .t0, 0⟩
  | .getsr h d x => some ⟨0x01d, h, .t32, pf 0 d ||| pf 20 x⟩
  | .setsr h a x => some ⟨0x01e, h, .t32, pf 5 a ||| pf 20 x⟩
  | .iflush h => some ⟨0x01f, h, .t0, 0⟩
  | .add h d a b m => some ⟨0x040, h, .t16, pf 0 d ||| pf 5 a ||| pf 10 b ||| pb 15 m⟩
  | .sub h d a b m => some ⟨0x041, h, .t16, pf 0 d ||| pf 5 a ||| pf 10 b ||| pb 15 m⟩
  | .mul h d a b m => some ⟨0x043, h, .t16, pf 0 d ||| pf 5 a ||| pf 10 b ||| pb 15 m⟩
  | .mulh h d a b m => some ⟨0x044, h, .t16, pf 0 d ||| pf 5 a ||| pf 10 b ||| pb 15 m⟩
  | .div h d a b m => some ⟨0x045, h, .t16, pf 0 d ||| pf 5 a ||| pf 10 b ||| pb 15 m⟩
  | .rem h d a b m => some ⟨0x046, h, .t16, pf 0 d ||| pf 5 a ||| pf 10 b ||| pb 15 m⟩
  | .and h d a b m => some ⟨0x047, h, .t16, pf 0 d ||| pf 5 a ||| pf 10 b ||| pb 15 m⟩
  | .or h d a b m => some ⟨0x048, h, .t16, pf 0 d ||| pf 5 a ||| pf 10 b ||| pb 15 m⟩
  | .xor h d a b m => some ⟨0x049, h, .t16, pf 0 d ||| pf 5 a ||| pf 10 b ||| pb 15 m⟩
  | .andn h d a b m => some ⟨0x04a, h, .t16, pf 0 d ||| pf 5 a ||| pf 10 b ||| pb 15 m⟩
  | .shl h d a b m => some ⟨0x04e, h, .t16, pf 0 d ||| pf 5 a ||| pf 10 b ||| pb 15 m⟩
  | .shr h d a b m => some ⟨0x04f, h, .t16, pf 0 d ||| pf 5 a ||| pf 10 b ||| pb 15 m⟩
  | .rot h d a b m => some ⟨0x052, h, .t16, pf 0 d ||| pf 5 a ||| pf 10 b ||| pb 15 m⟩
  | .min h d a b m => some ⟨0x056, h, .t16, pf 0 d ||| pf 5 a ||| pf 10 b ||| pb 15 m⟩
  | .max h d a b m => some ⟨0x057, h, .t16, pf 0 d ||| pf 5 a ||| pf 10 b ||| pb 15 m⟩
  | .clz h d a m => some ⟨0x053, h, .t16, pf 0 d ||| pf 5 a ||| pb 15 m⟩
  | .ctz h d a m => some ⟨0x054, h, .t16, pf 0 d ||| pf 5 a ||| pb 15 m⟩
  | .popc h d a m => some ⟨0x055, h, .t16, pf 0 d ||| pf 5 a ||| pb 15 m⟩
  | .mov h d a m => some ⟨0x05d, h, .t16, pf 0 d ||| pf 5 a ||| pb 15 m⟩
  | .addi h d a i => some ⟨0x042, h, .t32i, pf 0 d ||| pf 5 a ||| pf 10 i⟩
  | .andi h d a i => some ⟨0x04b, h, .t32i, pf 0 d ||| pf 5 a ||| pf 10 i⟩
  | .ori h d a i => some ⟨0x04c, h, .t32i, pf 0 d ||| pf 5 a ||| pf 10 i⟩
  | .xori h d a i => some ⟨0x04d, h, .t32i, pf 0 d ||| pf 5 a ||| pf 10 i⟩
  | .shli h d a n => some ⟨0x050, h, .t32, pf 0 d ||| pf 5 a ||| pf 20 n⟩
  | .shri h d a n ar => some ⟨0x051, h, .t32, pf 0 d ||| pf 5 a ||| pf 20 n ||| pb 26 ar⟩
  | .ext h d a p n => some ⟨0x058, h, .t32, pf 0 d ||| pf 5 a ||| pf 20 p ||| pf 26 n⟩
  | .exts h d a p n => some ⟨0x059, h, .t32, pf 0 d ||| pf 5 a ||| pf 20 p ||| pf 26 n⟩
  | .ins h d a p n => some ⟨0x05a, h, .t32, pf 0 d ||| pf 5 a ||| pf 20 p ||| pf 26 n⟩
  | .movi h d i => some ⟨0x05b, h, .t64, pf 0 d ||| pf 16 i⟩
  | .movk h d i hw => some ⟨0x05c, h, .t32i, pf 0 d ||| pf 10 i ||| pf 26 hw⟩
  | .sel h d a b q neg => some ⟨0x05e, h, .t32, pf 0 d ||| pf 5 a ||| pf 10 b ||| pf 15 q ||| pb 18 neg⟩
  | .lea h d a b sh disp => some ⟨0x05f, h, .t32, pf 0 d ||| pf 5 a ||| pf 10 b ||| pf 20 sh ||| pf 22 disp⟩
  | .getk h d a => some ⟨0x060, h, .t16, pf 0 d ||| pf 5 a⟩
  | .setk h d a => some ⟨0x061, h, .t16, pf 0 d ||| pf 5 a⟩
  | .fadd h d a b t rm => some ⟨0x080, h, .t32, pf 0 d ||| pf 5 a ||| pf 10 b ||| pf 20 t.code ||| pf 22 rm.code⟩
  | .fsub h d a b t rm => some ⟨0x081, h, .t32, pf 0 d ||| pf 5 a ||| pf 10 b ||| pf 20 t.code ||| pf 22 rm.code⟩
  | .fmul h d a b t rm => some ⟨0x082, h, .t32, pf 0 d ||| pf 5 a ||| pf 10 b ||| pf 20 t.code ||| pf 22 rm.code⟩
  | .fdiv h d a b t rm => some ⟨0x084, h, .t32, pf 0 d ||| pf 5 a ||| pf 10 b ||| pf 20 t.code ||| pf 22 rm.code⟩
  | .ffma h d a b c t rm => some ⟨0x083, h, .t32, pf 0 d ||| pf 5 a ||| pf 10 b ||| pf 15 c ||| pf 20 t.code ||| pf 22 rm.code⟩
  | .fsqrt h d a t rm => some ⟨0x085, h, .t32, pf 0 d ||| pf 5 a ||| pf 20 t.code ||| pf 22 rm.code⟩
  | .fmin h d a b t => some ⟨0x086, h, .t32, pf 0 d ||| pf 5 a ||| pf 10 b ||| pf 20 t.code⟩
  | .fmax h d a b t => some ⟨0x087, h, .t32, pf 0 d ||| pf 5 a ||| pf 10 b ||| pf 20 t.code⟩
  | .fsgn h d a b t op => some ⟨0x088, h, .t32, pf 0 d ||| pf 5 a ||| pf 10 b ||| pf 20 t.code ||| pf 25 op.code⟩
  | .fcvt h d a dt sty rm inf => some ⟨0x089, h, .t32, pf 0 d ||| pf 5 a ||| pf 20 dt.code ||| pf 24 sty.code ||| pf 28 rm.code ||| pb 31 inf⟩
  | .frnd h d a t rm => some ⟨0x08a, h, .t32, pf 0 d ||| pf 5 a ||| pf 20 t.code ||| pf 22 rm.code⟩
  | .fcls h d a t => some ⟨0x08b, h, .t16, pf 0 d ||| pf 5 a ||| pf 10 t.code⟩
  | .fxf h d a t rm fn => some ⟨0x08c, h, .t32, pf 0 d ||| pf 5 a ||| pf 20 t.code ||| pf 22 rm.code ||| pf 25 fn.code⟩
  | .cmp h d c a b cd un => some ⟨0x0c0, h, .t32, pf 0 d ||| pf 15 c ||| pf 5 a ||| pf 10 b ||| pf 20 cd.code ||| pb 23 un⟩
  | .cmpi h d c a cd un i => some ⟨0x0c1, h, .t32, pf 0 d ||| pf 15 c ||| pf 5 a ||| pf 10 cd.code ||| pb 13 un ||| pf 20 i⟩
  | .fcmp h d c a b t cd => some ⟨0x0c2, h, .t32, pf 0 d ||| pf 15 c ||| pf 5 a ||| pf 10 b ||| pf 20 t.code ||| pf 22 cd.code⟩
  | .plog h d a b tt => some ⟨0x0c3, h, .t32, pf 0 d ||| pf 5 a ||| pf 10 b ||| pf 20 tt⟩
  | .pfrom h d a => some ⟨0x0c4, h, .t16, pf 0 d ||| pf 5 a⟩
  | .ptos h d a => some ⟨0x0c5, h, .t16, pf 0 d ||| pf 5 a⟩
  | .pcnt h d a => some ⟨0x0c6, h, .t16, pf 0 d ||| pf 5 a⟩
  | .pfirst h d a => some ⟨0x0c7, h, .t16, pf 0 d ||| pf 5 a⟩
  | .plim h d a b byte => some ⟨0x0c8, h, .t32, pf 0 d ||| pf 5 a ||| pf 10 b ||| pb 20 byte⟩
  | .vcmp h d c a b t cd sb => some ⟨0x0c9, h, .t32, pf 0 d ||| pf 15 c ||| pf 5 a ||| pf 10 b ||| pf 20 t.code ||| pf 24 cd.code ||| pb 31 sb⟩
  | .ld h d a b k t sh disp => some ⟨0x100, h, .t32, pf 0 d ||| pf 5 a ||| pf 10 b ||| pf 20 k ||| pf 22 t.code ||| pf 25 sh ||| pf 27 disp⟩
  | .st h d a b k t sh disp => some ⟨0x101, h, .t32, pf 0 d ||| pf 5 a ||| pf 10 b ||| pf 20 k ||| pf 22 t.code ||| pf 25 sh ||| pf 27 disp⟩
  | .ldf h d a b k t sh disp => some ⟨0x108, h, .t32, pf 0 d ||| pf 5 a ||| pf 10 b ||| pf 20 k ||| pf 22 t.code ||| pf 25 sh ||| pf 27 disp⟩
  | .ldfe h d a b k t sh disp => some ⟨0x109, h, .t32, pf 0 d ||| pf 5 a ||| pf 10 b ||| pf 20 k ||| pf 22 t.code ||| pf 25 sh ||| pf 27 disp⟩
  | .stef h d a b k t sh disp => some ⟨0x10a, h, .t32, pf 0 d ||| pf 5 a ||| pf 10 b ||| pf 20 k ||| pf 22 t.code ||| pf 25 sh ||| pf 27 disp⟩
  | .stf h d a b k t sh disp => some ⟨0x10b, h, .t32, pf 0 d ||| pf 5 a ||| pf 10 b ||| pf 20 k ||| pf 22 t.code ||| pf 25 sh ||| pf 27 disp⟩
  | .ldo h d a k t i => some ⟨0x102, h, .t64, pf 0 d ||| pf 5 a ||| pf 10 k ||| pf 12 t.code ||| pf 16 i⟩
  | .sto h d a k t i => some ⟨0x103, h, .t64, pf 0 d ||| pf 5 a ||| pf 10 k ||| pf 12 t.code ||| pf 16 i⟩
  | .vld h d a b disp k t sh => some ⟨0x104, h, .t32, pf 0 d ||| pf 5 a ||| pf 10 b ||| pf 15 disp ||| pf 20 k ||| pf 22 t.code ||| pf 26 sh⟩
  | .vst h d a b disp k t sh rm nar => some ⟨0x105, h, .t32, pf 0 d ||| pf 5 a ||| pf 10 b ||| pf 15 disp ||| pf 20 k ||| pf 22 t.code ||| pf 26 sh ||| pf 28 rm.code ||| pb 31 nar⟩
  | .vldg h d a b k t sh sgn => some ⟨0x106, h, .t32, pf 0 d ||| pf 5 a ||| pf 10 b ||| pf 20 k ||| pf 22 t.code ||| pf 26 sh ||| pb 28 sgn⟩
  | .vsts h d a b k t sh sgn => some ⟨0x107, h, .t32, pf 0 d ||| pf 5 a ||| pf 10 b ||| pf 20 k ||| pf 22 t.code ||| pf 26 sh ||| pb 28 sgn⟩
  | .gathn h d a b k t sh sgn => some ⟨0x110, h, .t32, pf 0 d ||| pf 5 a ||| pf 10 b ||| pf 20 k ||| pf 22 t.code ||| pf 26 sh ||| pb 28 sgn⟩
  | .feset h k a m => some ⟨0x10c, h, .t16, pf 0 k ||| pf 5 a ||| pb 15 m⟩
  | .atom h d a b k op w => some ⟨0x10d, h, .t32, pf 0 d ||| pf 5 a ||| pf 10 b ||| pf 20 k ||| pf 22 op.code ||| pb 26 w⟩
  | .cas h d a b c k w => some ⟨0x10e, h, .t32, pf 0 d ||| pf 5 a ||| pf 10 b ||| pf 15 c ||| pf 20 k ||| pb 22 w⟩
  | .vred h a b k op t => some ⟨0x10f, h, .t32, pf 5 a ||| pf 10 b ||| pf 20 k ||| pf 22 op.code ||| pf 24 t.code⟩
  | .pref h k a m => some ⟨0x111, h, .t16, pf 0 k ||| pf 5 a ||| pb 15 m⟩
  | .stash h a b c => some ⟨0x112, h, .t32, pf 5 a ||| pf 10 b ||| pf 15 c⟩
  | .unstash h d a => some ⟨0x113, h, .t32, pf 0 d ||| pf 5 a⟩
  | .flush h d a b k => some ⟨0x114, h, .t32, pf 0 d ||| pf 5 a ||| pf 10 b ||| pf 20 k⟩
  | .copy h d a b c desc ring => some ⟨0x115, h, .t32, pf 0 d ||| pf 5 a ||| pf 10 b ||| pf 15 c ||| pb 20 desc ||| pb 21 ring⟩
  | .mcast h d a b c ring => some ⟨0x116, h, .t32, pf 0 d ||| pf 5 a ||| pf 10 b ||| pf 15 c ||| pb 20 ring⟩
  | .vadd h d a b t rm na nb sat sb => some ⟨0x140, h, .t32, pf 0 d ||| pf 5 a ||| pf 10 b ||| pf 20 t.code ||| pf 24 rm.code ||| pb 27 na ||| pb 28 nb ||| pb 30 sat ||| pb 31 sb⟩
  | .vsub h d a b t rm na nb sat sb => some ⟨0x141, h, .t32, pf 0 d ||| pf 5 a ||| pf 10 b ||| pf 20 t.code ||| pf 24 rm.code ||| pb 27 na ||| pb 28 nb ||| pb 30 sat ||| pb 31 sb⟩
  | .vmul h d a b t rm na nb sat sb => some ⟨0x142, h, .t32, pf 0 d ||| pf 5 a ||| pf 10 b ||| pf 20 t.code ||| pf 24 rm.code ||| pb 27 na ||| pb 28 nb ||| pb 30 sat ||| pb 31 sb⟩
  | .vfma h d a b c t rm na nb nc sat sb => some ⟨0x143, h, .t32, pf 0 d ||| pf 5 a ||| pf 10 b ||| pf 15 c ||| pf 20 t.code ||| pf 24 rm.code ||| pb 27 na ||| pb 28 nb ||| pb 29 nc ||| pb 30 sat ||| pb 31 sb⟩
  | .vmin h d a b t sb => some ⟨0x144, h, .t32, pf 0 d ||| pf 5 a ||| pf 10 b ||| pf 20 t.code ||| pb 31 sb⟩
  | .vmax h d a b t sb => some ⟨0x145, h, .t32, pf 0 d ||| pf 5 a ||| pf 10 b ||| pf 20 t.code ||| pb 31 sb⟩
  | .vand h d a b t sb => some ⟨0x14a, h, .t32, pf 0 d ||| pf 5 a ||| pf 10 b ||| pf 20 t.code ||| pb 31 sb⟩
  | .vor h d a b t sb => some ⟨0x14b, h, .t32, pf 0 d ||| pf 5 a ||| pf 10 b ||| pf 20 t.code ||| pb 31 sb⟩
  | .vxor h d a b t sb => some ⟨0x14c, h, .t32, pf 0 d ||| pf 5 a ||| pf 10 b ||| pf 20 t.code ||| pb 31 sb⟩
  | .vshr h d a b t sb => some ⟨0x14e, h, .t32, pf 0 d ||| pf 5 a ||| pf 10 b ||| pf 20 t.code ||| pb 31 sb⟩
  | .vmulh h d a b t sb => some ⟨0x14f, h, .t32, pf 0 d ||| pf 5 a ||| pf 10 b ||| pf 20 t.code ||| pb 31 sb⟩
  | .vsgn h d a b t op sb => some ⟨0x146, h, .t32, pf 0 d ||| pf 5 a ||| pf 10 b ||| pf 20 t.code ||| pf 27 op.code ||| pb 31 sb⟩
  | .vdiv h d a b t rm sb => some ⟨0x147, h, .t32, pf 0 d ||| pf 5 a ||| pf 10 b ||| pf 20 t.code ||| pf 24 rm.code ||| pb 31 sb⟩
  | .vxf h d a t rm fn => some ⟨0x148, h, .t32, pf 0 d ||| pf 5 a ||| pf 20 t.code ||| pf 24 rm.code ||| pf 27 fn.code⟩
  | .vcvt h d a dt sty rm x => some ⟨0x149, h, .t32, pf 0 d ||| pf 5 a ||| pf 20 dt.code ||| pf 24 sty.code ||| pf 28 rm.code ||| pb 31 x⟩
  | .vshl h d a b t sat sb => some ⟨0x14d, h, .t32, pf 0 d ||| pf 5 a ||| pf 10 b ||| pf 20 t.code ||| pb 30 sat ||| pb 31 sb⟩
  | .vdot h d a b t rm na nb sat sb => some ⟨0x150, h, .t32, pf 0 d ||| pf 5 a ||| pf 10 b ||| pf 20 t.code ||| pf 24 rm.code ||| pb 27 na ||| pb 28 nb ||| pb 30 sat ||| pb 31 sb⟩
  | .vclamp h d a b c t sb => some ⟨0x151, h, .t32, pf 0 d ||| pf 5 a ||| pf 10 b ||| pf 15 c ||| pf 20 t.code ||| pb 31 sb⟩
  | .vsel h d a b q neg t sb => some ⟨0x152, h, .t32, pf 0 d ||| pf 5 a ||| pf 10 b ||| pf 15 q ||| pb 18 neg ||| pf 20 t.code ||| pb 31 sb⟩
  | .vmov h d a => some ⟨0x180, h, .t16, pf 0 d ||| pf 5 a⟩
  | .vbcast h d a t => some ⟨0x181, h, .t32, pf 0 d ||| pf 5 a ||| pf 20 t.code⟩
  | .vget h d a lane sx => some ⟨0x182, h, .t32, pf 0 d ||| pf 5 a ||| pf 20 lane ||| pb 25 sx⟩
  | .vins h d a lane => some ⟨0x183, h, .t32, pf 0 d ||| pf 5 a ||| pf 20 lane⟩
  | .vperm h d a b t sb => some ⟨0x184, h, .t32, pf 0 d ||| pf 5 a ||| pf 10 b ||| pf 20 t.code ||| pb 31 sb⟩
  | .vslide h d a t n => some ⟨0x185, h, .t32, pf 0 d ||| pf 5 a ||| pf 20 t.code ||| pf 24 n⟩
  | .vfold h d a t rm op => some ⟨0x186, h, .t32, pf 0 d ||| pf 5 a ||| pf 20 t.code ||| pf 24 rm.code ||| pf 27 op.code⟩
  | .vscan h d a t rm op => some ⟨0x187, h, .t32, pf 0 d ||| pf 5 a ||| pf 20 t.code ||| pf 24 rm.code ||| pf 27 op.code⟩
  | .vidx h d m => some ⟨0x188, h, .t16, pf 0 d ||| pb 15 m⟩
  | .vpack h d a b dt rm nar => some ⟨0x189, h, .t32, pf 0 d ||| pf 5 a ||| pf 10 b ||| pf 20 dt.code ||| pf 24 rm.code ||| pb 27 nar⟩
  | .vunpk h d a sty n => some ⟨0x18a, h, .t32, pf 0 d ||| pf 5 a ||| pf 20 sty.code ||| pb 24 n⟩
  | .tenc h d a => some ⟨0x18b, h, .t32, pf 0 d ||| pf 5 a⟩
  | .tdec h d a => some ⟨0x18c, h, .t32, pf 0 d ||| pf 5 a⟩
  | .tload h d a => some ⟨0x18d, h, .t16, pf 0 d ||| pf 5 a⟩
  | .vmxs h d a b rm inf sb => some ⟨0x18e, h, .t32, pf 0 d ||| pf 5 a ||| pf 10 b ||| pf 24 rm.code ||| pb 27 inf ||| pb 31 sb⟩
  | .rdef h d a b => some ⟨0x1c0, h, .t32, pf 0 d ||| pf 5 a ||| pf 10 b⟩
  | .rpush h d a vec => some ⟨0x1c1, h, .t32, pf 0 d ||| pf 5 a ||| pb 20 vec⟩
  | .rpop h d a vec => some ⟨0x1c2, h, .t32, pf 0 d ||| pf 5 a ||| pb 20 vec⟩
  | .rstat h d a => some ⟨0x1c3, h, .t32, pf 0 d ||| pf 5 a⟩
  | .bind h d a mode desc k => some ⟨0x1c4, h, .t32, pf 0 d ||| pf 5 a ||| pf 20 mode.code ||| pb 22 desc ||| pf 23 k⟩
  | .unbind h d => some ⟨0x1c5, h, .t16, pf 0 d⟩
  | .mma h d a b n => some ⟨0x1c6, h, .t32, pf 0 d ||| pf 5 a ||| pf 10 b ||| pf 20 n⟩
  | .mzero h d => some ⟨0x1c7, h, .t16, pf 0 d⟩
  | .mdrain h d a c k => some ⟨0x1c8, h, .t32, pf 0 d ||| pf 5 a ||| pf 15 c ||| pf 20 k⟩
  | .mfill h d a k => some ⟨0x1c9, h, .t32, pf 0 d ||| pf 5 a ||| pf 20 k⟩
  | .rquery h d a k => some ⟨0x1ca, h, .t32, pf 0 d ||| pf 5 a ||| pf 20 k⟩
  | .rett h => some ⟨0x1e0, h, .t0, 0⟩
  | .ctxsave h d a b => some ⟨0x1e1, h, .t32, pf 0 d ||| pf 5 a ||| pf 10 b⟩
  | .ctxload h d a b => some ⟨0x1e2, h, .t32, pf 0 d ||| pf 5 a ||| pf 10 b⟩
  | .rload h d a b => some ⟨0x1e7, h, .t32, pf 0 d ||| pf 5 a ||| pf 10 b⟩
  | .rinval h d a b => some ⟨0x1e8, h, .t32, pf 0 d ||| pf 5 a ||| pf 10 b⟩
  | .rsplit h d a b => some ⟨0x1e9, h, .t32, pf 0 d ||| pf 5 a ||| pf 10 b⟩
  | .rmerge h d a b => some ⟨0x1ea, h, .t32, pf 0 d ||| pf 5 a ||| pf 10 b⟩
  | .rgrow h d a b => some ⟨0x1eb, h, .t32, pf 0 d ||| pf 5 a ||| pf 10 b⟩
  | .rcompact h d a b => some ⟨0x1ec, h, .t32, pf 0 d ||| pf 5 a ||| pf 10 b⟩
  | .resume h a => some ⟨0x1e3, h, .t16, pf 5 a⟩
  | .killt h a => some ⟨0x1e4, h, .t16, pf 5 a⟩
  | .dbghalt h a => some ⟨0x1ee, h, .t16, pf 5 a⟩
  | .wakef h a => some ⟨0x1ef, h, .t16, pf 5 a⟩
  | .credsync h a => some ⟨0x1f0, h, .t16, pf 5 a⟩
  | .getpr h d x => some ⟨0x1e5, h, .t32, pf 0 d ||| pf 20 x⟩
  | .setpr h a x => some ⟨0x1e6, h, .t32, pf 5 a ||| pf 20 x⟩
  | .idle h => some ⟨0x1ed, h, .t0, 0⟩
  | .farArrival _ _ => none
  | .crownTrap _ => none
  | .crownReplay _ _ => none
  | .killApply _ => none
  | .replayWake _ => none
  | .lineFill _ => none
  | .slotFill _ _ => none
  | .taskPush _ => none
  | .joinDecrement _ _ => none
  | .joinRetry _ => none
  | .syncRetry _ => none
  | .coreShareFinished _ => none
  | .hikerArrival _ => none
  | .guestStart _ => none
  | .creditRequest _ _ _ => none
  | .creditGrant _ _ => none
  | .creditRetry _ _ _ => none
  | .creditHoldTimeout _ => none
  | .creditReturn _ _ _ => none
  | .barrierArrival _ _ _ => none
  | .bargArrival _ _ => none
  | .chunkCommit _ => none
  | .soloGrant _ => none
  | .singletonPerform _ => none
  | .windowFormatApply _ _ => none
  | .rdefPerform _ => none
  | .streamPrefetch _ _ => none
  | .walkerRun _ => none
  | .gatherReturn _ => none
  | .tableLoadComplete _ => none
  | .padLineFill _ => none
  | .rangeWalk _ _ => none
  | .rangeFill _ _ _ => none
  | .rangeCommandExecute _ => none
  | .remoteStorePerform _ => none
  | .remoteAck _ => none
  | .remoteInvalidate _ => none
  | .remoteAtomicPerform _ _ => none
  | .hostStoreSend _ => none
  | .cxlMemWrite _ _ _ => none
  | .hostSnoop _ => none
  | .backInvalidate _ => none
  | .eventEnqueue _ => none
  | .eventRetry _ => none
  | .preemptStop _ => none
  | .trappcWrite _ => none
  | .tregWrite _ => none
  | .resumeCommand _ => none
  | .imageArrival _ _ => none
  | .wakeatExpiry _ => none
  | .doorbell _ => none
  | .shareDeliver _ => none
  | .gangReady _ _ => none
  | .gangTimeout _ => none
  | .launchDone _ => none
  | .coreContain _ => none
  | .sealedArrival _ => none
  | .endToEndMessage _ => none
  | .readDebugRegister _ _ => none
  | .writeDebugRegister _ _ _ => none
  | .setFrequency _ => none
  | .setPowerCap _ => none
  | .issueCounterClear _ => none
  | .censusClear _ => none
  | .rangeWalkRetry _ _ => none
  | .packReadback => none
  | .coreTakeLaunch => none
  | .creditWatchdog => none
  | .engineCommandRun => none
  | .engineRevalidate => none
  | .engineResume => none
  | .matrixTileOp => none
  | .rangerDispatch => none
  | .timerInterrupt => none
  | .preemptInterrupt => none
  | .skip => none
  | .retry => none
  | .packSpillRetry => none
  | .dependencySample => none
  | .launchDispatch => none
  | .timedStart => none
  | .partitionSwapOut => none
  | .partitionSwapIn => none
  | .containOwedTimeout => none
  | .partitionContain => none
  | .attest => none
  | .xtrig => none
  | .release => none
  | .frequencySwitch => none
  | .droopTrip => none
  | .droopEnd => none
  | .powerOnReset => none
  | .signatureVerify => none
  | .hbmLinkTraining => none
  | .configurationLoad => none
  | .launchPortsOpen => none
  | .partitionReset => none
  | .creditCheck _ _ _ => none
  | .cxlMemRead _ _ => none
  | .backInvalidateResponse _ => none
  | .registerWrite _ _ => none
  | .poisonedTail _ _ => none
  | .cancel _ => none
  | .eccCorrected _ => none
  | .eccUncorrectable _ => none
  | .registerSoftError _ => none
  | .engineReset _ => none
  | .channelThreshold _ => none
  | .shadowCompare _ _ => none
  | .portTrain _ _ => none
  | .hostMessage _ _ => none
  | .flitReceive _ _ => none
  | .negativeAcknowledgement _ _ => none
  | .acknowledgement _ _ => none
  | .replayTimeout _ => none
  | .linkRetrain _ _ => none
  | .linkDown _ => none
  | .twinMismatch _ => none
  | .powerEstimate _ => none
  | .newImage _ => none
  | .linkReset _ => none
  | .routeRebuild _ => none

/-- The words of an instruction: its head and its tail. -/
def encode (i : Instr) : Option (BitVec 16 × BitVec 64) := (enc i).map fun e => (e.head, e.tail)

/-- What the decoder makes of a head and its tail: an instruction, an unassigned opcode (check 8 of R119), or a faulty
encoding (check 10). -/
inductive Decoded where
  | ok (i : Instr)
  | unassigned
  | illegal
deriving DecidableEq, Repr

/-- The decoder: total, rejecting by name (R107 to R109, R118, R119). -/
def decode (head : BitVec 16) (tail : BitVec 64) : Decoded :=
  match opFmt (headOp head) with
  | none => .unassigned
  | some _ =>
    match build (headOp head) (headHdr head) tail with
    | none => .illegal
    | some i => if i.wf && decide (encode i = some (head, tail)) then .ok i else .illegal

/-- The instruction of a decoding, none where there is none. -/
def Decoded.instr? : Decoded → Option Instr
  | .ok i => some i | _ => none

/-- The instruction of a table word: the head in bits 15..0, the tail above (R105, R107). -/
def decodeTableWord (nbits w : Nat) : Option Instr :=
  (decode (BitVec.ofNat 16 w) (BitVec.ofNat 64 (w % 2 ^ nbits / 2 ^ 16))).instr?

/-- Byte i of a 64-byte line held little-endian in 512 bits. -/
def lineByte (l : BitVec 512) (i : Nat) : Byte := l.extractLsb' (8 * i) 8
/-- N of the line descriptor, and its reserved bits (R98). -/
def lineN (l : BitVec 512) : Nat := (l.extractLsb' 0 5).toNat
def lineResv (l : BitVec 512) : Nat := (l.extractLsb' 5 11).toNat
/-- Head j of a line (R98). -/
def lineHead (l : BitVec 512) (j : Nat) : BitVec 16 := l.extractLsb' (16 + 16 * j) 16
/-- S(j): the bytes of the tails of heads 0 to j − 1 (R99). -/
def lineS (l : BitVec 512) : Nat → Nat
  | 0 => 0
  | j + 1 => lineS l j + tailLen (headTl (lineHead l j))
/-- The line is well formed (R99, R100). -/
def lineOk (l : BitVec 512) : Bool :=
  decide (lineN l ≠ 0) && decide (lineResv l = 0) && decide (2 + 2 * lineN l + lineS l (lineN l) ≤ 64)
/-- First byte of head j's tail (R99). -/
def tailAt (l : BitVec 512) (j : Nat) : Nat := 64 - lineS l (j + 1)
/-- The tail of head j, zero-extended (R99). -/
def lineTail (l : BitVec 512) (j : Nat) : BitVec 64 :=
  let n := tailLen (headTl (lineHead l j))
  BitVec.ofNat 64 ((l.extractLsb' (8 * tailAt l j) 64).toNat % 2 ^ (8 * n))

end Sys2Proof
end

