-- ==== Sys2Proof/Machine/Float.lean ====
section
/-! DEFINITION. Exact arithmetic and the one rounding of R137, overflow (R139), flags (R140), NaNs (R134), the SEED
generator (R138). A finite value is a sign, a magnitude m and a power of two; a quotient is a fraction of naturals. -/
namespace Sys2Proof.Machine

/-- One step of the stochastic generator (R138). -/
def seedStep (x0 : Word) : Word :=
  let x1 := x0 ^^^ (x0 <<< 13)
  let x2 := x1 ^^^ (x1 >>> 7)
  x2 ^^^ (x2 <<< 17)

/-- The n values that n steps from x return, in order (R138); the last is the new SEED. -/
def seedRun : Nat → Word → List Word
  | 0, _ => []
  | n + 1, x => let y := seedStep x; y :: seedRun n y

/-- SEED after n steps. -/
def seedAfter : Nat → Word → Word
  | 0, x => x
  | n + 1, x => seedAfter n (seedStep x)

/-- A floating format (R132, R133): fraction bits, bias, the largest finite magnitude code, the infinity's code where
there is one, and the canonical NaN where there is one. -/
structure FFmt where
  frac : Nat
  bias : Nat
  width : Nat
  maxCode : Nat
  inf : Option Nat
  nan : Option Nat
deriving DecidableEq, Repr

def fmtF64 : FFmt := ⟨52, 1023, 64, 0x7FEFFFFFFFFFFFFF, some 0x7FF0000000000000, some 0x7FF8000000000000⟩
def fmtF32 : FFmt := ⟨23, 127, 32, 0x7F7FFFFF, some 0x7F800000, some 0x7FC00000⟩
def fmtF19 : FFmt := ⟨10, 127, 19, 0x3FBFF, some 0x3FC00, some 0x3FE00⟩
def fmtF16 : FFmt := ⟨10, 15, 16, 0x7BFF, some 0x7C00, some 0x7E00⟩
def fmtBF16 : FFmt := ⟨7, 127, 16, 0x7F7F, some 0x7F80, some 0x7FC0⟩
def fmtE5M2 : FFmt := ⟨2, 15, 8, 0x7B, some 0x7C, some 0x7E⟩
def fmtE4M3 : FFmt := ⟨3, 7, 8, 0x7E, none, some 0x7F⟩
def fmtE2M1 : FFmt := ⟨1, 1, 4, 7, none, none⟩

/-- The exponent of the subnormal step: value = code × 2^kmin for the smallest codes (R132). -/
def FFmt.kmin (F : FFmt) : Int := 1 - (F.bias : Int) - (F.frac : Int)

/-- A value a code stands for: a NaN, an infinity, or (−1)^neg × m × 2^x. -/
inductive FVal where
  | nan (signalling : Bool)
  | inf (neg : Bool)
  | fin (neg : Bool) (m : Nat) (x : Int)
deriving DecidableEq, Repr

/-- The value of a code of format F (R132, R133). -/
def FFmt.decode (F : FFmt) (code : Nat) : FVal :=
  let c := code % 2 ^ F.width
  let neg := c / 2 ^ (F.width - 1) = 1
  let a := c % 2 ^ (F.width - 1)
  if a ≤ F.maxCode then
    let ef := a / 2 ^ F.frac
    let fr := a % 2 ^ F.frac
    if ef = 0 then .fin neg fr F.kmin
    else .fin neg (fr + 2 ^ F.frac) (F.kmin + ((ef : Int) - 1))
  else if F.inf = some a then .inf neg
  else .nan (a % 2 ^ F.frac < 2 ^ (F.frac - 1))

/-- The sign bit of format F, set when neg. -/
def FFmt.sign (F : FFmt) (neg : Bool) : Nat := if neg then 2 ^ (F.width - 1) else 0

/-- Rounding modes with dynamic already resolved (R136). -/
inductive RMode where
  | rne | rz | rdn | rup | rna | sr
deriving DecidableEq, Repr

/-- The flags of R140 as they stand in FPFLAGS[5:0]. -/
abbrev Flags := BitVec 6
def flNV : Flags := 1
def flDZ : Flags := 2
def flOF : Flags := 4
def flUF : Flags := 8
def flNX : Flags := 16
def flSAT : Flags := 32

/-- The context of an overflow (R139): the first row (arithmetic, or narrowing with .inf), or narrowing by default. -/
inductive OvCtx where
  | arith | saturate
deriving DecidableEq, Repr

/-- A result code with its flags. -/
structure FRes where
  bits : Nat
  fl : Flags
deriving DecidableEq, Repr

/-- The canonical NaN of F, or +0 where F has none (R134, R139). -/
def FFmt.qnan (F : FFmt) : Nat := F.nan.getD 0

/-- floor(log2 (num / den)) of a positive fraction. -/
def floorLog2 (num den : Nat) : Int :=
  let g : Int := (Nat.log2 num : Int) - (Nat.log2 den : Int)
  if g ≥ 0 then (if num < den * 2 ^ g.toNat then g - 1 else g)
  else (if num * 2 ^ (-g).toNat < den then g - 1 else g)

/-- The fraction num / den divided by 2^k, as numerator and denominator. -/
def scaleDown (num den : Nat) (k : Int) : Nat × Nat :=
  if k ≥ 0 then (num, den * 2 ^ k.toNat) else (num * 2 ^ (-k).toNat, den)

/-- Does R137 round the discarded part r / d up? `lo` is the kept quotient, `more` says that the true part is a little
above r / d (never as far as the next r), `neg` the sign, `rnd` the 24 bits drawn under SR. -/
def roundUp (mode : RMode) (neg : Bool) (lo r d : Nat) (more : Bool) (rnd : Nat) : Bool :=
  if r = 0 ∧ ¬ more then false
  else match mode with
    | .rne => decide (2 * r > d) || (decide (2 * r = d) && (more || decide (lo % 2 = 1)))
    | .rna => decide (2 * r ≥ d)
    | .rz => false
    | .rup => !neg
    | .rdn => neg
    | .sr => decide (r * 2 ^ 24 / d + rnd ≥ 2 ^ 24)

/-- R137 and R139 on a nonzero magnitude num / den (a little more when `more`): the code and the flags. -/
def roundFrac (F : FFmt) (mode : RMode) (ctx : OvCtx) (neg : Bool) (num den : Nat) (more : Bool) (rnd : Nat) : FRes :=
  let e := floorLog2 num den
  let emin : Int := 1 - (F.bias : Int)
  let k : Int := (if e < emin then emin else e) - (F.frac : Int)
  let (n, d) := scaleDown num den k
  let lo := n / d
  let r := n % d
  let up := roundUp mode neg lo r d more rnd
  let m := if up then lo + 1 else lo
  let inexact := decide (r ≠ 0) || more
  let code := (k - F.kmin).toNat * 2 ^ F.frac + m
  if code > F.maxCode then
    match (if F.inf = none ∧ F.nan = none then OvCtx.saturate else ctx) with
    | .saturate => ⟨F.sign neg + F.maxCode, flSAT ||| flNX⟩
    | .arith =>
      let toInf := match mode with
        | .rne => true | .rna => true | .rz => false
        | .rup => !neg | .rdn => neg | .sr => up
      if toInf then
        match F.inf with
        | some i => ⟨F.sign neg + i, flOF ||| flNX⟩
        | none => ⟨F.qnan, flOF ||| flNX⟩
      else ⟨F.sign neg + F.maxCode, flOF ||| flNX⟩
  else
    let tiny := decide (code < 2 ^ F.frac)
    ⟨F.sign neg + code, (if inexact then flNX else 0) ||| (if inexact && tiny then flUF else 0)⟩

/-- Round the dyadic (−1)^neg × m × 2^x; a zero keeps its sign. -/
def roundDy (F : FFmt) (mode : RMode) (ctx : OvCtx) (neg : Bool) (m : Nat) (x : Int) (rnd : Nat) : FRes :=
  if m = 0 then ⟨F.sign neg, 0⟩
  else if x ≥ 0 then roundFrac F mode ctx neg (m * 2 ^ x.toNat) 1 false rnd
  else roundFrac F mode ctx neg m (2 ^ (-x).toNat) false rnd

/-- The canonical NaN with NV when `nv`. -/
def nanRes (F : FFmt) (nv : Bool) : FRes := ⟨F.qnan, if nv then flNV else 0⟩
/-- An infinity of F, or its NaN where it has none; no flag (R139). -/
def infRes (F : FFmt) (neg : Bool) : FRes :=
  match F.inf with | some i => ⟨F.sign neg + i, 0⟩ | none => ⟨F.qnan, 0⟩

def FVal.isNaN : FVal → Bool | .nan _ => true | _ => false
def FVal.isSig : FVal → Bool | .nan s => s | _ => false
def FVal.negate : FVal → FVal
  | .nan s => .nan s | .inf n => .inf (!n) | .fin n m x => .fin (!n) m x

/-- The signed integer of a finite value at exponent x0 ≤ x. -/
def signedAt (neg : Bool) (m : Nat) (x x0 : Int) : Int :=
  let a : Int := (m * 2 ^ (x - x0).toNat : Nat)
  if neg then -a else a

/-- The exact sum of two finite values as sign, magnitude, exponent, the zero sum's sign as R202 gives it. -/
def sumFin (mode : RMode) (n1 : Bool) (m1 : Nat) (x1 : Int) (n2 : Bool) (m2 : Nat) (x2 : Int) : Bool × Nat × Int :=
  let x0 := min x1 x2
  let z := signedAt n1 m1 x1 x0 + signedAt n2 m2 x2 x0
  if z = 0 then
    let neg := if m1 = 0 ∧ m2 = 0 ∧ n1 = n2 then n1 else decide (mode = .rdn)
    (neg, 0, x0)
  else (decide (z < 0), z.natAbs, x0)

/-- FADD (R202); FSUB is FADD of the negated operand. -/
def fAdd (F : FFmt) (mode : RMode) (rnd : Nat) (a b : FVal) : FRes :=
  match a, b with
  | .nan s, y => nanRes F (s || y.isSig)
  | _, .nan s => nanRes F s
  | .inf n, .inf n' => if n = n' then infRes F n else nanRes F true
  | .inf n, .fin _ _ _ => infRes F n
  | .fin _ _ _, .inf n => infRes F n
  | .fin n1 m1 x1, .fin n2 m2 x2 =>
    let (n, m, x) := sumFin mode n1 m1 x1 n2 m2 x2
    roundDy F mode .arith n m x rnd

/-- FMUL (R202). -/
def fMul (F : FFmt) (mode : RMode) (ctx : OvCtx) (rnd : Nat) (a b : FVal) : FRes :=
  match a, b with
  | .nan s, y => nanRes F (s || y.isSig)
  | _, .nan s => nanRes F s
  | .inf n, .inf n' => infRes F (n != n')
  | .inf n, .fin n' m _ => if m = 0 then nanRes F true else infRes F (n != n')
  | .fin n' m _, .inf n => if m = 0 then nanRes F true else infRes F (n != n')
  | .fin n1 m1 x1, .fin n2 m2 x2 => roundDy F mode ctx (n1 != n2) (m1 * m2) (x1 + x2) rnd

/-- The exact product as a value; none where it is invalid (0 × ∞). NaN operands are dealt with before. -/
def prodVal (a b : FVal) : Option FVal :=
  match a, b with
  | .nan s, _ => some (.nan s)
  | _, .nan s => some (.nan s)
  | .inf n, .inf n' => some (.inf (n != n'))
  | .inf n, .fin n' m _ => if m = 0 then none else some (.inf (n != n'))
  | .fin n' m _, .inf n => if m = 0 then none else some (.inf (n != n'))
  | .fin n1 m1 x1, .fin n2 m2 x2 => some (.fin (n1 != n2) (m1 * m2) (x1 + x2))

/-- FFMA: a × b + c with one rounding (R202); 0 × ∞ is invalid whatever c is. -/
def fFma (F : FFmt) (mode : RMode) (rnd : Nat) (a b c : FVal) : FRes :=
  if a.isNaN || b.isNaN || c.isNaN then
    let badProduct := !a.isNaN && !b.isNaN && (prodVal a b).isNone
    nanRes F (a.isSig || b.isSig || c.isSig || badProduct)
  else match prodVal a b with
    | none => nanRes F true
    | some p => fAdd F mode rnd p c

/-- FDIV (R202). -/
def fDiv (F : FFmt) (mode : RMode) (rnd : Nat) (a b : FVal) : FRes :=
  match a, b with
  | .nan s, y => nanRes F (s || y.isSig)
  | _, .nan s => nanRes F s
  | .inf _, .inf _ => nanRes F true
  | .inf n, .fin n' _ _ => infRes F (n != n')
  | .fin n _ _, .inf n' => ⟨F.sign (n != n'), 0⟩
  | .fin n1 m1 x1, .fin n2 m2 x2 =>
    let neg := n1 != n2
    if m2 = 0 then
      if m1 = 0 then nanRes F true
      else let r := infRes F neg; ⟨r.bits, r.fl ||| flDZ⟩
    else if m1 = 0 then ⟨F.sign neg, 0⟩
    else
      let x := x1 - x2
      if x ≥ 0 then roundFrac F mode .arith neg (m1 * 2 ^ x.toNat) m2 false rnd
      else roundFrac F mode .arith neg m1 (m2 * 2 ^ (-x).toNat) false rnd

/-- floor of the square root, by bisection from the top bit. -/
def isqrtGo (n : Nat) : Nat → Nat → Nat
  | 0, acc => acc
  | b + 1, acc => let t := acc + 2 ^ b; if t * t ≤ n then isqrtGo n b t else isqrtGo n b acc
def isqrt (n : Nat) : Nat := isqrtGo n (Nat.log2 n / 2 + 1) 0

/-- The square root of m × 2^x with p fraction bits below the point: the floor, the exponent, and whether more follows. -/
def sqrtDy (m : Nat) (x : Int) (p : Nat) : Nat × Int × Bool :=
  let (m1, x1) := if x % 2 = 0 then (m, x) else (2 * m, x - 1)
  let s := m1 * 2 ^ (2 * p)
  let r := isqrt s
  (r, x1 / 2 - (p : Int), decide (r * r ≠ s))

/-- FSQRT (R202). -/
def fSqrt (F : FFmt) (mode : RMode) (rnd : Nat) (a : FVal) : FRes :=
  match a with
  | .nan s => nanRes F s
  | .inf n => if n then nanRes F true else infRes F false
  | .fin n m x =>
    if m = 0 then ⟨F.sign n, 0⟩
    else if n then nanRes F true
    else
      let (r, k, more) := sqrtDy m x (F.frac + 64)
      if k ≥ 0 then roundFrac F mode .arith false (r * 2 ^ k.toNat) 1 more rnd
      else roundFrac F mode .arith false r (2 ^ (-k).toNat) more rnd

/-- The order of two values that are not NaN, −0 equal to +0. -/
def fCmp (a b : FVal) : Ordering :=
  match a, b with
  | .inf n, .inf n' => if n = n' then .eq else if n then .lt else .gt
  | .inf n, _ => if n then .lt else .gt
  | _, .inf n => if n then .gt else .lt
  | .fin n1 m1 x1, .fin n2 m2 x2 =>
    let x0 := min x1 x2
    compare (signedAt n1 m1 x1 x0) (signedAt n2 m2 x2 x0)
  | _, _ => .eq

def FVal.isNeg : FVal → Bool | .nan _ => false | .inf n => n | .fin n _ _ => n

/-- R203: does the lesser-or-greater selection take a (else b)? −0 counts as less than +0. -/
def takesFirst (wantMax : Bool) (a b : FVal) : Bool :=
  match fCmp a b with
  | .lt => !wantMax
  | .gt => wantMax
  | .eq => if wantMax then !a.isNeg else a.isNeg || !b.isNeg

/-- FMIN, FMAX (R203) on codes of F. -/
def fMinMax (F : FFmt) (wantMax : Bool) (ca cb : Nat) : FRes :=
  let a := F.decode ca
  let b := F.decode cb
  let fl := if a.isSig || b.isSig then flNV else 0
  if a.isNaN && b.isNaN then ⟨F.qnan, fl⟩
  else if a.isNaN then ⟨cb % 2 ^ F.width, fl⟩
  else if b.isNaN then ⟨ca % 2 ^ F.width, fl⟩
  else ⟨(if takesFirst wantMax a b then ca else cb) % 2 ^ F.width, fl⟩

/-- FSGN and VSGN (R204): the sign of a becomes b's, its inverse, or 0. -/
def fSgn (F : FFmt) (op : SignOp) (ca cb : Nat) : Nat :=
  let mag := ca % 2 ^ (F.width - 1)
  let sb := decide (cb % 2 ^ F.width / 2 ^ (F.width - 1) = 1)
  mag + F.sign (match op with | .copy => sb | .neg => !sb | .abs => false)

/-- FRND (R206): rounding to an integral value of the same format; sets no flag but NV for a signalling NaN. -/
def fRnd (F : FFmt) (mode : RMode) (rnd : Nat) (ca : Nat) : FRes :=
  match F.decode ca with
  | .nan s => nanRes F s
  | .inf n => infRes F n
  | .fin n m x =>
    if m = 0 ∨ x ≥ 0 then ⟨ca % 2 ^ F.width, 0⟩
    else
      let d := 2 ^ (-x).toNat
      if m % d = 0 then ⟨ca % 2 ^ F.width, 0⟩
      else
        let lo := m / d
        let q := if roundUp mode n lo (m % d) d false rnd then lo + 1 else lo
        ⟨(roundDy F .rz .arith n q 0 0).bits, 0⟩

/-- Conversion of a value to format F (R205, R139): narrowing context `ctx`. E2M1 has no NaN: +0 with NV. -/
def fToF (F : FFmt) (mode : RMode) (ctx : OvCtx) (rnd : Nat) (a : FVal) : FRes :=
  match a with
  | .nan s => if F.nan = none then ⟨0, flNV⟩ else nanRes F s
  | .inf n =>
    if ctx = .saturate ∨ (F.inf = none ∧ F.nan = none) then ⟨F.sign n + F.maxCode, flSAT⟩ else infRes F n
  | .fin n m x => roundDy F mode ctx n m x rnd

/-- Does every value of S exist in F (R205: wider or equal)? -/
def FFmt.holds (F S : FFmt) : Bool :=
  decide (S.frac ≤ F.frac) && decide (S.bias ≤ F.bias) && (F.inf.isSome || S.inf.isNone)

/-- The range of an integer of w bits (R130). -/
def intMin (signed : Bool) (w : Nat) : Int := if signed then -(2 ^ (w - 1) : Nat) else 0
def intMax (signed : Bool) (w : Nat) : Int := if signed then (2 ^ (w - 1) : Nat) - 1 else (2 ^ w : Nat) - 1
/-- A code of w bits as an integer. -/
def codeInt (signed : Bool) (w code : Nat) : Int :=
  let c := code % 2 ^ w
  if signed ∧ c ≥ 2 ^ (w - 1) then (c : Int) - (2 ^ w : Nat) else c
/-- An integer as a code of w bits, modulo 2^w (R131). -/
def intCode (w : Nat) (z : Int) : Nat := (z % ((2 ^ w : Nat) : Int)).toNat
/-- Clamp to the range; was it clamped (R131)? -/
def clampInt (signed : Bool) (w : Nat) (z : Int) : Int × Bool :=
  if z < intMin signed w then (intMin signed w, true)
  else if z > intMax signed w then (intMax signed w, true) else (z, false)

/-- Float to integer (R141). -/
def fToI (signed : Bool) (w : Nat) (mode : RMode) (rnd : Nat) (a : FVal) : FRes :=
  match a with
  | .nan _ => ⟨0, flNV⟩
  | .inf n => ⟨intCode w (if n then intMin signed w else intMax signed w), flNV⟩
  | .fin n m x =>
    let (num, d) := scaleDown m 1 (-x)
    let lo := num / d
    let q := if roundUp mode n lo (num % d) d false rnd then lo + 1 else lo
    let z : Int := if n then -(q : Int) else q
    let (c, bad) := clampInt signed w z
    if bad then ⟨intCode w c, flNV⟩
    else ⟨intCode w z, if num % d ≠ 0 then flNX else 0⟩

/-- Integer to float (R141). Under `.inf` an overflow takes R139's value for the mode, infinity or the greatest number: DESIGN CHOICE (log
78). -/
def iToF (F : FFmt) (mode : RMode) (ctx : OvCtx) (rnd : Nat) (z : Int) : FRes :=
  roundDy F mode ctx (decide (z < 0)) z.natAbs 0 rnd

/-- FCLS (R207): the class bit. -/
def fCls (F : FFmt) (code : Nat) : Nat :=
  match F.decode code with
  | .nan s => if s then 2 ^ 8 else 2 ^ 9
  | .inf n => if n then 1 else 2 ^ 7
  | .fin n m _ =>
    if m = 0 then (if n then 2 ^ 3 else 2 ^ 4)
    else if m < 2 ^ F.frac then (if n then 2 ^ 2 else 2 ^ 5)
    else (if n then 2 else 2 ^ 6)

/-- The float conditions (R210): the outcome, and NV. -/
def fCond (c : Cond) (a b : FVal) : Bool × Flags :=
  let un := a.isNaN || b.isNaN
  let sig := a.isSig || b.isSig
  let o := fCmp a b
  let quiet := if sig then flNV else 0
  let loud := if un then flNV else 0
  match c with
  | .eq => (!un && o == .eq, quiet)
  | .ne => (un || o != .eq, quiet)
  | .lt => (!un && o == .lt, loud)
  | .le => (!un && o != .gt, loud)
  | .gt => (!un && o == .gt, loud)
  | .ge => (!un && o != .lt, loud)
  | .un => (un, quiet)
  | .or => (!un, quiet)

/-- The integer conditions (R210); codes 6 and 7 are reserved and never reach here. -/
def iCond (c : Cond) (a b : Int) : Bool :=
  match c with
  | .eq => decide (a = b) | .ne => decide (a ≠ b) | .lt => decide (a < b) | .le => decide (a ≤ b)
  | .gt => decide (a > b) | .ge => decide (a ≥ b) | .un => false | .or => true

end Sys2Proof.Machine
end

