-- ==== Sys2Proof/Machine/Fxf.lean ====
section
/-! DEFINITION. The functions of FXF and VXF (R208), correctly rounded: an enclosure of the exact value by rationals,
made finer until both ends round alike. Fixed-point integers stand for v / 2^P; `Enc` is a pair lo ≤ v ≤ hi. -/
namespace Sys2Proof.Machine

/-- An enclosure lo/2^P ≤ v ≤ hi/2^P. -/
structure Enc where
  lo : Int
  hi : Int
deriving DecidableEq, Repr

/-- Floor and ceiling of a / b for b > 0. -/
def fdiv (a : Int) (b : Nat) : Int := a / (b : Int)
def cdiv (a : Int) (b : Nat) : Int := -((-a) / (b : Int))

namespace Enc
def ofFrac (P : Nat) (num : Int) (den : Nat) : Enc := ⟨fdiv (num * (2 ^ P : Nat)) den, cdiv (num * (2 ^ P : Nat)) den⟩
def add (a b : Enc) : Enc := ⟨a.lo + b.lo, a.hi + b.hi⟩
def neg (a : Enc) : Enc := ⟨-a.hi, -a.lo⟩
def widen (a : Enc) (k : Nat) : Enc := ⟨a.lo - k, a.hi + k⟩
/-- The product of two enclosures. -/
def mul (P : Nat) (a b : Enc) : Enc :=
  let p1 := a.lo * b.lo
  let p2 := a.lo * b.hi
  let p3 := a.hi * b.lo
  let p4 := a.hi * b.hi
  ⟨fdiv (min (min p1 p2) (min p3 p4)) (2 ^ P), cdiv (max (max p1 p2) (max p3 p4)) (2 ^ P)⟩
def divNat (a : Enc) (n : Nat) : Enc := ⟨fdiv a.lo n, cdiv a.hi n⟩
/-- The quotient of two positive enclosures. -/
def div (P : Nat) (a b : Enc) : Enc :=
  if b.lo ≤ 0 then ⟨0, (2 ^ (2 * P) : Nat)⟩
  else ⟨fdiv (a.lo * (2 ^ P : Nat)) b.hi.toNat, cdiv (a.hi * (2 ^ P : Nat)) b.lo.toNat⟩
end Enc

/-- The sum of x^(k+step)/… : the terms t, t·y/(d(k)·d(k+1)), … of a Taylor series, alternating or not. -/
def taylorGo (P : Nat) (y : Enc) (neg : Bool) : Nat → Nat → Enc → Enc → Enc
  | 0, _, _, acc => acc.widen 2
  | fuel + 1, k, t, acc =>
    let t1 := ((t.mul P y).divNat (k + 1)).divNat (k + 2)
    let t2 := if neg then t1.neg else t1
    taylorGo P y neg fuel (k + 2) t2 (acc.add t2)

/-- e^y for 0 ≤ y < 1: the terms y^k / k!. -/
def expGo (P : Nat) (y : Enc) : Nat → Nat → Enc → Enc → Enc
  | 0, _, _, acc => acc.widen 2
  | fuel + 1, k, t, acc =>
    let t1 := (t.mul P y).divNat (k + 1)
    expGo P y fuel (k + 1) t1 (acc.add t1)

/-- How many terms leave a rest below one unit at P bits for an argument at most 1. -/
def termsFor (P : Nat) : Nat := if P ≤ 128 then 40 else if P ≤ 256 then 64 else if P ≤ 512 then 104 else 180

/-- 2·atanh(z) for 0 ≤ z ≤ 1/3: the terms 2 z^(2k+1)/(2k+1); each step divides by at least 9. -/
def atanhGo (P : Nat) (z2 : Enc) : Nat → Nat → Enc → Enc → Enc
  | 0, _, _, acc => acc.widen 2
  | fuel + 1, k, zk, acc =>
    let z1 := zk.mul P z2
    atanhGo P z2 fuel (k + 2) z1 (acc.add (z1.divNat (k + 2)))

def twoAtanh (P : Nat) (z : Enc) : Enc :=
  let a := atanhGo P (z.mul P z) (P / 3 + 2) 1 z z
  a.add a

/-- ln 2 = 2·atanh(1/3). -/
def encLn2 (P : Nat) : Enc := twoAtanh P (Enc.ofFrac P 1 3)

/-- arctan(1/n) for n ≥ 5: alternating series, each term below a 25th of the one before. -/
def arctanGo (P n2 : Nat) : Nat → Nat → Bool → Enc → Enc → Enc
  | 0, _, _, _, acc => acc.widen 2
  | fuel + 1, k, minus, t, acc =>
    let t1 := t.divNat n2
    let u := t1.divNat (k + 2)
    arctanGo P n2 fuel (k + 2) (!minus) t1 (acc.add (if minus then u.neg else u))

def encArctanInv (P n : Nat) : Enc :=
  let t := Enc.ofFrac P 1 n
  arctanGo P (n * n) (P / 4 + 2) 1 true t t

/-- π = 16·arctan(1/5) − 4·arctan(1/239). -/
def encPi (P : Nat) : Enc :=
  let a := encArctanInv P 5
  let b := encArctanInv P 239
  ⟨16 * a.lo - 4 * b.hi, 16 * a.hi - 4 * b.lo⟩

/-- e^y for an enclosure within 0 ≤ y < 1. -/
def encExp (P : Nat) (y : Enc) : Enc :=
  let one : Enc := ⟨(2 ^ P : Nat), (2 ^ P : Nat)⟩
  expGo P y (termsFor P) 0 one one

/-- sin and cos of an enclosure within −1 ≤ y ≤ 1. -/
def encSin (P : Nat) (y : Enc) : Enc := taylorGo P (y.mul P y) true (termsFor P) 1 y y
def encCos (P : Nat) (y : Enc) : Enc :=
  let one : Enc := ⟨(2 ^ P : Nat), (2 ^ P : Nat)⟩
  taylorGo P (y.mul P y) true (termsFor P) 0 one one

/-- m × 2^x as an enclosure. -/
def encDy (P : Nat) (neg : Bool) (m : Nat) (x : Int) : Enc :=
  let z : Int := if neg then -(m : Int) else m
  if x ≥ 0 then Enc.ofFrac P (z * (2 ^ x.toNat : Nat)) 1 else Enc.ofFrac P z (2 ^ (-x).toNat)

/-- An approximation of a function value: an enclosure times 2^scale. -/
structure Approx where
  enc : Enc
  scale : Int
deriving DecidableEq, Repr

/-- 2^x: x = n + r with 0 ≤ r < 1; beyond ±4096 only the rounding direction matters and n is held there. -/
def approxExp2 (P : Nat) (neg : Bool) (m : Nat) (x : Int) : Approx :=
  let z : Int := if neg then -(m : Int) else m
  let d : Nat := if x ≥ 0 then 1 else 2 ^ (-x).toNat
  let num : Int := if x ≥ 0 then z * (2 ^ x.toNat : Nat) else z
  let n := fdiv num d
  let r := num - n * d
  let y := (Enc.ofFrac P r d).mul P (encLn2 P)
  ⟨encExp P y, max (-4096) (min 4096 n)⟩

/-- log2 of m × 2^x. -/
def approxLog2 (P : Nat) (m : Nat) (x : Int) : Approx :=
  let k := Nat.log2 m
  let one : Nat := 2 ^ k
  let z := Enc.ofFrac P ((m : Int) - (one : Int)) (m + one)
  let l := (twoAtanh P z).div P (encLn2 P)
  let e : Int := (x + k) * (2 ^ P : Nat)
  ⟨⟨l.lo + e, l.hi + e⟩, 0⟩

/-- sin or cos: the argument less the nearest multiple of π/2. -/
def approxTrig (P : Nat) (isCos : Bool) (neg : Bool) (m : Nat) (x : Int) : Approx :=
  let Q := P + (if x + (Nat.log2 m : Int) > 0 then (x + Nat.log2 m).toNat + 8 else 8)
  let pi := encPi Q
  let a := encDy Q neg m x
  let k := fdiv (4 * a.lo + pi.lo) (2 * pi.lo.toNat)
  let half : Enc := if k ≥ 0 then ⟨k * pi.lo, k * pi.hi⟩ else ⟨k * pi.hi, k * pi.lo⟩
  let r2 : Enc := ⟨2 * a.lo - half.hi, 2 * a.hi - half.lo⟩
  let r : Enc := ⟨fdiv r2.lo (2 ^ (Q - P + 1)), cdiv r2.hi (2 ^ (Q - P + 1))⟩
  let q := (k + (if isCos then 1 else 0)) % 4
  let v := if q = 0 then encSin P r else if q = 1 then encCos P r
    else if q = 2 then (encSin P r).neg else (encCos P r).neg
  ⟨v, 0⟩

/-- e^(−2t)·… : tanh t = (1 − u) / (1 + u) with u = 2^(−2 t / ln 2). -/
def approxTanh (P : Nat) (neg : Bool) (m : Nat) (x : Int) : Approx :=
  let t := encDy P false m x
  let v := (Enc.add t t).div P (encLn2 P)
  let n := fdiv v.lo (2 ^ P)
  let f : Enc := ⟨v.lo - n * (2 ^ P : Nat), v.hi - n * (2 ^ P : Nat)⟩
  -- 2^(n + f) = e^(2t) ≥ 1, so tanh = (w − 1) / (w + 1) with w its enclosure
  let w0 := encExp P (f.mul P (encLn2 P))
  let w : Enc := ⟨w0.lo * (2 ^ n.toNat : Nat), w0.hi * (2 ^ n.toNat : Nat)⟩
  let one : Int := (2 ^ P : Nat)
  let lo := fdiv ((w.lo - one) * one) (w.lo + one).toNat
  let hi := cdiv ((w.hi - one) * one) (w.hi + one).toNat
  let r : Enc := ⟨lo, hi⟩
  ⟨if neg then r.neg else r, 0⟩

/-- Round an enclosure when both ends round to one code. -/
def roundEnc (F : FFmt) (mode : RMode) (rnd : Nat) (P : Nat) (a : Approx) : Option FRes :=
  let k : Int := a.scale - (P : Int)
  let one (neg : Bool) (n : Nat) (more : Bool) : FRes :=
    if k ≥ 0 then roundFrac F mode .arith neg (n * 2 ^ k.toNat) 1 more rnd
    else roundFrac F mode .arith neg n (2 ^ (-k).toNat) more rnd
  if a.enc.lo > 0 then
    let l := one false a.enc.lo.toNat true
    let h := one false a.enc.hi.toNat false
    if l = h then some l else none
  else if a.enc.hi < 0 then
    let l := one true (-a.enc.hi).toNat true
    let h := one true (-a.enc.lo).toNat false
    if l = h then some l else none
  else none

/-- Try precisions in turn. -/
def refine (F : FFmt) (mode : RMode) (rnd : Nat) (f : Nat → Approx) (free : Nat) : List Nat → FRes
  | [] => ⟨free % 2 ^ F.width, flNX⟩
  | P :: Ps => match roundEnc F mode rnd P (f P) with
    | some r => r
    | none => refine F mode rnd f free Ps

def precisions : List Nat := [96, 192, 384, 768, 1024]

/-- 1/√a: exact where a is a perfect square of a dyadic, else from an enclosure of the root. -/
def fRsq (F : FFmt) (mode : RMode) (rnd : Nat) (m : Nat) (x : Int) : FRes :=
  let (r, k, more) := sqrtDy m x (F.frac + 96)
  -- 1/(r 2^k): a larger root gives a smaller value, so with `more` the value lies in (1/((r+1)2^k), 1/(r 2^k))
  if more then
    let num := 2 ^ (2 * (F.frac + 96) + 400)
    let q := num / (r + 1)
    let e : Int := -k - ((2 * (F.frac + 96) + 400 : Nat) : Int)
    if e ≥ 0 then roundFrac F mode .arith false (q * 2 ^ e.toNat) 1 true rnd
    else roundFrac F mode .arith false q (2 ^ (-e).toNat) true rnd
  else if k ≥ 0 then roundFrac F mode .arith false 1 (r * 2 ^ k.toNat) false rnd
  else roundFrac F mode .arith false (2 ^ (-k).toNat) r false rnd

/-- Is m × 2^x an integer? -/
def isIntegral (m : Nat) (x : Int) : Bool := decide (x ≥ 0) || decide (m % 2 ^ (-x).toNat = 0)

/-- FXF on a value of format F (R208); `tag` names the call for the free value of log 14. -/
def fXf (F : FFmt) (fn : Fun) (mode : RMode) (rnd : Nat) (code : Nat) : FRes :=
  let free := Config.undecided (code + 2 ^ 70 * F.width) rnd
  let one := 2 ^ F.frac * F.bias
  match F.decode code with
  | .nan s => nanRes F s
  | .inf n =>
    match fn with
    | .rcp => ⟨F.sign n, 0⟩
    | .rsq => if n then nanRes F true else ⟨0, 0⟩
    | .exp2 => if n then ⟨0, 0⟩ else infRes F false
    | .log2 => if n then nanRes F true else infRes F false
    | .sin => nanRes F true
    | .cos => nanRes F true
    | .tanh => ⟨F.sign n + one, 0⟩
    | .sqrt => fSqrt F mode rnd (.inf n)
  | .fin n m x =>
    match fn with
    | .rcp =>
      if m = 0 then ⟨(infRes F n).bits, flDZ⟩
      else if x ≥ 0 then roundFrac F mode .arith n 1 (m * 2 ^ x.toNat) false rnd
      else roundFrac F mode .arith n (2 ^ (-x).toNat) m false rnd
    | .rsq =>
      if m = 0 then ⟨(infRes F n).bits, flDZ⟩
      else if n then nanRes F true else fRsq F mode rnd m x
    | .exp2 =>
      if m = 0 then ⟨one, 0⟩
      else if isIntegral m x then
        let a : Approx := approxExp2 1 n m x
        if a.scale ≥ 0 then roundFrac F mode .arith false (2 ^ a.scale.toNat) 1 false rnd
        else roundFrac F mode .arith false 1 (2 ^ (-a.scale).toNat) false rnd
      else refine F mode rnd (fun P => approxExp2 P n m x) free precisions
    | .log2 =>
      if m = 0 then ⟨(infRes F true).bits, flDZ⟩
      else if n then nanRes F true
      else if m = 2 ^ Nat.log2 m then
        let e : Int := x + Nat.log2 m
        if e = 0 then ⟨0, 0⟩ else roundDy F mode .arith (decide (e < 0)) e.natAbs 0 rnd
      else refine F mode rnd (fun P => approxLog2 P m x) free precisions
    | .sin => if m = 0 then ⟨F.sign n, 0⟩ else refine F mode rnd (fun P => approxTrig P false n m x) free precisions
    | .cos => if m = 0 then ⟨one, 0⟩ else refine F mode rnd (fun P => approxTrig P true n m x) free precisions
    | .tanh =>
      if m = 0 then ⟨F.sign n, 0⟩
      else if (Nat.log2 m : Int) + x ≥ 6 then
        roundFrac F mode .arith n (2 ^ 120 - 1) (2 ^ 120) true rnd
      else refine F mode rnd (fun P => approxTanh P n m x) free precisions
    | .sqrt => fSqrt F mode rnd (.fin n m x)

end Sys2Proof.Machine
end

