-- ==== Sys2Proof/Machine/Vector.lean ====
section
/-! DEFINITION. Element-wise vector arithmetic on plain values (R216 to R227, R252 to R259, R142 to R148): each
operation yields its elements, and one assembly builds the destination with its poison and flags (R217). -/
namespace Sys2Proof.Machine

/-- Element width in bits of a vector type (R216). -/
def VTy.width : VTy → Nat
  | .f32 => 32 | .f16 => 16 | .bf16 => 16 | .i32 => 32 | .n32 => 32 | .i16 => 16 | .n16 => 16 | .i8 => 8 | .n8 => 8
def VTy.fmt : VTy → Option FFmt
  | .f32 => some fmtF32 | .f16 => some fmtF16 | .bf16 => some fmtBF16 | _ => none
def VTy.signed : VTy → Bool
  | .i32 => true | .i16 => true | .i8 => true | _ => false
def VTy.isFloat (t : VTy) : Bool := (VTy.fmt t).isSome
def VTy.count (t : VTy) : Nat := 1024 / VTy.width t

/-- Element e of width w of a vector (R50). -/
def velt (w : Nat) (v : VBits) (e : Nat) : Nat := v.toNat / 2 ^ (w * e) % 2 ^ w
/-- The lane that holds element e of width w (R50). -/
def laneOf (w e : Nat) : Nat := w * e / 32
/-- The poison of element e of width w (R49). -/
def vpois (w : Nat) (v : VVal) (e : Nat) : Bool := v.poison.getLsbD (laneOf w e)

/-- A vector from its elements of width w, element 0 lowest. -/
def packElems (w : Nat) : List Nat → Nat
  | [] => 0
  | x :: xs => x % 2 ^ w + 2 ^ w * packElems w xs

/-- The bit of a guard or select mask that governs element e of width w (R53). -/
def govBit (w : Nat) (mask : Word) (e : Nat) : Bool := mask.getLsbD (if w = 8 then e / 2 else e)

/-- One result element: its bits, its poison, its flags. -/
structure Elem where
  bits : Nat
  p : Bool
  fl : Flags
deriving DecidableEq, Repr

/-- A vector result with its flags. -/
structure VOut where
  val : VVal
  fl : Flags
deriving DecidableEq, Repr

/-- Poison of lanes: a lane is poisoned when one of its elements is (R217). -/
def packPoison (w : Nat) (ps : List Bool) : BitVec 32 :=
  BitVec.ofNat 32 (packElems 1 ((List.range 32).map fun l =>
    let per := 32 / w
    if ((ps.drop (l * per)).take per).any id then 1 else 0))

/-- The destination from computed elements (R217): governed elements computed, the others kept; a poisoned guard poisons
every lane (R150, R151); flags from governed, unpoisoned elements only (R153). -/
def assemble (w : Nat) (mask : Word) (gp : Bool) (old : VVal) (f : Nat → Elem) : VOut :=
  let es : List Elem := (List.range (1024 / w)).map fun e =>
    if govBit w mask e then
      let x := f e
      let p := x.p || gp
      ⟨x.bits, p, if p then 0 else x.fl⟩
    else ⟨velt w old.bits e, vpois w old e || gp, 0⟩
  ⟨⟨BitVec.ofNat 1024 (packElems w (es.map (·.bits))), packPoison w (es.map (·.p))⟩,
    es.foldl (fun a x => a ||| x.fl) 0⟩

/-- The 24 random bits of the e-th draw (R137, R138). -/
def rnd24 (draws : List Word) (e : Nat) : Nat := (draws.getD e 0).toNat % 2 ^ 24

/-- The scalar broadcast operand (R217). -/
def bcast (w : Nat) (s : SVal) : VVal :=
  ⟨BitVec.ofNat 1024 (packElems w (List.replicate (1024 / w) (s.v.toNat % 2 ^ w))),
    if s.p then BitVec.allOnes 32 else 0⟩

def negIf (n : Bool) (v : FVal) : FVal := if n then v.negate else v

/-- The element operations of VADD, VSUB, VMUL, VFMA (R220). -/
inductive ArithOp where
  | add | sub | mul | fma
deriving DecidableEq, Repr

/-- One element of an arithmetic operation, after the negations (R220, R217). -/
def eArith (op : ArithOp) (t : VTy) (mode : RMode) (rnd : Nat) (na nb nc sat : Bool) (a b c : Nat) : Nat × Flags :=
  match VTy.fmt t with
  | some F =>
    let x := negIf na (F.decode a)
    let y := negIf nb (F.decode b)
    let z := negIf nc (F.decode c)
    let r := match op with
      | .add => fAdd F mode rnd x y
      | .sub => fAdd F mode rnd x y.negate
      | .mul => fMul F mode .arith rnd x y
      | .fma => fFma F mode rnd x y z
    (r.bits, r.fl)
  | none =>
    let w := VTy.width t
    let s := VTy.signed t
    let x := if na then -(codeInt s w a) else codeInt s w a
    let y := if nb then -(codeInt s w b) else codeInt s w b
    let z := if nc then -(codeInt s w c) else codeInt s w c
    let r := match op with
      | .add => x + y | .sub => x - y | .mul => x * y | .fma => x * y + z
    if sat then
      let (q, cl) := clampInt s w r
      (intCode w q, if cl then flSAT else 0)
    else (intCode w r, 0)

def vArith (op : ArithOp) (t : VTy) (mode : RMode) (dr : List Word) (na nb nc sat : Bool)
    (mask : Word) (gp : Bool) (old a b c : VVal) : VOut :=
  let w := VTy.width t
  assemble w mask gp old fun e =>
    let r := eArith op t mode (rnd24 dr e) na nb nc sat (velt w a.bits e) (velt w b.bits e) (velt w c.bits e)
    ⟨r.1, vpois w a e || vpois w b e || (decide (op = .fma) && vpois w c e), r.2⟩

/-- Selection of the lesser or greater element (R203, R221). -/
def eMinMax (t : VTy) (wantMax : Bool) (a b : Nat) : Nat × Flags :=
  match VTy.fmt t with
  | some F => let r := fMinMax F wantMax a b; (r.bits, r.fl)
  | none =>
    let x := codeInt (VTy.signed t) (VTy.width t) a
    let y := codeInt (VTy.signed t) (VTy.width t) b
    (if (if wantMax then decide (y < x) else decide (x < y)) then a else b, 0)

def vMinMax (t : VTy) (wantMax : Bool) (mask : Word) (gp : Bool) (old a b : VVal) : VOut :=
  let w := VTy.width t
  assemble w mask gp old fun e =>
    let r := eMinMax t wantMax (velt w a.bits e) (velt w b.bits e)
    ⟨r.1, vpois w a e || vpois w b e, r.2⟩

/-- VCLAMP: min(max(A, B), C) (R221). -/
def vClamp (t : VTy) (mask : Word) (gp : Bool) (old a b c : VVal) : VOut :=
  let w := VTy.width t
  assemble w mask gp old fun e =>
    let r := eMinMax t true (velt w a.bits e) (velt w b.bits e)
    let q := eMinMax t false r.1 (velt w c.bits e)
    ⟨q.1, vpois w a e || vpois w b e || vpois w c e, r.2 ||| q.2⟩

/-- VSGN (R222). -/
def vSgn (t : VTy) (op : SignOp) (mask : Word) (gp : Bool) (old a b : VVal) : VOut :=
  let w := VTy.width t
  let F := (VTy.fmt t).getD fmtF32
  assemble w mask gp old fun e =>
    ⟨fSgn F op (velt w a.bits e) (velt w b.bits e), vpois w a e || (decide (op ≠ .abs) && vpois w b e), 0⟩

/-- VDIV (R223). -/
def vDiv (t : VTy) (mode : RMode) (dr : List Word) (mask : Word) (gp : Bool) (old a b : VVal) : VOut :=
  let w := VTy.width t
  let F := (VTy.fmt t).getD fmtF32
  assemble w mask gp old fun e =>
    let r := fDiv F mode (rnd24 dr e) (F.decode (velt w a.bits e)) (F.decode (velt w b.bits e))
    ⟨r.bits, vpois w a e || vpois w b e, r.fl⟩

/-- VXF (R223). -/
def vXf (t : VTy) (fn : Fun) (mode : RMode) (dr : List Word) (mask : Word) (gp : Bool) (old a : VVal) : VOut :=
  let w := VTy.width t
  let F := (VTy.fmt t).getD fmtF32
  assemble w mask gp old fun e =>
    let r := fXf F fn mode (rnd24 dr e) (velt w a.bits e)
    ⟨r.bits, vpois w a e, r.fl⟩

/-- One element of VCVT (R224); x is `.inf` for a float destination, `.sat` between integers. -/
def eCvt (dt st : VTy) (mode : RMode) (rnd : Nat) (x : Bool) (a : Nat) : Nat × Flags :=
  match VTy.fmt dt, VTy.fmt st with
  | some D, some S =>
    let r := fToF D mode (if x || D.holds S then .arith else .saturate) rnd (S.decode a); (r.bits, r.fl)
  | some D, none =>
    let r := iToF D mode (if x then .arith else .saturate) rnd (codeInt (VTy.signed st) (VTy.width st) a); (r.bits, r.fl)
  | none, some S => let r := fToI (VTy.signed dt) (VTy.width dt) mode rnd (S.decode a); (r.bits, r.fl)
  | none, none =>
    let z := codeInt (VTy.signed st) (VTy.width st) a
    if x then
      let (q, cl) := clampInt (VTy.signed dt) (VTy.width dt) z
      (intCode (VTy.width dt) q, if cl then flSAT else 0)
    else (intCode (VTy.width dt) z, 0)

def vCvt (dt st : VTy) (mode : RMode) (dr : List Word) (x : Bool) (mask : Word) (gp : Bool) (old a : VVal) : VOut :=
  let w := VTy.width dt
  assemble w mask gp old fun e =>
    let r := eCvt dt st mode (rnd24 dr e) x (velt w a.bits e)
    ⟨r.1, vpois w a e, r.2⟩

/-- VAND, VOR, VXOR: f bitwise on each element (R225). -/
def vBit (t : VTy) (f : Nat → Nat → Nat) (mask : Word) (gp : Bool) (old a b : VVal) : VOut :=
  let w := VTy.width t
  assemble w mask gp old fun e => ⟨f (velt w a.bits e) (velt w b.bits e), vpois w a e || vpois w b e, 0⟩

/-- VSHL (R225). -/
def vShl (t : VTy) (sat : Bool) (mask : Word) (gp : Bool) (old a b : VVal) : VOut :=
  let w := VTy.width t
  assemble w mask gp old fun e =>
    let z := codeInt (VTy.signed t) w (velt w a.bits e) * (2 ^ (velt w b.bits e % w) : Nat)
    let (q, cl) := clampInt (VTy.signed t) w z
    ⟨if sat then intCode w q else intCode w z, vpois w a e || vpois w b e, if sat && cl then flSAT else 0⟩

/-- VSHR (R225). -/
def vShr (t : VTy) (mask : Word) (gp : Bool) (old a b : VVal) : VOut :=
  let w := VTy.width t
  assemble w mask gp old fun e =>
    ⟨intCode w (codeInt (VTy.signed t) w (velt w a.bits e) / (2 ^ (velt w b.bits e % w) : Nat)),
      vpois w a e || vpois w b e, 0⟩

/-- VMULH (R225). -/
def vMulh (t : VTy) (mask : Word) (gp : Bool) (old a b : VVal) : VOut :=
  let w := VTy.width t
  let s := VTy.signed t
  assemble w mask gp old fun e =>
    ⟨intCode w (codeInt s w (velt w a.bits e) * codeInt s w (velt w b.bits e) / (2 ^ w : Nat)),
      vpois w a e || vpois w b e, 0⟩

/-- The float case of VDOT (R226): D + exact(p0 + p1) rounded once to F32; NaN with NV where any input is NaN. -/
def eDotF (S : FFmt) (mode : RMode) (rnd : Nat) (na nb : Bool) (d a0 a1 b0 b1 : Nat) : Nat × Flags :=
  let D := fmtF32.decode d
  let x0 := negIf na (S.decode a0)
  let x1 := negIf na (S.decode a1)
  let y0 := negIf nb (S.decode b0)
  let y1 := negIf nb (S.decode b1)
  let bad := nanRes fmtF32 true
  let r : FRes :=
    if D.isNaN || x0.isNaN || x1.isNaN || y0.isNaN || y1.isNaN then bad
    else match prodVal x0 y0, prodVal x1 y1 with
      | some p, some q =>
        match D, p, q with
        | .fin nd md xd, .fin np mp xp, .fin nq mq xq =>
          let m0 := min xd (min xp xq)
          let z := signedAt nd md xd m0 + signedAt np mp xp m0 + signedAt nq mq xq m0
          if z = 0 then ⟨fmtF32.sign (nd && np && nq && md = 0 && mp = 0 && mq = 0), 0⟩
          else roundDy fmtF32 mode .arith (decide (z < 0)) z.natAbs m0 rnd
        | u, v, s =>
          let infs := [u, v, s].filter fun i => match i with | .inf _ => true | _ => false
          if infs.any (·.isNeg) && infs.any (fun i => !i.isNeg) then bad
          else infRes fmtF32 (infs.any (·.isNeg))
      | _, _ => bad
  (r.bits, r.fl)

def vDot (t : VTy) (mode : RMode) (dr : List Word) (na nb sat : Bool) (mask : Word) (gp : Bool) (old a b : VVal) : VOut :=
  assemble 32 mask gp old fun e =>
    let a0 := velt 16 a.bits (2 * e)
    let a1 := velt 16 a.bits (2 * e + 1)
    let b0 := velt 16 b.bits (2 * e)
    let b1 := velt 16 b.bits (2 * e + 1)
    let d := velt 32 old.bits e
    let p := vpois 32 old e || vpois 32 a e || vpois 32 b e
    match VTy.fmt t with
    | some S => let r := eDotF S mode (rnd24 dr e) na nb d a0 a1 b0 b1; ⟨r.1, p, r.2⟩
    | none =>
      let s := VTy.signed t
      let ng (n : Bool) (z : Int) : Int := if n then -z else z
      let z := codeInt s 32 d + ng na (codeInt s 16 a0) * ng nb (codeInt s 16 b0)
        + ng na (codeInt s 16 a1) * ng nb (codeInt s 16 b1)
      let (q, cl) := clampInt s 32 z
      ⟨if sat then intCode 32 q else intCode 32 z, p, if sat && cl then flSAT else 0⟩

/-- VSEL: A where the select bit is 1, else B (R227). -/
def vSel (t : VTy) (sel : Word) (selP : Bool) (mask : Word) (gp : Bool) (old a b : VVal) : VOut :=
  let w := VTy.width t
  assemble w mask gp old fun e =>
    if govBit w sel e then ⟨velt w a.bits e, vpois w a e || selP, 0⟩ else ⟨velt w b.bits e, vpois w b e || selP, 0⟩

/-- VCMP: the condition bits, the bits that are governed and written, the poison of governed sources, the flags (R214). -/
def vCmpBits (t : VTy) (c : Cond) (mask : Word) (a b : VVal) : Word × Bool × Flags :=
  let w := VTy.width t
  let step := if w = 8 then 2 else 1
  let n := if w = 32 then 32 else 64
  let rs := (List.range n).map fun j =>
    let e := j * step
    if govBit w mask e then
      let r : Bool × Flags := match VTy.fmt t with
        | some F => fCond c (F.decode (velt w a.bits e)) (F.decode (velt w b.bits e))
        | none => (iCond c (codeInt (VTy.signed t) w (velt w a.bits e)) (codeInt (VTy.signed t) w (velt w b.bits e)), 0)
      let p := vpois w a e || vpois w b e
      (r.1, p, if p then (0 : Flags) else r.2)
    else (false, false, 0)
  (BitVec.ofNat 64 (packElems 1 (rs.map fun x => if x.1 then 1 else 0)), rs.any (·.2.1), rs.foldl (fun f x => f ||| x.2.2) 0)

/-- VMOV, and every 32-bit lane move: lane e from f (R254). -/
def vLanes (w : Nat) (mask : Word) (gp : Bool) (old : VVal) (f : Nat → Nat × Bool) : VOut :=
  assemble w mask gp old fun e => let r := f e; ⟨r.1, r.2, 0⟩

/-- VPERM (R254). -/
def vPerm (t : VTy) (mask : Word) (gp : Bool) (old a b : VVal) : VOut :=
  let w := VTy.width t
  vLanes w mask gp old fun e =>
    let i := velt w b.bits e % (1024 / w)
    (velt w a.bits i, vpois w a i || vpois w b e)

/-- VSLIDE (R254). -/
def vSlide (t : VTy) (n : Int) (mask : Word) (gp : Bool) (old a : VVal) : VOut :=
  let w := VTy.width t
  vLanes w mask gp old fun e =>
    let i : Int := e + n
    if i < 0 ∨ i ≥ (1024 / w : Nat) then (0, false) else (velt w a.bits i.toNat, vpois w a i.toNat)

/-- The identity of a fold (R148), as a code of the element type. -/
def foldId (t : VTy) (op : FoldOp) : Nat :=
  match VTy.fmt t with
  | some F => match op with
    | .add => F.sign true
    | .min => F.inf.getD 0
    | .max => F.sign true + F.inf.getD 0
  | none =>
    let w := VTy.width t
    match op with
    | .add => 0
    | .min => intCode w (intMax (VTy.signed t) w)
    | .max => intCode w (intMin (VTy.signed t) w)

/-- Widen a float code exactly to F32 (R135); a NaN becomes the canonical NaN, a signalling one sets NV. -/
def toF32 (F : FFmt) (code : Nat) : FRes :=
  if F = fmtF32 then ⟨code % 2 ^ 32, 0⟩ else fToF fmtF32 .rne .arith 0 (F.decode code)

/-- One combination of a float fold in format R. -/
def foldF (R : FFmt) (op : FoldOp) (mode : RMode) (rnd : Nat) (a b : Nat) : FRes :=
  match op with
  | .add => fAdd R mode rnd (R.decode a) (R.decode b)
  | .min => fMinMax R false a b
  | .max => fMinMax R true a b

/-- One level of the VFOLD tree (R148): element i with element i + h, draws in order; a combination of a poisoned element
sets no flag (R153). -/
def foldLevel (f : Nat → Nat → Nat → Nat × Flags) (xs : List (Nat × Bool)) (h d : Nat) : List (Nat × Bool) × Flags :=
  let rs : List Elem := (List.range h).map fun i =>
    let x := xs.getD i (0, false)
    let y := xs.getD (i + h) (0, false)
    let r := f (d + i) x.1 y.1
    let p := x.2 || y.2
    ⟨r.1, p, if p then 0 else r.2⟩
  (rs.map (fun r => (r.bits, r.p)), rs.foldl (fun (a : Flags) (r : Elem) => a ||| r.fl) 0)

/-- The tree of R148 from 2^k elements; d counts the combinations done. -/
def foldTree (f : Nat → Nat → Nat → Nat × Flags) : Nat → List (Nat × Bool) → Nat → Flags → (Nat × Bool) × Flags
  | 0, xs, _, fl => (xs.getD 0 (0, false), fl)
  | k + 1, xs, d, fl =>
    let h := 2 ^ k
    let r := foldLevel f xs h d
    foldTree f k r.1 (d + h) (fl ||| r.2)

/-- VFOLD (R255): the scalar result, its poison and its flags. -/
def vFold (t : VTy) (op : FoldOp) (mode : RMode) (dr : List Word) (mask : Word) (a : VVal) : SVal × Flags :=
  let w := VTy.width t
  let n := 1024 / w
  let lg := Nat.log2 n
  match VTy.fmt t with
  | some F =>
    let xs : List Elem := (List.range n).map fun e =>
      if govBit w mask e then
        let p := vpois w a e
        let r := toF32 F (velt w a.bits e)
        ⟨r.bits, p, if p then 0 else r.fl⟩
      else ⟨foldId .f32 op, false, 0⟩
    let fl0 := xs.foldl (fun (f : Flags) (x : Elem) => f ||| x.fl) 0
    let r := foldTree (fun d x y => let q := foldF fmtF32 op mode (rnd24 dr d) x y; (q.bits, q.fl)) lg
      (xs.map fun x => (x.bits, x.p)) 0 fl0
    (⟨BitVec.ofNat 64 r.1.1, r.1.2⟩, r.2)
  | none =>
    let s := VTy.signed t
    let wide (c : Nat) : Nat := intCode 64 (codeInt s w c)
    let xs := (List.range n).map fun e =>
      if govBit w mask e then (wide (velt w a.bits e), vpois w a e) else (wide (foldId t op), false)
    let r := foldTree (fun _ x y =>
      match op with
      | .add => ((x + y) % 2 ^ 64, 0)
      | .min => (if codeInt s 64 x < codeInt s 64 y then x else y, 0)
      | .max => (if codeInt s 64 y < codeInt s 64 x then x else y, 0)) lg xs 0 0
    (⟨BitVec.ofNat 64 r.1.1, r.1.2⟩, 0)

/-- The running values of VSCAN (R148, R255): the value, its poison, its flags, element by element. -/
def scanGo (f : Nat → Nat → Nat → Nat × Flags) : List (Nat × Bool) → Nat → Nat → Bool → List Elem
  | [], _, _, _ => []
  | (x, p) :: xs, i, acc, ap =>
    let r := f i acc x
    ⟨r.1, ap || p, r.2⟩ :: scanGo f xs (i + 1) r.1 (ap || p)

/-- VSCAN (R255). The first output is in(0) itself; draw i − 1 serves element i. -/
def vScan (t : VTy) (op : FoldOp) (mode : RMode) (dr : List Word) (mask : Word) (gp : Bool) (old a : VVal) : VOut :=
  let w := VTy.width t
  let ins := (List.range (1024 / w)).map fun e =>
    if govBit w mask e then (velt w a.bits e, vpois w a e) else (foldId t op, false)
  let f (i acc x : Nat) : Nat × Flags :=
    match VTy.fmt t with
    | some F => let q := foldF F op mode (rnd24 dr (i - 1)) acc x; (q.bits, q.fl)
    | none => match op with
      | .add => ((acc + x) % 2 ^ w, 0)
      | .min => eMinMax t false acc x
      | .max => eMinMax t true acc x
  let outs := match ins with
    | [] => []
    | (x, p) :: xs => (⟨x, p, 0⟩ : Elem) :: scanGo f xs 1 x p
  assemble w mask gp old fun e => outs.getD e ⟨0, false, 0⟩

/-- Formats of packed codes (R256). -/
def PackTy.fmt : PackTy → Option FFmt
  | .f16 => some fmtF16 | .bf16 => some fmtBF16 | .e4m3 => some fmtE4M3 | .e5m2 => some fmtE5M2 | .e2m1 => some fmtE2M1
  | _ => none
def PackTy.width : PackTy → Nat
  | .f16 => 16 | .bf16 => 16 | .e4m3 => 8 | .e5m2 => 8 | .e2m1 => 4 | .t8 => 8 | .i8 => 8 | .i16 => 16

/-- An F19 value widened exactly to F32 (R135, R144); a NaN becomes the canonical NaN of F32 (R134). -/
def f19ToF32 (v : BitVec 19) : Nat := (toF32 fmtF19 v.toNat).bits
def tval (tab : List TEntry) (c : Nat) : FVal := fmtF19.decode ((tab.getD c ⟨0, false⟩).v.toNat)
def tpoi (tab : List TEntry) (c : Nat) : Bool := (tab.getD c ⟨0, false⟩).p

/-- LE of R145: false when either is NaN. -/
def fLe (a b : FVal) : Bool := !a.isNaN && !b.isNaN && fCmp a b != .gt
def fLt (a b : FVal) : Bool := !a.isNaN && !b.isNaN && fCmp a b == .lt

/-- The binary probe of TEnc (R145): the code and the poison of the entries read. -/
def probeGo (tab : List TEntry) (x : FVal) : Nat → Nat → Bool → Nat × Bool
  | 0, c, p => (c, p)
  | b + 1, c, p =>
    let m := c + 2 ^ b
    probeGo tab x b (if fLe (tval tab m) x then m else c) (p || tpoi tab m)

/-- |a − b| as a dyadic, none where it is infinite; two equal infinities are at distance 0. -/
def fDist (a b : FVal) : Option (Nat × Int) :=
  match a, b with
  | .inf n, .inf n' => if n = n' then some (0, 0) else none
  | .fin n1 m1 x1, .fin n2 m2 x2 =>
    let x0 := min x1 x2
    some ((signedAt n1 m1 x1 x0 - signedAt n2 m2 x2 x0).natAbs, x0)
  | _, _ => none
def distCmp (a b : Option (Nat × Int)) : Ordering :=
  match a, b with
  | none, none => .eq
  | none, some _ => .gt
  | some _, none => .lt
  | some (m1, x1), some (m2, x2) =>
    let x0 := min x1 x2
    compare (m1 * 2 ^ (x1 - x0).toNat) (m2 * 2 ^ (x2 - x0).toNat)

/-- TEnc (R145): the code, the poison of the entries read, the flags. A NaN sets NV and not NX: DESIGN CHOICE (log 71). -/
def tEnc (tab : List TEntry) (xc : Nat) : Elem :=
  let x := fmtF32.decode xc
  if x.isNaN then ⟨0xFF, false, flNV⟩
  else
    let done (c : Nat) (p : Bool) (fl : Flags) : Elem :=
      let v := tval tab c
      let same := !v.isNaN && fCmp v x == .eq
      ⟨c, p, fl ||| (if same then 0 else flNX)⟩
    let p0 := tpoi tab 0
    if !fLe (tval tab 0) x then done 0 p0 (if fLt x (tval tab 0) then flSAT else 0)
    else
      let (c, p) := probeGo tab x 8 0 p0
      if c = 255 then done 255 p (if fLt (tval tab 255) x then flSAT else 0)
      else
        let p1 := p || tpoi tab (c + 1)
        if !fLt x (tval tab (c + 1)) then done c p1 0
        else match distCmp (fDist x (tval tab c)) (fDist (tval tab (c + 1)) x) with
          | .gt => done (c + 1) p1 0
          | .lt => done c p1 0
          | .eq => done (if c % 2 = 0 then c else c + 1) p1 0

/-- The MX scale of governed F32 lanes (R143): the scale, and whether the block is NaN. -/
def mxScale (emax : Int) (xs : List FVal) : Nat × Bool :=
  if xs.any (fun x => match x with | .fin _ _ _ => false | _ => true) then (0xFF, true)
  else
    let logs := xs.filterMap fun x => match x with
      | .fin _ m e => if m = 0 then none else some ((Nat.log2 m : Int) + e) | _ => none
    match logs with
    | [] => (0, false)
    | l :: ls =>
      let top := ls.foldl max l
      ((max (-127) (min 127 (top - emax)) + 127).toNat, false)

/-- A value times 2^k, exactly. -/
def scaleVal (k : Int) : FVal → FVal
  | .fin n m x => .fin n m (x + k)
  | v => v

/-- VPACK: the packed vector, the MX scale with its poison, the flags (R256). -/
def vPack (dt : PackTy) (mode : RMode) (dr : List Word) (narrow : Bool) (tab : List TEntry)
    (mask : Word) (gp : Bool) (a : VVal) : VVal × SVal × Flags :=
  let w := PackTy.width dt
  let gov (e : Nat) : Bool := govBit 32 mask e
  let lane (e : Nat) : Nat := velt 32 a.bits e
  let src (e : Nat) : FVal := fmtF32.decode (lane e)
  let ctx : OvCtx := if narrow then .arith else .saturate
  let scaleAndNaN := mxScale 2 (((List.range 32).filter gov).map src)
  let s := scaleAndNaN.1
  let el (e : Nat) : Elem :=
    -- an ungoverned lane encodes +0, which under T8 is whatever code TEnc gives it
    if !gov e then (if dt = .t8 then let q := tEnc tab 0; ⟨q.bits, q.p || gp, 0⟩ else ⟨0, gp, 0⟩)
    else
      let p := vpois 32 a e || gp
      let r : Nat × Bool × Flags := match dt with
        | .t8 => let q := tEnc tab (lane e); (q.bits, q.p, q.fl)
        | .i8 => let z := codeInt true 32 (lane e)
                 let (q, cl) := clampInt true 8 z
                 (intCode 8 (if narrow then q else z), false, if narrow && cl then flSAT else 0)
        | .i16 => let z := codeInt true 32 (lane e)
                  let (q, cl) := clampInt true 16 z
                  (intCode 16 (if narrow then q else z), false, if narrow && cl then flSAT else 0)
        | .e2m1 =>
          if scaleAndNaN.2 then (0, false, 0)
          else let q := fToF fmtE2M1 mode ctx (rnd24 dr e) (scaleVal (127 - (s : Int)) (src e)); (q.bits, false, q.fl)
        | _ => let F := (PackTy.fmt dt).getD fmtF16
               let q := fToF F mode ctx (rnd24 dr e) (src e); (q.bits, false, q.fl)
      let pp := p || r.2.1
      ⟨r.1, pp, if pp then 0 else r.2.2⟩
  let es := (List.range 32).map el
  let lanes : BitVec 32 := BitVec.ofNat 32 (packElems 1 ((List.range 32).map fun l =>
    if ((List.range 32).any fun e => decide (w * e / 32 = l) && (es.getD e ⟨0, false, 0⟩).p) then 1 else 0))
  let sp := gp || (List.range 32).any fun e => gov e && vpois 32 a e
  -- a block made NaN by an unpoisoned element sets NV (R140, R143, R153)
  let blockNV := decide (dt = .e2m1) && !gp && (List.range 32).any fun e => gov e && !vpois 32 a e &&
    (match src e with | .fin _ _ _ => false | _ => true)
  let fl := es.foldl (fun (f : Flags) (x : Elem) => f ||| x.fl) 0
  (⟨BitVec.ofNat 1024 (packElems w (es.map (·.bits))), if gp then BitVec.allOnes 32 else lanes⟩,
    ⟨BitVec.ofNat 64 s, sp⟩, fl ||| (if blockNV then flNV else 0))

/-- VUNPK: lane e of the widened vector (R257). -/
def unpkLane (st : PackTy) (zx : Bool) (tab : List TEntry) (a : VVal) (e : Nat) : Nat × Bool :=
  let w := PackTy.width st
  let c := velt w a.bits e
  let p := a.poison.getLsbD (w * e / 32)
  match st with
  | .t8 => (f19ToF32 ((tab.getD c ⟨0, false⟩).v), p || tpoi tab c)
  | .i8 => (intCode 32 (codeInt (!zx) 8 c), p)
  | .i16 => (intCode 32 (codeInt (!zx) 16 c), p)
  | _ => ((toF32 ((PackTy.fmt st).getD fmtF16) c).bits, p)

/-- VMXS (R258). -/
def vMxs (mode : RMode) (dr : List Word) (inf : Bool) (scale : Nat) (scaleP : Bool)
    (mask : Word) (gp : Bool) (old a : VVal) : VOut :=
  assemble 32 mask gp old fun e =>
    let r : FRes := if scale = 255 then nanRes fmtF32 true
      else fToF fmtF32 mode (if inf then .arith else .saturate) (rnd24 dr e)
        (scaleVal ((scale : Int) - 127) (fmtF32.decode (velt 32 a.bits e)))
    ⟨r.bits, vpois 32 a e || scaleP, r.fl⟩

/-- Window formats (R154). -/
inductive WFmt where
  | f32 | f16 | bf16 | e4m3 | e5m2 | e2m1 | t8 | i8 | i16 | i32
deriving DecidableEq, Repr
def WFmt.ofCode (c : BitVec 4) : Option WFmt :=
  match c.toNat with
  | 0 => some .f32 | 1 => some .f16 | 2 => some .bf16 | 3 => some .e4m3 | 4 => some .e5m2 | 5 => some .e2m1
  | 6 => some .t8 | 7 => some .i8 | 8 => some .i16 | 9 => some .i32 | _ => none
/-- Element bits and tile bytes of a window format (R154). -/
def WFmt.bitsOf : WFmt → Nat
  | .f32 => 32 | .f16 => 16 | .bf16 => 16 | .e4m3 => 8 | .e5m2 => 8 | .e2m1 => 4 | .t8 => 8 | .i8 => 8 | .i16 => 16 | .i32 => 32
def WFmt.tileBytes : WFmt → Nat
  | .f32 => 4096 | .f16 => 2048 | .bf16 => 2048 | .e4m3 => 1024 | .e5m2 => 1024 | .e2m1 => 544 | .t8 => 1024
  | .i8 => 1024 | .i16 => 2048 | .i32 => 4096
def WFmt.ffmt : WFmt → Option FFmt
  | .f32 => some fmtF32 | .f16 => some fmtF16 | .bf16 => some fmtBF16 | .e4m3 => some fmtE4M3 | .e5m2 => some fmtE5M2
  | .e2m1 => some fmtE2M1 | _ => none

/-- How a vector access through the local reach moves its data (R155). -/
inductive Pairing where
  | raw | widen (f : WFmt) | illegal
deriving DecidableEq, Repr

/-- R154's last column and R155: the pairing of a type with a window format, for a load or a store. -/
def pairing (t : VTy) (w : Option WFmt) (store : Bool) : Pairing :=
  match w with
  | none => .illegal
  | some f =>
    -- an E2M1 or T8 window refuses every store (R234); its element is never a vector type's own, but T8's 8 bits are I8's
    if store && (decide (f = .e2m1) || decide (f = .t8)) then .illegal
    else if f ≠ .e2m1 ∧ VTy.width t = f.bitsOf then .raw
    else match f, t with
      | .f16, .f32 => .widen f | .bf16, .f32 => .widen f | .e4m3, .f32 => .widen f | .e5m2, .f32 => .widen f
      | .e2m1, .f32 => .widen f | .t8, .f32 => .widen f
      | .i8, .i32 => .widen f | .i8, .n32 => .widen f | .i16, .i32 => .widen f | .i16, .n32 => .widen f
      | _, _ => .illegal

/-- A window element widened to 32 bits (R155). -/
def widenElem (f : WFmt) (t : VTy) (tab : List TEntry) (c : Nat) : Nat × Bool :=
  match f with
  | .t8 => (f19ToF32 ((tab.getD c ⟨0, false⟩).v), tpoi tab c)
  | .i8 => (intCode 32 (codeInt (VTy.signed t) 8 c), false)
  | .i16 => (intCode 32 (codeInt (VTy.signed t) 16 c), false)
  | _ => ((toF32 (f.ffmt.getD fmtF32) c).bits, false)

/-- A lane narrowed to a window element (R155): `.inf` or `.sat` by x. -/
def narrowElem (f : WFmt) (t : VTy) (mode : RMode) (rnd : Nat) (x : Bool) (c : Nat) : Nat × Flags :=
  match f.ffmt with
  | some F => let r := fToF F mode (if x then .arith else .saturate) rnd (fmtF32.decode c); (r.bits, r.fl)
  | none =>
    let w := f.bitsOf
    let z := codeInt (VTy.signed t) 32 c
    if x then
      -- the range is the window format's own, I8 or I16 (R130, R131; log 19)
      let (q, cl) := clampInt true w z
      (intCode w q, if cl then flSAT else 0)
    else (intCode w z, 0)

/-- One element of VRED or a floating ATOM at its home (R149, R241): no flag. -/
def redElem (op : FoldOp) (t : VTy) (m v : Nat) : Nat :=
  match VTy.fmt t with
  | some F => (foldF F op .rne 0 m v).bits
  | none => match op with
    | .add => (m + v) % 2 ^ VTy.width t
    | .min => (eMinMax t false m v).1
    | .max => (eMinMax t true m v).1

end Sys2Proof.Machine
end

