-- ==== Sys2Proof/Machine/State.lean ====
section
/-! DEFINITION. Everything the spec gives the machine, as plain data: one core with its sixteen slots, its cluster's shared
units, its partition's launch port and journal, the package (log 1), and the steps and messages on their way. -/
namespace Sys2Proof.Machine

/-- Why a run stops with a fault. -/
inductive Fault where
  /-- raised by an event that names an address no memory answers (R358): a host or link step outside every memory; safe -/
  | noMemory
deriving DecidableEq, Repr

/-- Why a run is refused. -/
inductive Refusal where
  /-- raised by Dispatch for an instruction without a meaning; safe -/
  | notModelled (mnemonic : String)
deriving DecidableEq, Repr

/-- A scalar register or window entry: value, poison, far bit, writer sequence number, symbolic tag (R34, R36, R48, R291). -/
structure SCell where
  val  : Word
  p    : Bool
  far  : Bool
  wseq : BitVec 8
  tag  : Tag
deriving DecidableEq, Repr

/-- A predicate register (R53, R49). -/
structure QCell where
  m    : Word
  p    : Bool
  far  : Bool
  wseq : BitVec 8
deriving DecidableEq, Repr

/-- WINDOW (R64), the return PC that a pending frame owes its record (R61), and the sizes of the enclosing frames, innermost
first, which RET restores and which no record word holds (R166; log 20). -/
structure Window where
  base    : BitVec 6
  size    : BitVec 5
  pend    : Bool
  depth   : BitVec 12
  spilled : BitVec 32
  retpc   : Word
  sizes   : List (BitVec 5)
deriving DecidableEq, Repr

/-- The planed registers of a thread (R59, R60) and its window position. -/
structure RegFile where
  g       : Bank SCell 8
  w       : Bank SCell 64
  q       : Bank QCell 8
  k       : Bank (BitVec 16) 4
  /-- writers of the reach registers (R34) -/
  kw      : Bank (BitVec 8) 4
  seed    : Word
  fpctl   : BitVec 8
  fpflags : BitVec 6
  win     : Window
deriving DecidableEq, Repr

/-- A vector register of the pool, with its writer's sequence number (R10, R34, R50). -/
structure VReg where
  v    : VVal
  wseq : BitVec 8
deriving DecidableEq, Repr

/-- What a far value is when it arrives (R36, R44). -/
inductive FarVal where
  | scalar (x : SVal) (tag : Tag)
  | vec (x : VVal)
  | discard
deriving DecidableEq, Repr

/-- The destination stamped on a far-table entry (R36): the scalar or vector that its packet names, at the packet's issue. A scalar's
value goes to the cell whose far bit is set and whose writer is the entry's packet, wherever the window has since moved. -/
inductive FarDest where
  | none
  | scalar (r : SReg)
  | vec (v : VNum)
deriving DecidableEq, Repr
def FarDest.vec? : FarDest → Option VNum
  | .vec v => some v | _ => Option.none

/-- A far-table entry (R36): its owner's sequence number and incarnation, its destination, the value once the siding has it,
flags that travel with it (R198), and whether it is a token (R183, R247). -/
structure FarEntry where
  seq   : BitVec 8
  inc   : BitVec 4
  dest  : FarDest
  value : Option FarVal
  fl    : Flags
  token : Bool
  /-- the number of the chunk its packet belongs to (R37, R291) -/
  chunk : Nat
  /-- has its packet's seal entry been applied (R36)? -/
  sealed : Bool
  /-- can its packet set FPFLAGS (R199)? -/
  fp    : Bool
deriving DecidableEq, Repr

/-- A seal entry on its way down the seal lane (R24, R25, R34, R36): the packet it seals, the packet's chunk, and the sealed
plane as it stands until the entry is applied. -/
structure Seal where
  seq    : BitVec 8
  chunk  : Nat
  before : RegFile
  /-- is it a near vector packet (R39)? -/
  vector : Bool
  /-- a VST that narrows: its flags are recorded with this entry (R199) -/
  narrow : Bool
deriving DecidableEq, Repr

/-- An entry of the staging buffer (R38): a near vector result that waits for its seal entry. -/
structure Staged where
  reg   : VNum
  x     : VReg
  chunk : Nat
deriving DecidableEq, Repr

/-- A held store of a chunk (R230), with its symbolic data where it is repairable (R294). -/
structure Held where
  addr : Nat
  data : List Byte
  p    : Bool
  sym  : Tag
deriving DecidableEq, Repr

/-- A line a chunk has read, with where it was translated (R288, R289). -/
structure ReadRec where
  line  : Nat
  space : BitVec 16
  va    : Nat
  /-- does some load of the line make no input (R295)? -/
  plain : Bool
deriving DecidableEq, Repr

/-- A symbolic input (R292). -/
structure Input where
  addr   : Nat
  ty     : IType
  opaque_ : Bool
  val    : Word
deriving DecidableEq, Repr

/-- A constraint (R294): input, offset, condition, unsigned, operand, whether the operand stood on the left, outcome. -/
structure Constr where
  inp  : Nat
  off  : Word
  cd   : Cond
  un   : Bool
  k    : Word
  left : Bool
  out  : Bool
deriving DecidableEq, Repr

/-- Updates of CHECK that wait for the chunk's commit, in order (R64, R180). -/
inductive CheckUpd where
  | loaded | stored | matrix | clear (mask : BitVec 32)
deriving DecidableEq, Repr

/-- A matrix command (R269): its operands are resolved when its packet retires. -/
inductive MOp where
  | mma (t : TileN) (a b : RingN) (count done : Nat)
  | mzero (t : TileN)
  | mfill (t : TileN) (base : WordRef)
  | mdrain (t : TileN) (base : WordRef) (tok : FarRef)
deriving DecidableEq, Repr
/-- Whose CHECK a command updates: the thread in a slot, a saved thread, the launch once the thread has ended (R64). -/
inductive MOwner where
  | slot (i : SlotN)
  | image (id : Nat)
  | gone
deriving DecidableEq, Repr
structure MCmd where
  op    : MOp
  slot  : SlotN
  owner : MOwner
  /-- the head and tail words that the core frame shows (R335) -/
  head  : BitVec 16
  tail  : BitVec 32
  /-- has it been counted as poisoned (R64)? -/
  noted : Bool
  /-- the PC of its packet (R400) -/
  pc    : Word
  /-- the chunk whose commit makes it eligible (R269) -/
  wait  : Option Nat
deriving DecidableEq, Repr

/-- What a singleton of a ring does at its commit (R264): the element it pushes, or the register its pop is owed to, with the
mask and the old value of a vector's ungoverned lanes. -/
inductive ChunkAct where
  | push (ring : RingN) (ws : List (List Byte × Bool))
  | pop (ring : RingN) (ref : FarRef) (vec : Option (Word × VVal))
deriving DecidableEq, Repr

/-- What packets whose guards turned out false count toward the limits of R288. -/
structure Ghost where
  read   : List Nat
  held   : List Nat
  inputs : Nat
  cons   : Nat
deriving DecidableEq, Repr

/-- A chunk of a thread (R288 to R297). -/
structure Chunk where
  /-- the thread's chunks in the order they were started -/
  no     : Nat
  pc     : Word
  ckpt   : RegFile
  from_  : Word
  vsave  : List (VNum × VReg)
  /-- the vector registers its packets write (R288) -/
  vregs  : List VNum
  npkts  : Nat
  reads  : List ReadRec
  stores : List Held
  confl  : List Nat
  inputs : List Input
  cons   : List Constr
  check  : List CheckUpd
  /-- stream elements consumed (`.pop`, `.rd`), newest first: binding and element -/
  taken  : List (Fin 4 × VVal × Bool × Bool)
  /-- stream elements appended (`.push`), oldest first: binding, element, END mark -/
  pushed : List (Fin 4 × VVal × Bool)
  /-- stream positions at the chunk's start (R268) -/
  pos0   : List Nat
  /-- addresses its stores translated, with their space (R287, R289) -/
  trans  : List (BitVec 16 × Nat)
  /-- window formats that leave at its commit (R65) -/
  wfmts  : List (Fin 8 × BitVec 4)
  /-- what the singleton that forms the chunk does at its commit -/
  act    : Option ChunkAct
  ghost  : Ghost
deriving DecidableEq, Repr

/-- The region state of a thread (R300). -/
structure Region where
  isOpen   : Bool
  fallback : Word
  next     : Word
  n        : Nat
  last     : Nat
deriving DecidableEq, Repr

/-- A bound stream (R57, R266, R268): what it is bound to, its position, its prefetched elements (value, END, ENG). -/
inductive BindKind where
  | unbound
  | pop (ring : RingN)
  | push (ring : RingN)
  | rd (reach : BitVec 16) (base : Word)
  | wr (reach : BitVec 16) (base : Word)
deriving DecidableEq, Repr
structure Binding where
  kind   : BindKind
  /-- the descriptor's offset and reach, none for an unbounded stream -/
  desc   : Option (Word × BitVec 16)
  counts : List Nat
  steps  : List Int
  /-- elements taken or appended so far -/
  pos    : Nat
  /-- elements fetched ahead, oldest first; a failed fetch carries its cause, offset -/
  buf    : List (VVal × Bool × Bool × Option (BitVec 8 × Word))
deriving DecidableEq, Repr

/-- A synchronising singleton that waits at its word's home (R237). -/
structure SyncWait where
  op   : HomeOp
  ref  : Option FarRef
  n    : Nat
  pc   : Word
  /-- the chunk it forms, with its checkpoint and what it took from streams -/
  chunk : Chunk
  /-- has its request left for another package's home (R285)? -/
  asked : Bool
  /-- the run of bedroll frames reserved for the thread while its last try is at the home: first frame, length (R81, R237) -/
  run   : Option (Nat × Nat)
deriving DecidableEq, Repr

/-- A fault: cause, TRAPINFO, TRAPAUX (R318). -/
structure TrapInfo where
  cause : BitVec 8
  info  : Word
  aux   : Word
deriving DecidableEq, Repr

/-- What kind of thread a slot runs (R66, R68, R69, R407). -/
inductive TKind where
  | index
  | task (join : WordRef)
  | settled
  | guest (entry : Nat) (reply : Bool)
  | ranger
deriving DecidableEq, Repr

/-- A thread. -/
structure Thread where
  kind   : TKind
  pc     : Word
  from_  : Word
  space  : BitVec 16
  creach : BitVec 16
  regs   : RegFile
  inc    : BitVec 4
  seq    : BitVec 8
  far    : List FarEntry
  camp   : Bool
  park   : Option Park
  /-- YIELD: the slots that are still to have an opportunity, and how many opportunities are left (R170) -/
  yield  : Option (BitVec 16 × Nat)
  check  : BitVec 32
  region : BitVec 12
  reg    : Region
  squash : Nat
  solo   : Bool
  cur    : Chunk
  ended  : List Chunk
  sync   : Option SyncWait
  binds  : Bank Binding 4
  /-- stores on their way to other packages and to host memory, oldest first (R283, R286); sent ones await completion -/
  pend   : List OutStore
  sent   : List OutStore
  spill  : Option (Fin 32)
  /-- a fault found after its packet was accepted, not yet taken at the crown (R93, R167, R178, R200) -/
  late   : Option (TrapInfo × Word)
  /-- a translation of this address found no range; the packet's next issue raises No Range (R366) -/
  miss   : Option Nat
  /-- has it retired a matrix command since it started (R377)? -/
  mtx    : Bool
  /-- the CORE value its hiker came from (R323) -/
  origin : CoreId
  /-- did it arrive at its BARG generation (R94)? -/
  barg   : Bool
  /-- far-table entries whose values have arrived and whose seal entries have not been applied (R36) -/
  landed : List FarEntry
  /-- seal entries on their way, oldest first: the packets in flight (R24) -/
  flight : List Seal
  /-- the staging buffer, oldest first (R38) -/
  staged : List Staged
  /-- the packet that retires only when its value has returned, with the heads of its line (R28, R167, R200) -/
  await  : Option (Instr × Nat)
deriving DecidableEq, Repr

/-- A trap record with the resume PC (R316, R330). -/
structure TrapRec where
  t      : TrapInfo
  pc     : Word
  from_  : Word
  resume : Word
  /-- not yet taken by the ranger -/
  fresh  : Bool
deriving DecidableEq, Repr

/-- A slot (R9): the thread it holds, its trap record, its stop bits (R313 PREEMPT). -/
structure Slot where
  occ     : Bool
  th      : Thread
  trap    : Option TrapRec
  stop    : Bool
  stopped : Bool
  /-- the crown has decided that the slot stops, and the kill is on its way (R321) -/
  halting : Bool
deriving DecidableEq, Repr

/-- An accumulator tile (R56): FP32 element n at bits [32n+31:32n]. -/
structure Tile where
  bits   : BitVec 32768
  poison : BitVec 1024
  valid  : Bool
deriving DecidableEq, Repr

/-- A line of the instruction cache (R113 to R116): its launch, space, reach, offset; its bytes with patches applied; the
poison of its 8 words; a faulty patch site; per-head faults of patch parameters. -/
structure ILine where
  launch : BitVec 32
  space  : BitVec 16
  creach : BitVec 16
  off    : Word
  bits   : BitVec 512
  poison : BitVec 8
  badPatch : Bool
  headFault : List (Nat × TrapInfo)
deriving DecidableEq, Repr

/-- An entry of a range cache (R366). -/
structure RCEntry where
  space : BitVec 16
  d     : RangeDesc
deriving DecidableEq, Repr

/-- An entry of the arrival buffer (R86): its hiker and whether a guest runs on it. -/
structure Arrival where
  id      : Nat
  hk      : Hiker
  running : Bool
deriving DecidableEq, Repr

/-- A thread image (R323, R324): where its 64-byte blocks lie, its first bedroll frame if it has one, the slot last held, the
saved thread with what the layout of R323 has no place for (log 22), the allotment, whether a RESUME has marked it, the far
values still owed to it with the image words and registers they go to, and whether it is a synchronising wait. -/
structure Image where
  id      : Nat
  lines   : List Nat
  frame   : Option Nat
  len     : Nat
  slot    : SlotN
  th      : Thread
  a       : Nat
  resumed : Bool
  owed    : List (FarEntry × List Nat)
  sync    : Bool
deriving DecidableEq, Repr

/-- The launch a core runs (R70, R71, R73): the rest of its share, CHECK merged so far. -/
structure CoreLaunch where
  sh     : Share
  next   : Nat
  check  : BitVec 32
  started : Bool
  stopped : Bool
  /-- has its share been reported finished (R73)? -/
  reported : Bool
deriving DecidableEq, Repr

/-- Credit state toward or from a core (R89): credits held, ticket held. -/
structure Credit where
  peer   : CoreId
  reply  : Bool
  held   : Nat
  ticket : Option (BitVec 16)
  /-- is a request on its way? -/
  asked  : Bool
deriving DecidableEq, Repr

/-- The destination's ticket counters of one class (R89). -/
structure Tickets where
  next     : BitVec 16
  serve    : BitVec 16
  promised : List CoreId
  reserved : Bool
deriving DecidableEq, Repr

/-- The privileged registers of R313 that are storage of their own. -/
structure Priv where
  cause   : BitVec 14
  pc      : Word
  info    : Word
  fromPc  : Word
  aux     : Word
  tsel    : BitVec 9
  vtab    : Word
  handling : Bool
  irqpend : BitVec 5
  irqmask : BitVec 5
  timercmp : Word
  hostmsg : Word
  spillctl : Word
  packspill : Word
  bedroll : Word
  packBlocks : Nat
  packLimit : BitVec 8
  packFrozen : Bool
deriving DecidableEq, Repr

/-- The core (R8 to R10, R51, R64, R74, R86, R313). -/
structure Core where
  id       : CoreId
  last     : SlotN
  pool     : Bank VReg 128
  tiles    : Bank Tile 2
  mq       : List MCmd
  mqHalted : Bool
  table    : Bank TEntry 256
  tabValid : Bool
  tabBusy  : Nat
  tabGen   : BitVec 16
  icache   : List ILine
  rcache   : List RCEntry
  pack     : List Task
  arrivals : List Arrival
  nextArr  : Nat
  credits  : List Credit
  ticketsO : Tickets
  ticketsR : Tickets
  creditFault : List CoreId
  /-- the peer whose report a CREDSYNC waits for (R341) -/
  credSync : Option CoreId
  /-- the member that the core's search for work last tried, at each level (R78) -/
  tried    : Bank CoreId 4
  /-- matrix queues saved in core frames, by the address of their first byte (R335; log 22) -/
  frames   : List (Nat × List MCmd)
  launch   : Option CoreLaunch
  waiting  : Option Share
  images   : List Image
  events   : List EventRec
  priv     : Priv
  contained : Bool
  sealed   : Bool
  halted   : Bool
  spills   : BitVec 32
  /-- successive shadow mismatches of one chunk, per slot (R383) -/
  shadow   : List (SlotN × Nat)
  /-- values passed to the trailing core (R382), newest last -/
  lvq      : List FarVal
  issues   : List Nat
  histo    : List Nat
deriving DecidableEq, Repr

/-- A ring (R261). -/
structure Ring where
  defd   : Bool
  win    : BitVec 3
  base   : Nat
  kind   : BitVec 2
  log2n  : BitVec 4
  stride : Nat
  head   : BitVec 32
  tail   : BitVec 32
  resvPush : Nat
  resvPop  : Nat
  popb   : Bool
  pushb  : Bool
  broken : Bool
  ends   : List Nat
  engs   : List Nat
  /-- an RDEF accepted and not performed (R263): its operands -/
  pendDef : Option (Word × Word)
deriving DecidableEq, Repr

/-- A barrier counter (R93). -/
structure Barrier where
  armed   : Option Nat
  arrived : Nat
deriving DecidableEq, Repr

/-- A STASH span (R244): pad offset, length, global start, space; the pad lines that have filled, with W. -/
structure Span where
  pad    : Nat
  len    : Nat
  global : WordRef
  filled : List (Nat × Nat × Bool)
deriving DecidableEq, Repr

/-- An entry of a home's waiter table (R237), with the image that waits (log 42); none for a thread of another package. -/
structure WaitEntry where
  addr : Nat
  core : CoreId
  slot : SlotN
  full : Bool
  img  : Option Nat
deriving DecidableEq, Repr

/-- A COPY or MCAST accepted by the copy engine (R249 to R251): a COPY's destination or ring, its descriptor, its length; an
MCAST's ring or pad offset, its unit. -/
inductive EngOp where
  | copy (src dst : WordRef) (ring : Option RingN) (desc : Option WordRef) (len : Nat)
  | mcast (src : WordRef) (ring : Option RingN) (pad : Nat) (len : Nat) (kind : BitVec 2) (mask : Word)
deriving DecidableEq, Repr
structure EngCmd where
  op     : EngOp
  ref    : FarRef
  /-- bytes done as R247 counts them -/
  done   : Nat
  poison : Bool
  /-- does the command wait for a translation at its start, at a row, at a 64 KiB mark (R249, R370)? -/
  check  : Bool
  /-- has an invalidation of its space paused it (R373)? -/
  paused : Bool
  /-- row length, rows, source and destination steps, once they are known (R249) -/
  rows   : Option (Nat × Nat × Int × Int)
  /-- addresses whose ranges the rest of the source and destination must lie in -/
  anchor : Nat × Nat
  /-- words read and not yet pushed or delivered -/
  buf    : List (List Byte × Bool)
  /-- clusters still to be served by an MCAST, words landed in the present one, whether one refused -/
  left   : Option (List Nat)
  at_    : Nat
  refused : Bool
deriving DecidableEq, Repr

/-- The debug module, counters and census of the cluster, its droop register and issue duty (R396, R399, R400, R403, R404). -/
structure Debug where
  halted  : Bool
  bppc    : Bank Word 4
  bpctl   : BitVec 24
  drbase  : Bank Word 2
  drlimit : Bank Word 2
  drctl   : BitVec 38
  csite   : Bank Word 64
  census  : Bank (Bank Nat 4) 64
  droopth : BitVec 10
  stretch : BitVec 4
  halve   : BitVec 16
  active  : Bool
  duty    : Nat
deriving DecidableEq, Repr

/-- The cluster's shared units. -/
structure Cluster where
  wfmt    : Bank (BitVec 4) 8
  rings   : Bank Ring 32
  bars    : Bank Barrier 16
  /-- threads of this core and others that wait at each counter -/
  barWait : List (BarN × Waiter)
  spans   : List Span
  waiters : List WaitEntry
  engq    : List EngCmd
  /-- units of other clusters' MCASTs that have arrived and not landed; they come from outside, as the steps of the inbox do -/
  units   : List EngArrival
  rcache  : List RCEntry
  dbg     : Debug
  /-- the launch that the cluster's formats, rings and counters have been set up for (R93, R127) -/
  launch  : Option (BitVec 32)
deriving DecidableEq, Repr

/-- The configuration of the partition (R342, R363). -/
structure PartCfg where
  sites   : BitVec 32
  spaceLo : BitVec 16
  spaceHi : BitVec 16
  lreach  : BitVec 16
  stubReach : BitVec 16
  stubPc  : Word
  trail   : CoreId
  jreach  : BitVec 16
  joff    : Word
  jlog    : Nat
  /-- per die, the L2 offset and size of the shadow area -/
  shadow  : List (Nat × Nat)
  spdir   : Nat
  /-- the ranger's code reach and the values firmware gives its registers (R405, R407) -/
  rgReach : BitVec 16
  rgPc    : Word
  vtab    : Word
  rk0     : BitVec 16
  spillctl : Word
  packspill : Word
  bedroll : Word
  /-- the first space number of a paired partition (R401), if any -/
  twin    : Option (BitVec 16)
deriving DecidableEq, Repr

/-- A launch of the partition from acceptance to its last journal entry (R345 to R352). -/
inductive LState where
  | queued
  /-- chosen, and waiting for its credit toward the TRAIL core (R348) -/
  | chosen
  | dispatched | cancelled | fanned
  /-- done, its completion word on its way to another package (R352) -/
  | closing
deriving DecidableEq, Repr
structure Launch where
  seq     : BitVec 32
  packet  : Word
  st      : LState
  dreach  : BitVec 16
  space   : BitVec 16
  prio    : Nat
  flags   : BitVec 8
  depw    : Word
  start   : Word
  tol     : Nat
  retry   : Nat
  gang    : Word
  donew   : Word
  depFull : Bool
  /-- shares delivered, and shares completed with their counts -/
  shares  : List (Share × CoreId)
  donesh  : List (Nat × Nat)
  nshares : Nat
  total   : Nat
  check   : BitVec 32
  recorded : Word
  started : Bool
  late    : Bool
  dropped : Bool
  mismatch : Bool
  stopping : Bool
  /-- index threads that have arrived at the open BARG generation and that have exited, and the generation (R94) -/
  bargAt  : Nat
  bargOut : Nat
  bargGen : Nat
  readyCores : List CoreId
  /-- entries reserved and not yet written (R357) -/
  resv    : Nat
  /-- what RETRY has added to START so far, and whether the arbiter has found the whole gang ready (R351) -/
  delay   : Word
  go      : Bool
deriving DecidableEq, Repr

/-- A partition swap (R353): in place, asked to stop, saved. -/
inductive Swap where
  | here | asked | out
deriving DecidableEq, Repr
/-- What a swapped-out partition's shadow areas hold of this core and its cluster (R353): the threads, the core frame with the vector
pool, the cluster's rings, formats, counters, spans and engine queue, its anonymous pad bytes with their poison and empty bits. -/
structure Shadow where
  slots   : Bank Slot 16
  pool    : Bank VReg 128
  tiles   : Bank Tile 2
  mq      : List MCmd
  mqHalted : Bool
  table   : Bank TEntry 256
  tabValid : Bool
  tabGen  : BitVec 16
  wfmt    : Bank (BitVec 4) 8
  rings   : Bank Ring 32
  bars    : Bank Barrier 16
  barWait : List (BarN × Waiter)
  engq    : List EngCmd
  cells   : List Host.Cell
  poison  : List Nat
  empty   : List Nat
deriving DecidableEq, Repr
/-- The partition: port registers, queue, launches, journal counters, saved image (R344 to R357). -/
structure Part where
  cfg     : Option PartCfg
  doorSeq : BitVec 32
  cancel  : BitVec 32
  jhead   : Nat
  jtail   : BitVec 32
  full    : Bool
  lost    : BitVec 16
  launches : List Launch
  lastSeq : BitVec 32
  msix    : Bool
  contained : Bool
  portTicket : Option (BitVec 16)
  portCredit : Nat
  swap    : Swap
  shadow  : Option Shadow
deriving DecidableEq, Repr

/-- A Pritas link (R390 to R392). -/
structure Link where
  up      : Bool
  failed  : BitVec 16
  half    : Bool
  sendSeq : BitVec 12
  expect  : BitVec 12
  nakking : Bool
  replay  : List Flit
  replays : Nat
deriving DecidableEq, Repr

/-- Mailbox, boot, power, external storage (R395, R402 to R406). -/
structure Mgmt where
  cmd     : BitVec 44
  data    : Word
  busy    : Bool
  result  : BitVec 4
  boot    : BitVec 8
  report  : List Byte
  imageA  : List Byte
  imageB  : List Byte
  sigA    : List Byte
  sigB    : List Byte
  romKey  : BitVec 256
  config  : Option PartCfg
  configBytes : List Byte
  configSig : List Byte
  fwDigest : BitVec 256
  leaf    : Nat
  freq    : Nat
  freqNext : Option (Nat × Nat)
  cap     : BitVec 12
  pkg     : BitVec 8
  mismatches : List (BitVec 32)
deriving DecidableEq, Repr

/-- A command block as the walker has read it (R336): addresses with their reach, PHYS, bytes 32 to 39. -/
structure RBlock where
  va    : Nat
  limit : Nat
  phys  : Nat
  perm  : BitVec 8
  attr  : BitVec 8
  rest  : Nat
deriving DecidableEq, Repr
/-- A range command at the site walker (R336 to R338, R364): not begun; its block read and LOCK taken; spans whose invalidation is
under way, with the token to be written after it, or the block of an RCOMPACT whose copy follows; an RCOMPACT copying, with
whether it has taken LOCK for its next edit. -/
inductive RPhase where
  | new
  | locked (b : RBlock)
  | inval (spans : List (Nat × Nat)) (done status : Nat) (copying : Option RBlock)
  | copy (b : RBlock) (held : Bool)
deriving DecidableEq, Repr
structure RJob where
  cmd   : RangeCmd
  phase : RPhase
deriving DecidableEq, Repr

/-- The package (R6, R16, R284, R298, R375, R384, R388). -/
structure Pkg where
  timeb   : Word
  cyc     : Word
  /-- the holder of the solo grant and the requests that wait, oldest first -/
  soloHolder : Option SlotN
  soloQueue : List SlotN
  mgmt    : Mgmt
  links   : Bank Link 18
  /-- end-to-end numbers: next to send and messages kept, next expected and early arrivals -/
  e2eSend : List (BitVec 8 × BitVec 2 × Nat)
  e2eKept : List (BitVec 8 × E2EMsg)
  e2eNext : List (BitVec 8 × BitVec 2 × Nat)
  e2eEarly : List E2EMsg
  gone    : List (BitVec 8)
  /-- lines the host may hold, and lines with a back-invalidate in flight (R388) -/
  hostLines : List Nat
  backInv : List Nat
  /-- 512-byte blocks of this package that other packages hold a copy of, and whether they have been asked for it (R284) -/
  remoteCopies : List (BitVec 8 × Nat × Bool)
  width   : Nat
  rate    : Nat
  corrected : Nat
  spans   : List (Nat × Nat)
  /-- spaces that an invalidation is pending for (R370) -/
  invals  : List (BitVec 16)
  /-- range commands in arrival order -/
  rjobs   : List RJob
deriving DecidableEq, Repr

/-- Memory (R6, R358, R152, R236): device and remote bytes at their physical addresses, host bytes from 2^48, pad bytes from
2^49. Lists in one canonical form: rising addresses, no entry equal to what an unlisted address reads as. -/
structure Memory where
  cells   : List Host.Cell
  poison  : List Nat
  empty   : List Nat
deriving DecidableEq, Repr

/-- Messages that leave for other cores, the host, other packages (log 1). -/
inductive Msg where
  | creditRequest (dest : CoreId) (reply : Bool) (ticket : Option (BitVec 16))
  | creditGrant (dest : CoreId) (reply : Bool)
  | creditRefusal (dest : CoreId) (reply : Bool) (ticket : BitVec 16)
  | creditReturn (dest : CoreId) (reply : Bool)
  | creditReport (dest : CoreId) (rep : CreditReport)
  | steal (victim : CoreId)
  | stolen (thief : CoreId) (t : Option Task)
  | image (m : Image)
  | hiker (h : HikerMsg)
  | barrier (ctr : BarN) (w : Waiter)
  | barrierWake (ctr : BarN) (w : Waiter)
  | barrierFault (ctr : BarN) (w : Waiter)
  | resume (core : CoreId) (w : BitVec 18)
  | event (core : CoreId) (e : EventRec)
  | share (sh : Share) (core : CoreId)
  | stopShare (core : CoreId) (seq : BitVec 32)
  | successor (tasks : List Task) (sh : Option (Share × Nat))
  | pad (cluster : Nat) (who : Waiter) (off : Nat) (data : List Byte) (p : List Bool)
  | ringPush (cluster : Nat) (who : Waiter) (ring : RingN) (kind : BitVec 2) (data : List Byte) (p : List Bool)
  | halt (core : CoreId)
  | release (core : CoreId)
  | preempt (core : CoreId)
  | partitionStop
  | invalidate (space : BitVec 16) (lo hi : Nat)
  | flit (l : LinkN) (f : Flit)
  | e2e (dest : BitVec 8) (m : E2EMsg)
  | hostStore (st : OutStore)
  | hostRead (a : Nat) (data : List Byte) (p : Bool)
  | backInvalidate (line : Nat)
  | remoteData (dest : BitVec 8) (line : Nat) (data : List Byte) (p : List Bool)
  | remoteInvalidate (dest : BitVec 8) (line : Nat)
  | msix
  | bargWake (seq : BitVec 32)
  | gangReady (gang : Word) (core : CoreId)
  | ecc (a : Nat)
  | firmware (what : Nat)
deriving DecidableEq, Repr

/-- The packet being executed: its slot, the heads of its line, the stream elements it has taken (R268); the counter of free
values (log 10). -/
structure Ctl where
  cur   : SlotN
  curN  : Nat
  taken : List (VNum × VVal)
  free  : Nat
  /-- has the value of the packet in hand returned (R28, R167, R200)? -/
  came  : Bool
  /-- is the packet in hand a VST that narrows (R199)? -/
  narrow : Bool
  /-- does the guard of the packet in hand still await its writer (R43, R44)? -/
  awaits : Bool
deriving DecidableEq, Repr

/-- The machine. -/
structure State where
  ctl    : Ctl
  slots  : Bank Slot 16
  core   : Core
  cl     : Cluster
  part   : Part
  pkg    : Pkg
  mem    : Memory
  inbox  : List Instr
  agenda : List Instr
  out    : List Msg
deriving DecidableEq, Repr

def SCell.zero : SCell := ⟨0, false, false, 0, none⟩
def QCell.zero : QCell := ⟨0, false, false, 0⟩

/-- An outermost frame of size 24 at entry 0 (R60, R66). -/
def Window.outer : Window := ⟨0, 24, false, 1, 0, 0, []⟩

/-- The registers of R66 with every value zero and SEED 1. -/
def RegFile.zero : RegFile :=
  ⟨Bank.fill _ _ .zero, Bank.fill _ _ .zero, Bank.fill _ _ .zero, Bank.fill _ _ 0, Bank.fill _ _ 0, 1, 0, 0, .outer⟩

def Chunk.start (no : Nat) (pc from_ : Word) (r : RegFile) (pos : List Nat) : Chunk :=
  ⟨no, pc, r, from_, [], [], 0, [], [], [], [], [], [], [], [], pos, [], [], none, ⟨[], [], 0, 0⟩⟩

def Binding.idle : Binding := ⟨.unbound, Option.none, [], [], 0, []⟩

/-- A thread at a PC with given registers: nothing owed, nothing open (R66). -/
def Thread.start (kind : TKind) (pc : Word) (space creach : BitVec 16) (r : RegFile) (inc : BitVec 4) : Thread :=
  ⟨kind, pc, pc, space, creach, r, inc, 0, [], false, none, none, 0, 0, ⟨false, 0, 0, 0, 0⟩, 0, false,
    Chunk.start 0 pc pc r [0, 0, 0, 0], [], none, Bank.fill _ _ Binding.idle, [], [], none, none, none, false, 0, false,
    [], [], [], none⟩

/-- A vacant slot; the registers of the thread it last held are zero at reset (log 5). -/
def Slot.vacant : Slot := ⟨false, Thread.start .index 0 0 0 .zero 0, none, false, false, false⟩

def Tile.zero : Tile := ⟨0, 0, false⟩
def Ring.undef : Ring := ⟨false, 0, 0, 0, 0, 8, 0, 0, 0, 0, false, false, false, [], [], none⟩
def Tickets.zero : Tickets := ⟨0, 0, [], false⟩

/-- R313's reset column. -/
def Priv.reset : Priv :=
  ⟨0, 0, 0, 0, 0, 0, 0, false, 0, 0, BitVec.allOnes 64, 0, 0, 0, 0, 0, 64, false⟩

def Core.reset : Core :=
  ⟨0, 15, Bank.fill _ _ ⟨⟨0, 0⟩, 0⟩, Bank.fill _ _ Tile.zero, [], false, Bank.fill _ _ ⟨0, false⟩, false, 0, 0, [], [], [],
    [], 0, [], .zero, .zero, [], none, Bank.fill _ _ 0, [], none, none, [], [], .reset, false, false, false, 0, [], [],
    List.replicate 64 0, List.replicate 17 0⟩

def Debug.reset : Debug :=
  ⟨false, Bank.fill _ _ 0, 0xFFFF00, Bank.fill _ _ 0, Bank.fill _ _ 0, 0, Bank.fill _ _ 0, Bank.fill _ _ (Bank.fill _ _ 0),
    720, 6, 64, false, 16⟩

def Cluster.reset : Cluster :=
  ⟨Bank.fill _ _ 0, Bank.fill _ _ .undef, Bank.fill _ _ ⟨none, 0⟩, [], [], [], [], [], [], .reset, none⟩

def Part.reset : Part := ⟨none, 0, 0, 0, 0, false, 0, [], 0, false, false, none, 0, .here, none⟩

def Link.reset : Link := ⟨true, 0, false, 0, 0, false, [], 0⟩

def Mgmt.reset : Mgmt :=
  ⟨0, 0, false, 0, 0, List.replicate 4096 0, [], [], [], [], 0, none, [], [], 0, 0, 800, none, 2400, 0, []⟩

def Pkg.reset : Pkg :=
  ⟨0, 0, none, [], .reset, Bank.fill _ _ .reset, [], [], [], [], [], [], [], [], 16, 128, 0, [], [], []⟩

/-- The machine right after reset: every slot vacant, boot stage 0 (R395), memory with nothing listed. -/
def State.reset : State :=
  ⟨⟨0, 1, [], 0, false, false, false⟩, Bank.fill _ _ .vacant, .reset, .reset, .reset, .reset, ⟨[], [], []⟩, [], [], []⟩

end Sys2Proof.Machine
end

