-- ==== Sys2Proof/Machine/Memory.lean ====
section
/-! DEFINITION. Memory operations (R1, R6, R152, R236): bytes, little-endian words, per-word poison and full/empty bits, all
kept in the canonical form that Memory.wf states. Which cache level holds a line shows nowhere (R12, R276). -/
namespace Sys2Proof.Machine

/-- Host memory and the pad in the model's one flat space (log 7). -/
def hostBase : Nat := 2 ^ 48
def padBase : Nat := 2 ^ 49
def padSize : Nat := 512 * 1024

/-- What an unlisted address reads as (log 6). -/
def unlisted : Byte := 0

/-- The byte listed for an address, or what an unlisted one reads as. -/
def cellsGet : List Host.Cell → Nat → Byte
  | [], _ => unlisted
  | c :: cs, a => if c.1 = a then c.2 else if a < c.1 then unlisted else cellsGet cs a

/-- A byte put at an address: the list stays rising, and no entry equals the unlisted value. -/
def cellsSet : List Host.Cell → Nat → Byte → List Host.Cell
  | [], a, b => if b = unlisted then [] else [(a, b)]
  | c :: cs, a, b =>
    if a < c.1 then (if b = unlisted then c :: cs else (a, b) :: c :: cs)
    else if a = c.1 then (if b = unlisted then cs else (a, b) :: cs)
    else c :: cellsSet cs a b

/-- A rising list of naturals as a set: membership, insertion, removal. -/
def setHas : List Nat → Nat → Bool
  | [], _ => false
  | x :: xs, a => if x = a then true else if a < x then false else setHas xs a
def setIns : List Nat → Nat → List Nat
  | [], a => [a]
  | x :: xs, a => if a < x then a :: x :: xs else if a = x then x :: xs else x :: setIns xs a
def setDel : List Nat → Nat → List Nat
  | [], _ => []
  | x :: xs, a => if a < x then x :: xs else if a = x then xs else x :: setDel xs a

/-- Every entry lies above a bound and entries rise; none equals the unlisted value. -/
def cellsOk : Option Nat → List Host.Cell → Bool
  | _, [] => true
  | lo, c :: cs => (match lo with | none => true | some l => decide (l < c.1)) && decide (c.2 ≠ unlisted) && cellsOk (some c.1) cs
def setOk : Option Nat → List Nat → Bool
  | _, [] => true
  | lo, x :: xs => (match lo with | none => true | some l => decide (l < x)) && setOk (some x) xs

/-- The canonical form. -/
def Memory.wf (m : Memory) : Bool := cellsOk none m.cells && setOk none m.poison && setOk none m.empty

/-- One byte. -/
def Memory.byte (m : Memory) (a : Nat) : Byte := cellsGet m.cells a
/-- Poison of the aligned word that holds a byte (R152). -/
def Memory.pois (m : Memory) (a : Nat) : Bool := setHas m.poison (a / 8)
/-- Is the aligned word that holds a byte full (R236)? -/
def Memory.full (m : Memory) (a : Nat) : Bool := !setHas m.empty (a / 8)

def Memory.setByte (m : Memory) (a : Nat) (b : Byte) : Memory := { m with cells := cellsSet m.cells a b }
def Memory.setPois (m : Memory) (a : Nat) (p : Bool) : Memory :=
  { m with poison := if p then setIns m.poison (a / 8) else setDel m.poison (a / 8) }
def Memory.setFull (m : Memory) (a : Nat) (f : Bool) : Memory :=
  { m with empty := if f then setDel m.empty (a / 8) else setIns m.empty (a / 8) }

/-- n bytes from a. -/
def Memory.bytes (m : Memory) (a n : Nat) : List Byte := (List.range n).map fun i => m.byte (a + i)
/-- Little-endian value of bytes (R1). -/
def leNat : List Byte → Nat
  | [] => 0
  | b :: bs => b.toNat + 256 * leNat bs
/-- n bytes of a value, little-endian (R1). -/
def leBytes : Nat → Nat → List Byte
  | 0, _ => []
  | n + 1, x => BitVec.ofNat 8 x :: leBytes n (x / 256)
/-- The little-endian value of n bytes at a. -/
def Memory.nat (m : Memory) (a n : Nat) : Nat := leNat (m.bytes a n)
/-- Is any word poisoned that holds one of n bytes at a? -/
def Memory.poisAny (m : Memory) (a n : Nat) : Bool := (List.range n).any fun i => m.pois (a + i)

/-- Bytes written one after the other. -/
def Memory.setBytes (m : Memory) : Nat → List Byte → Memory
  | _, [] => m
  | a, b :: bs => (m.setByte a b).setBytes (a + 1) bs

/-- The words that n bytes at a touch. -/
def wordsOf (a n : Nat) : List Nat :=
  if n = 0 then [] else (List.range ((a + n - 1) / 8 - a / 8 + 1)).map fun i => a / 8 + i

/-- R152: the poison of a word after n bytes at a were written with poison p. -/
def Memory.wordPois (m : Memory) (a n : Nat) (p : Bool) (w : Nat) : Memory :=
  if p then m.setPois (8 * w) true
  else if a ≤ 8 * w ∧ 8 * w + 8 ≤ a + n then m.setPois (8 * w) false
  else m

/-- A store (R152): the bytes, then the poison of each word touched. -/
def Memory.store (m : Memory) (a : Nat) (data : List Byte) (p : Bool) : Memory :=
  (wordsOf a data.length).foldl (fun m w => m.wordPois a data.length p w) (m.setBytes a data)

/-- An engine's write of one aligned word: data, poison, full (R248). -/
def Memory.engineWord (m : Memory) (a : Nat) (data : List Byte) (p : Bool) : Memory :=
  (m.store a data p).setFull a true

/-- Engine writes of 8-byte words from a, each with its poison (R248). -/
def Memory.engineWords (m : Memory) : Nat → List (List Byte × Bool) → Memory
  | _, [] => m
  | a, (d, p) :: ws => (m.engineWord a d p).engineWords (a + 8) ws

/-- n bytes of zeros, unpoisoned and full: pad lines taken or returned (R236, R244). -/
def Memory.clear (m : Memory) : Nat → Nat → Memory
  | _, 0 => m
  | a, n + 1 => ((m.store a (leBytes 8 0) false).setFull a true).clear (a + 8) n

/-- The words of a set are zero, unpoisoned and full. -/
def Memory.forget (m : Memory) (p : Nat → Bool) : Memory :=
  ⟨m.cells.filter fun c => !p (c.1 / 8), m.poison.filter fun w => !p w, m.empty.filter fun w => !p w⟩

end Sys2Proof.Machine
end

