-- ==== Sys2Proof/Machine/Ops.lean ====
section
/-! DEFINITION. Named operations over the state: slots and threads, registers and windows (R48, R60), the pool (R51), far
values (R36), chunks' ends and squashes (R278, R297), taking a trap (R45, R316, R330) and the frame of every packet. -/
namespace Sys2Proof.Machine

/-! Slots and threads. -/

def State.slot (s : State) (i : SlotN) : Slot := s.slots.get i
def State.setSlot (s : State) (i : SlotN) (x : Slot) : State := { s with slots := s.slots.set i x }
def State.th (s : State) (i : SlotN) : Thread := (s.slot i).th
def State.setTh (s : State) (i : SlotN) (t : Thread) : State := s.setSlot i { s.slot i with th := t }
def State.modTh (s : State) (i : SlotN) (f : Thread → Thread) : State := s.setTh i (f (s.th i))
/-- The thread whose packet is being executed. -/
def State.me (s : State) : Thread := s.th s.ctl.cur
def State.setMe (s : State) (t : Thread) : State := s.setTh s.ctl.cur t
def State.modMe (s : State) (f : Thread → Thread) : State := s.setMe (f s.me)
/-- The ranger's slot, the guest slots, the resident slots (R9). -/
def ranger : SlotN := 15
def isGuest (i : SlotN) : Bool := decide (12 ≤ i.val) && decide (i.val ≤ 14)
def isResident (i : SlotN) : Bool := decide (i.val < 12)
/-- Slots in order. -/
def allSlots : List SlotN := List.finRange 16
/-- Steps put on the agenda behind those that are there. -/
def State.later (s : State) (es : List Instr) : State := { s with agenda := s.agenda ++ es }
/-- A message that leaves (log 1). -/
def State.send (s : State) (m : Msg) : State := { s with out := s.out ++ [m] }
def State.modPriv (s : State) (f : Priv → Priv) : State := { s with core := { s.core with priv := f s.core.priv } }
/-- The next free word (log 10). -/
def State.fresh (s : State) : Word × State :=
  (Config.freeWord s.ctl.free, { s with ctl := { s.ctl with free := s.ctl.free + 1 } })

/-! Registers. -/

def fin64 (n : Nat) : Fin 64 := ⟨n % 64, Nat.mod_lt _ (by decide)⟩
def fin32 (n : Nat) : Fin 32 := ⟨n % 32, Nat.mod_lt _ (by decide)⟩
def fin16 (n : Nat) : Fin 16 := ⟨n % 16, Nat.mod_lt _ (by decide)⟩
def fin8 (n : Nat) : Fin 8 := ⟨n % 8, Nat.mod_lt _ (by decide)⟩
def fin4 (n : Nat) : Fin 4 := ⟨n % 4, Nat.mod_lt _ (by decide)⟩
def fin128 (n : Nat) : Fin 128 := ⟨n % 128, Nat.mod_lt _ (by decide)⟩

/-- The window entry of name s(8+j): WINDOW.BASE + j modulo 64 (R60). -/
def Window.entry (w : Window) (r : SReg) : Fin 64 := fin64 (w.base.toNat + (r.toNat - 8))

/-- Scalar register r; s0 reads zero, unpoisoned (R48). -/
def RegFile.s (f : RegFile) (r : SReg) : SCell :=
  if r.toNat = 0 then .zero
  else if r.toNat < 8 then f.g.get (fin8 r.toNat)
  else f.w.get (f.win.entry r)
/-- A write of scalar register r; a write to s0 is discarded (R48). -/
def RegFile.setS (f : RegFile) (r : SReg) (c : SCell) : RegFile :=
  if r.toNat = 0 then f
  else if r.toNat < 8 then { f with g := f.g.set (fin8 r.toNat) c }
  else { f with w := f.w.set (f.win.entry r) c }
/-- Predicate r; q0 reads all ones, unpoisoned (R53). -/
def RegFile.p (f : RegFile) (r : PReg) : QCell :=
  if r.toNat = 0 then ⟨BitVec.allOnes 64, false, false, 0⟩ else f.q.get (fin8 r.toNat)
/-- A write of predicate r; a write to q0 is discarded (R53). -/
def RegFile.setP (f : RegFile) (r : PReg) (c : QCell) : RegFile :=
  if r.toNat = 0 then f else { f with q := f.q.set (fin8 r.toNat) c }
def RegFile.reach (f : RegFile) (r : KReg) : BitVec 16 := f.k.get (fin4 r.toNat)
def RegFile.setReach (f : RegFile) (r : KReg) (x : BitVec 16) : RegFile := { f with k := f.k.set (fin4 r.toNat) x }

/-- The value of scalar field r (R156 S). -/
def State.s (st : State) (r : SReg) : SVal := let c := st.me.regs.s r; ⟨c.val, c.p⟩
def State.tag (st : State) (r : SReg) : Tag := (st.me.regs.s r).tag
def State.p (st : State) (r : PReg) : QCell := st.me.regs.p r
def State.k (st : State) (r : KReg) : BitVec 16 := st.me.regs.reach r
def State.modRegs (st : State) (f : RegFile → RegFile) : State := st.modMe fun t => { t with regs := f t.regs }
/-- A near write of scalar r by the packet in hand, with a tag (R34 to R36). -/
def State.wrT (st : State) (r : SReg) (v : Word) (p : Bool) (tag : Tag) : State :=
  st.modRegs fun f => f.setS r ⟨v, p, false, st.me.seq, if p then none else tag⟩
/-- A near write of scalar r, concrete (R156 Write, R293). -/
def State.wr (st : State) (r : SReg) (v : Word) (p : Bool) : State := st.wrT r v p none
/-- A near write of predicate r. -/
def State.wq (st : State) (r : PReg) (m : Word) (p : Bool) : State :=
  st.modRegs fun f => f.setP r ⟨m, p, false, st.me.seq⟩

/-- A near write of a reach register (R34, R55). -/
def State.wk (st : State) (r : KReg) (x : BitVec 16) : State :=
  st.modRegs fun f => { f.setReach r x with kw := f.kw.set (fin4 r.toNat) st.me.seq }

/-- A of the core's launch (R51); guest slots and the ranger own no vectors. -/
def State.allot (s : State) (i : SlotN) : Nat :=
  if isResident i then (match s.core.launch with | some l => l.sh.info.a | none => 0) else 0
def State.threads (s : State) : Nat := match s.core.launch with | some l => l.sh.info.t | none => 0
/-- The pool entry of vector name v of slot i (R51). -/
def State.vent (s : State) (i : SlotN) (v : VNum) : Fin 128 := fin128 (i.val * s.allot i + v.toNat)
/-- The newest value of vector r in a thread's staging buffer (R38). -/
def stagedV (t : Thread) (r : VNum) : Option VReg := (t.staged.reverse.find? fun x => x.reg = r).map (·.x)
/-- Vector r of slot i as a source reads it: the newest staged value, else the pool as it stands (R38). -/
def State.vreg (s : State) (i : SlotN) (r : VNum) : VReg := (stagedV (s.th i) r).getD (s.core.pool.get (s.vent i r))
/-- The value of vector r: a stream element that the packet has taken, else what a source reads (R38, R268). -/
def State.v (s : State) (r : VNum) : VVal :=
  match s.ctl.taken.find? (fun x => x.1 = r) with
  | some x => x.2
  | none => (s.vreg s.ctl.cur r).v
/-- The packet in hand writes vector r: the register counts toward its chunk's limit (R288). -/
def State.noteV (s : State) (r : VNum) : State :=
  s.modMe fun t => { t with cur := { t.cur with vregs := if t.cur.vregs.contains r then t.cur.vregs else r :: t.cur.vregs } }
def State.putV (s : State) (i : SlotN) (r : VNum) (x : VReg) : State :=
  { s with core := { s.core with pool := s.core.pool.set (s.vent i r) x } }
/-- A near write of vector r by the packet in hand: the result waits in the staging buffer for its seal entry (R38). -/
def State.wv (s : State) (r : VNum) (x : VVal) : State :=
  (s.noteV r).modMe fun t => { t with staged := t.staged ++ [⟨r, ⟨x, t.seq⟩, t.cur.no⟩] }

/-! Guards (R106, R53). -/

/-- The guard mask: q(G[2:0]), inverted when G[3] = 1. -/
def gmask (s : State) (h : Hdr) : Word :=
  let m := (s.p (h.g.extractLsb' 0 3)).m
  if h.g.getLsbD 3 then ~~~m else m
/-- The guard's poison. -/
def gpois (s : State) (h : Hdr) : Bool := (s.p (h.g.extractLsb' 0 3)).p
/-- The scalar guard. -/
def gbit (s : State) (h : Hdr) : Bool := (gmask s h).getLsbD 0
/-- G = 0b1000: never. -/
def gnever (h : Hdr) : Bool := decide (h.g = 8)
/-- Is the packet guarded? -/
def guarded (h : Hdr) : Bool := decide (h.g ≠ 0)
/-- Does the guard govern an element of width w (R158)? -/
def gany (s : State) (h : Hdr) (w : Nat) : Bool :=
  let m := gmask s h
  if w = 32 then decide (m.extractLsb' 0 32 ≠ 0) else decide (m ≠ 0)

/-! Program counter (R102, R103). -/

def pcLine (pc : Word) : Word := pc &&& ~~~(63 : Word)
def pcHead (pc : Word) : Nat := (pc.extractLsb' 0 5).toNat
/-- Next of R103 on a line of n heads. -/
def nextPc (pc : Word) (n : Nat) : Word := if pcHead pc + 1 < n then pc + 1 else pcLine pc + 64
def State.next (s : State) : Word := nextPc s.me.pc s.ctl.curN
/-- Target(J, L) (R103). -/
def target (pc : Word) (j : BitVec 5) (l : BitVec 27) : Word := pcLine pc + (sx l <<< 6) + j.setWidth 64

/-! Far values (R36). -/

/-- Does the thread's next packet, being far, have to wait: far count 15, or none of the 24 entries free (R36, R39)? -/
def farFull (t : Thread) : Bool := decide (15 ≤ t.far.length) || decide (24 ≤ t.far.length + t.landed.length)
/-- The sequence numbers that the thread holds in flight or in its far table (R23). -/
def seqsHeld (t : Thread) : List (BitVec 8) := t.flight.map (·.seq) ++ t.far.map (·.seq) ++ t.landed.map (·.seq)
/-- The first number from q on that is not held (R23). -/
def freeSeq (held : List (BitVec 8)) : Nat → BitVec 8 → BitVec 8
  | 0, q => q
  | n + 1, q => if held.contains q then freeSeq held n (q + 1) else q
/-- The numbers of the draining entries that slot i still has in the far table, bound to saved threads (R23, R324). -/
def drainSeqs (s : State) (i : SlotN) : List (BitVec 8) :=
  s.core.images.flatMap fun m => if m.slot = i then m.owed.map (·.1.seq) else []
/-- The owner of the far value of the packet in hand. -/
def State.ref (s : State) : FarRef := ⟨s.ctl.cur, s.me.seq, s.me.inc⟩
/-- A far packet takes its entry; a scalar destination's far bit is set (R36). -/
def State.farS (s : State) (d : SReg) (v : Option FarVal) (fl : Flags) (token : Bool) : State :=
  s.modMe fun t => { t with
    regs := let c := t.regs.s d; t.regs.setS d { c with far := true, wseq := t.seq, tag := none },
    far := t.far ++ [⟨t.seq, t.inc, .scalar d, v, fl, token, t.cur.no, false, false⟩] }
/-- A far packet owing a vector register: the old value stands until the arrival and the seal entry (R38). -/
def State.farV (s : State) (d : VNum) (v : Option FarVal) (fl : Flags) : State :=
  (s.noteV d).modMe fun t => { t with far := t.far ++ [⟨t.seq, t.inc, .vec d, v, fl, false, t.cur.no, false, false⟩] }
/-- The entry that the packet in hand has taken last is one whose packet can set FPFLAGS (R199). -/
def State.markFp (s : State) : State :=
  s.modMe fun t => { t with far := t.far.dropLast ++ t.far.getLast?.toList.map fun e => { e with fp := true } }
/-- The siding has the value of an entry (R31); one that is to be discarded stays so (R37). -/
def fillFar (t : Thread) (seq : BitVec 8) (inc : BitVec 4) (v : FarVal) : Thread :=
  { t with far := t.far.map fun e => if e.seq = seq ∧ e.inc = inc then { e with value := e.value.or (some v) } else e }
/-- The value owed under a reference reaches its slot's table, or the image that holds the thread (R324). -/
def State.deliver (s : State) (r : FarRef) (v : FarVal) : State :=
  let t := s.th r.slot
  if (s.slot r.slot).occ && t.far.any (fun e => e.seq = r.seq ∧ e.inc = r.inc) then
    s.setTh r.slot (fillFar t r.seq r.inc v)
  else { s with core := { s.core with images := s.core.images.map fun m =>
    if m.slot = r.slot then { m with owed := m.owed.map fun e =>
      if e.1.seq = r.seq ∧ e.1.inc = r.inc then ({ e.1 with value := e.1.value.or (some v) }, e.2) else e } else m } }

/-! Chunks (R278, R288, R297). -/

/-- No symbolic tag survives the start of a chunk (R291). -/
def RegFile.concrete (f : RegFile) : RegFile :=
  { f with g := f.g.map fun c => { c with tag := none }, w := f.w.map fun c => { c with tag := none } }
def bindPos (t : Thread) : List Nat := t.binds.items.map (·.pos)
/-- Start a chunk of thread t at pc with the registers as they stand. The checkpoint keeps the tags of the chunk that ends
there, which a repair of that chunk rewrites (R295). -/
def startChunk (t : Thread) (pc : Word) : Thread :=
  { t with regs := t.regs.concrete, cur := Chunk.start (t.cur.no + 1) pc t.from_ t.regs (bindPos t) }
/-- End the current chunk at its present PC; an empty chunk is none, and stays to be filled (R288). -/
def endChunk (t : Thread) : Thread :=
  if t.cur.npkts = 0 then t
  else startChunk { t with ended := t.ended ++ [t.cur] } t.pc
/-- Has the thread a chunk that has not committed, or a singleton that waits? -/
def uncommitted (t : Thread) : Bool :=
  decide (t.cur.npkts ≠ 0) || decide (t.ended ≠ []) || t.sync.isSome

/-- Vector registers back as a chunk found them (R38, R297). -/
def restoreV (s : State) (i : SlotN) (vs : List (VNum × VReg)) : State := vs.foldl (fun s x => s.putV i x.1 x.2) s

/-- Elements consumed go back to the front of their buffers, positions to where the chunk started (R268). -/
def restoreBinds (t : Thread) (cs : List Chunk) : Thread :=
  let give (k : Fin 4) : List (VVal × Bool × Bool × Option (BitVec 8 × Word)) :=
    cs.flatMap fun c => (c.taken.reverse.filter (fun x => x.1 = k)).map fun x => (x.2.1, x.2.2.1, x.2.2.2, none)
  match cs with
  | [] => t
  | c :: _ => (List.finRange 4).foldl (fun t k =>
      let b := t.binds.get k
      { t with binds := t.binds.set k { b with pos := c.pos0.getD k.val b.pos, buf := give k ++ b.buf } }) t

/-- A push or pop accepted by a ring and not yet performed is so no longer (R261 RESV). -/
def unresv (s : State) (r : RingN) (push pop : Nat) : State :=
  let k := fin32 r.toNat
  let g := s.cl.rings.get k
  { s with cl := { s.cl with rings := s.cl.rings.set k { g with resvPush := g.resvPush - push, resvPop := g.resvPop - pop } } }
/-- The reservations that a discarded chunk held are given back (R264, R268). -/
def unreserve (s : State) (t : Thread) (cs : List Chunk) : State :=
  cs.foldl (fun s c =>
    let s1 := c.pushed.foldl (fun s x => match (t.binds.get x.1).kind with
      | .push r => unresv s r 1 0
      | _ => s) s
    match c.act with
    | some (.push r _) => unresv s1 r 1 0
    | some (.pop r _ _) => unresv s1 r 0 1
    | none => s1) s

/-- What a squashed packet still owes is discarded when it arrives, its flags too (R37, R198). -/
def dropFar (no : Nat) (e : FarEntry) : FarEntry :=
  if no ≤ e.chunk then { e with value := some .discard, fl := 0 } else e

/-- The command of a squashed chunk leaves the matrix queue (R269). -/
def dropCmds (s : State) (i : SlotN) (no : Nat) : State :=
  { s with core := { s.core with mq := s.core.mq.filter fun m =>
    !(decide (m.owner = .slot i) && (match m.wait with | some k => decide (no ≤ k) | none => false)) } }

/-- Squash chunk n of thread i (0 the oldest) and every later one; the thread restarts at its first instruction (R297). A
waiting singleton that is younger goes too; so do the seal entries, staged results and landed values of those chunks (R45), and
an open region whose PITCH is among them is open no longer (R278, R300). -/
def squashFrom (s : State) (i : SlotN) (n : Nat) : State :=
  let t := s.th i
  let all := t.ended ++ [t.cur]
  let keep := all.take n
  let gone := all.drop n
  match gone with
  | [] => s
  | c :: _ =>
    let s1 := gone.reverse.foldl (fun s x => restoreV s i x.vsave) (dropCmds (unreserve s t gone) i c.no)
    let t1 := restoreBinds t gone
    let t2 := { t1 with
      regs := c.ckpt.concrete, pc := c.pc, from_ := c.from_, ended := keep, miss := none, late := none, park := none,
      far := t1.far.map (dropFar c.no), await := none
      landed := t1.landed.filter fun e => decide (e.chunk < c.no)
      flight := t1.flight.filter fun x => decide (x.chunk < c.no)
      staged := t1.staged.filter fun x => decide (x.chunk < c.no)
      reg := if n < t1.ended.length then { t1.reg with isOpen := false } else t1.reg }
    let s2 := s1.setTh i { t2 with cur := Chunk.start (t.cur.no + 1) c.pc c.from_ c.ckpt c.pos0 }
    s2.setSlot i { s2.slot i with trap := none }

/-- The first free area or bit of a mask. -/
def lowestClear (m : BitVec 32) : Option (Fin 32) := (List.finRange 32).find? fun i => !m.getLsbD i.val

/-! Ending a packet. -/

/-- What the body of a packet answers. -/
inductive PRes where
  /-- it has its effect; the PC becomes the target, or Next -/
  | done (s : State) (pc : Option Word)
  /-- it has its effect and its chunk ends with it (R184, R300 PITCH) -/
  | ends (s : State) (pc : Option Word)
  /-- it carries a cause -/
  | trap (t : TrapInfo)
  /-- it carries a cause whose rule also changes a shared unit (R268 BROKEN) -/
  | trapIn (s : State) (t : TrapInfo)
  /-- it replays: parked at its own PC, with steps under way (R32) -/
  | replay (s : State) (p : Park)
  /-- it does not issue yet (R39) -/
  | stall
  /-- it has no effect of its own and stays where it is, in a changed state (a debug halt, R397) -/
  | hold (s : State)
  /-- it has formed a chunk of its own, or acted after its thread's last chunk, and that has committed (R230, R280) -/
  | own (s : State) (pc : Option Word)
  /-- it has launched and retires only when its value has returned: JTAB, a far FP packet under a trap enable (R28, R200) -/
  | launch (i : Instr)
  /-- its thread has left the slot (R84, R169) -/
  | gone (s : State)
  /-- it is a chunk-ending instruction in an open region: the region aborts with CAUSE 4 (R301) -/
  | abort (s : State) (cause : Nat)

def trapOf (c : BitVec 8) : TrapInfo := ⟨c, 0, 0⟩

/-- The causes of R318 and R376. -/
def cIllegal : BitVec 8 := 0x01
def cLine : BitVec 8 := 0x02
def cTarget : BitVec 8 := 0x03
def cPrivileged : BitVec 8 := 0x04
def cDivide : BitVec 8 := 0x05
def cFp : BitVec 8 := 0x06
def cMisaligned : BitVec 8 := 0x07
def cNoRange : BitVec 8 := 0x08
def cPermission : BitVec 8 := 0x09
def cResidency : BitVec 8 := 0x0A
def cPoison : BitVec 8 := 0x0B
def cSpill : BitVec 8 := 0x0C
def cHike : BitVec 8 := 0x0D
def cWaited : BitVec 8 := 0x0E
def cSoftware : BitVec 8 := 0x0F
def cRing : BitVec 8 := 0x10
def cMatrix : BitVec 8 := 0x11
def cStream : BitVec 8 := 0x12
def cLaunch : BitVec 8 := 0x13
def cDebug : BitVec 8 := 0x14
def cCredit : BitVec 8 := 0x15
def cContain : BitVec 8 := 0x16

/-- Abort(x) of R300 in slot i: squash the region's chunk, count, retry at Next of the PITCH or take the fallback. -/
def regionAbort (s : State) (i : SlotN) (x : Nat) : State :=
  let k := (s.th i).ended.length
  let s1 := squashFrom s i k
  let t := s1.th i
  let n := t.reg.n + 1
  if x = 4 ∨ x = 5 ∨ n = 5 then
    let st : Nat := if x = 5 then 3 else 2
    let t1 := { t with
      region := BitVec.ofNat 12 (st + 4 * (n - 1) + 256 * x),
      reg := { t.reg with isOpen := false, n := n, last := x },
      pc := t.reg.fallback }
    s1.setTh i (startChunk t1 t.reg.fallback)
  else s1.setTh i { t with reg := { t.reg with n := n, last := x }, pc := t.reg.next }

/-- A fault of a target (R104): the record's FROM is the packet that led there. -/
def targetFault (t : TrapInfo) : Bool := decide (t.cause = cTarget) || (decide (t.cause = cMisaligned) && decide (t.info = 0) && decide (t.aux = 0))
/-- A killed packet that has launched owes nothing more: its entry drains (R36, R45). -/
def dropAwait (t : Thread) : Thread :=
  if t.await.isSome then { t with await := none, far := t.far.filter fun e => decide (e.seq ≠ t.seq) } else t
/-- A kill packet goes onto the seal lane, behind the seal entries and kill packets that are on it (R45, R46). -/
def sendKill (s : State) (i : SlotN) : State := s.later [.killApply i]
/-- The crown decides a trap (R45, R316, R330): the incarnation moves on, the record is kept with its resume PC, which is Next
of the PITCH in an open region (R302), and the slot leaves rotation. Older packets have their effect, younger ones none (R47). -/
def crownTrap (s : State) (i : SlotN) (t : TrapInfo) : State :=
  let th := s.th i
  let s1 := s.setTh i { dropAwait th with inc := th.inc + 1, park := none, late := none, miss := none }
  s1.setSlot i { s1.slot i with trap := some ⟨t, th.pc, th.pc, if th.reg.isOpen then th.reg.next else th.pc, true⟩ }

/-! Seal entries (R34 to R38). -/

/-- The chunk with a number, through f. -/
def modChunk (t : Thread) (no : Nat) (f : Chunk → Chunk) : Thread :=
  { t with ended := t.ended.map fun c => if c.no = no then f c else c, cur := if t.cur.no = no then f t.cur else t.cur }
/-- Vector r of slot i takes x in the pool, its old entry saved first where this is its first sealed write in chunk no (R37,
R38). -/
def sealV (s : State) (i : SlotN) (no : Nat) (r : VNum) (x : VReg) : State :=
  let old := s.core.pool.get (s.vent i r)
  (s.modTh i fun t => modChunk t no fun c =>
    { c with vsave := if c.vsave.any (fun y => y.1 = r) then c.vsave else (r, old) :: c.vsave }).putV i r x
/-- The sealed plane of a thread: what the seal entries still on their way have found (R34). -/
def sealedPlane (t : Thread) : RegFile := match t.flight with | [] => t.regs | x :: _ => x.before
/-- The oldest seal entry of slot i is applied (R34, R36, R38): the sealed plane moves on past its packet; a staged result
enters the pool; a far vector's register takes the packet as its writer; a far entry whose value has arrived is freed. -/
def applySeal (s : State) (i : SlotN) : State :=
  let t := s.th i
  match t.flight with
  | [] => s
  | x :: rest =>
    let s1 := s.setTh i { t with
      flight := rest, staged := t.staged.filter fun y => decide (y.x.wseq ≠ x.seq)
      landed := t.landed.filter fun e => decide (e.seq ≠ x.seq)
      far := t.far.map fun e => if e.seq = x.seq then { e with sealed := true } else e }
    let s2 := (t.staged.filter fun y => decide (y.x.wseq = x.seq)).foldl (fun s y => sealV s i x.chunk y.reg y.x) s1
    match (t.far.find? fun e => decide (e.seq = x.seq)).bind (·.dest.vec?) with
    | some d => sealV s2 i x.chunk d { s2.core.pool.get (s2.vent i d) with wseq := x.seq }
    | none => s2
/-- Every seal entry of slot i is applied, oldest first. -/
def drainSeals (s : State) (i : SlotN) : State := (s.th i).flight.foldl (fun s _ => applySeal s i) s
/-- Is a kill packet of the slot on its way (R45)? -/
def killing (s : State) (i : SlotN) : Bool := s.agenda.any fun e => decide (e = .killApply i)
/-- Has the slot a packet in flight: one whose seal entry is on its way, one that awaits its value, or a kill (R24, R304)? -/
def inFlight (s : State) (i : SlotN) : Bool := decide ((s.th i).flight ≠ []) || (s.th i).await.isSome || killing s i

/-- The kill is applied at the foot, behind every seal entry (R45, R46, R305): for a trap an open region is undone and stays
open (R302), else the chunk ends (R278); a slot that was to stop has stopped (R321). -/
def killFoot (s0 : State) (i : SlotN) : State :=
  let s := drainSeals s0 i
  let x := s.slot i
  let s1 :=
    if x.trap.isNone then s
    else if x.th.reg.isOpen then
      let s1 := (squashFrom s i x.th.ended.length).modTh i fun t => { t with pc := x.th.reg.next }
      s1.setSlot i { s1.slot i with trap := x.trap }
    else s.setTh i (endChunk x.th)
  s1.setSlot i { s1.slot i with
    halting := false, stopped := x.stopped || x.halting || (x.trap.isSome && x.stop && decide (i ≠ ranger)) }

/-- TAKING AN EXCEPTION: the crown's decision, then the kill packet on its way to the foot (`killFoot`); a cause raised in slot
15 is not delivered but contains the core (R317). -/
def takeTrap (s : State) (i : SlotN) (t : TrapInfo) : State :=
  if i = ranger then
    { s with core := { s.core with halted := true }, agenda := s.agenda ++ [.coreContain 3] }
  else sendKill (crownTrap s i t) i

/-- A trap taken on fetch. -/
def fetchTrap (s : State) (i : SlotN) (t : TrapInfo) : State :=
  let s1 := takeTrap s i t
  if targetFault t then s1.setSlot i { s1.slot i with trap := (s1.slot i).trap.map fun r => { r with from_ := (s.th i).from_ } } else s1

/-- Park the slot at its own PC (R32). -/
def parkAt (s : State) (i : SlotN) (p : Park) : State := s.modTh i fun t => { t with park := some p }

/-- Is a packet's operation near or far (R30)? A far one's guard is a scalar's, or governs elements of width w (R43); a vector
destination is named. -/
inductive FarKind where
  | near
  | scalar
  | vec (w : Nat) (d : Option VNum)
deriving DecidableEq, Repr
/-- Which names a packet uses, for check 12 of R320 and the far-bit row of R39. -/
structure Names where
  /-- scalar sources -/
  src : List SReg
  /-- scalar destinations (a guarded packet reads them too, R42) -/
  dst : List SReg
  vec : List VNum
  psrc : List PReg
  pdst : List PReg
  /-- illegal in a guest (R68, R160) -/
  noGuest : Bool
  /-- illegal in the ranger slot (R160) -/
  noRanger : Bool
  far : FarKind
deriving DecidableEq, Repr

def Names.empty : Names := ⟨[], [], [], [], [], false, false, .near⟩

/-- Does the packet issue as a far one: its guard is poisoned, true, or awaits its writer (R43, R44)? -/
def isFar (s : State) (h : Hdr) (n : Names) : Bool :=
  match n.far with
  | .near => false
  | .scalar => gpois s h || gbit s h || s.ctl.awaits
  | .vec w _ => gpois s h || gany s h w || s.ctl.awaits
/-- Is the guard of a far operation false? -/
def offGuard (s : State) (h : Hdr) (n : Names) : Bool :=
  !gpois s h && (match n.far with | .near => false | .scalar => !gbit s h | .vec w _ => !gany s h w)
/-- Is a packet one of the near vector packets that R39 and R307 count? A far packet with a vector destination that its guard makes
near is one (R43). -/
def nearVector (s : State) (h : Hdr) (n : Names) : Bool :=
  match n.far with
  | .near => decide (n.vec ≠ [])
  | .scalar => false
  | .vec _ d => d.isSome && !isFar s h n
/-- The packet in hand, which found the thread as t0, is counted in its chunk and leaves its seal entry; the next packet gets a
number that nothing of the thread holds; the PC moves (R23, R24, R103, R288). The camp bit holds the thread while its far count
is not zero (R39). -/
def retire (h : Hdr) (nearVec : Bool) (t0 : Thread) (nx : Word) (s : State) (pc : Option Word) : State :=
  { s with ctl := { s.ctl with taken := [], narrow := false, awaits := false } }.modMe fun t =>
    let t1 := { t with flight := t.flight ++ [(⟨t.seq, t.cur.no, t0.regs, nearVec, s.ctl.narrow⟩ : Seal)] }
    { t1 with
      from_ := t0.pc, pc := pc.getD nx, seq := freeSeq (seqsHeld t1 ++ drainSeqs s s.ctl.cur) 256 (t.seq + 1),
      camp := h.c && decide (t.far ≠ []),
      cur := { t.cur with npkts := t.cur.npkts + 1 },
      miss := none }

/-- One count of R399 moved on; it saturates. -/
def bumpCount (l : List Nat) (k : Nat) : List Nat := l.modify k fun n => if n + 1 < 2 ^ 32 then n + 1 else n
/-- The slot has had its turn without issuing: the turn that the step counted as issued was one of class 1 (R39, R40, R399). -/
def passTurn (s : State) : State :=
  let k := 4 * s.ctl.cur.val
  { s with core := { s.core with issues := bumpCount (s.core.issues.modify k (· - 1)) (k + 1) } }

/-- Camp and far limits of R39 that hold before any packet issues. -/
def campBlocks (t : Thread) : Bool := t.camp && decide (t.far ≠ [])

/-- Is scalar name r valid in slot i (R48, R68)? -/
def nameOk (s : State) (i : SlotN) (r : SReg) : Bool :=
  decide (r.toNat < 8) || (if isGuest i then decide (r.toNat < 16) else decide (r.toNat < 8 + (s.th i).regs.win.size.toNat))
/-- Check 12 of R320. -/
def namesOk (s : State) (i : SlotN) (n : Names) : Bool :=
  (n.src ++ n.dst).all (nameOk s i) && n.vec.all (fun v => decide (v.toNat < s.allot i)) &&
    !(n.noGuest && isGuest i) && !(n.noRanger && decide (i = ranger))

/-- What of R39 keeps a packet from issuing: a source whose far bit is set, a guarded packet's destinations among them (R42);
for a far packet, a far count of 15 or no free entry; 8 packets in flight, or 4 near vector packets for one more; a packet that
awaits its value. -/
def farBlocks (s : State) (h : Hdr) (n : Names) : Bool :=
  let f := s.me.regs
  let gd := guarded h
  (n.src ++ (if gd then n.dst else [])).any (fun r => (f.s r).far) ||
    ((if gd then [h.g.extractLsb' 0 3] else []) ++ n.psrc ++ (if gd then n.pdst else [])).any (fun r => (f.p r).far) ||
    (isFar s h n && farFull s.me) || decide (8 ≤ s.me.flight.length) ||
    (nearVector s h n && decide (4 ≤ (s.me.flight.filter (·.vector)).length)) || (s.me.await.isSome && !s.ctl.came)

/-- R288: does a chunk exceed a limit? -/
def lineCount : List Nat → List Nat → Nat
  | [], seen => seen.length
  | a :: as, seen => lineCount as (if seen.contains a then seen else a :: seen)
def heldLines (c : Chunk) : List Nat :=
  c.stores.flatMap fun h => (List.range ((h.addr + h.data.length - 1) / 64 - h.addr / 64 + 1)).map fun j => h.addr / 64 + j
def overLimit (c : Chunk) : Bool :=
  decide (256 ≤ c.npkts) || decide (128 < lineCount (c.reads.map (·.line) ++ c.ghost.read) []) ||
    decide (64 < lineCount (heldLines c ++ c.ghost.held) []) ||
    decide (16 < c.inputs.length + c.ghost.inputs) || decide (32 < c.cons.length + c.ghost.cons) || decide (16 < c.vregs.length)

/-- After a packet that formed its own chunk: nothing is uncommitted (R297: the count of squashes is 0). -/
def freshChunk (s : State) : State := s.modMe fun t => { startChunk t t.pc with squash := 0 }

/-- Waits of a packet that has not issued: nothing is killed for them (R180, R199; log 11). -/
def waitsOnly : Park → Bool
  | .commit => true | .owed _ => true | _ => false
/-- What an answer comes to. -/
def finish (h : Hdr) (n : Names) (s : State) : PRes → State
  | .done s1 pc => retire h (nearVector s h n) s.me s.next s1 pc
  | .ends s1 pc => let s2 := retire h (nearVector s h n) s.me s.next s1 pc
                   s2.setMe (endChunk s2.me)
  | .own s1 pc => freshChunk (retire h (nearVector s h n) s.me s.next s1 pc)
  | .launch i => parkAt (s.modMe fun t => { t with
      await := some (i, s.ctl.curN), far := t.far ++ [⟨t.seq, t.inc, .none, some .discard, 0, false, t.cur.no, false, true⟩] }) s.ctl.cur .value
  | .trap t => takeTrap s s.ctl.cur t
  | .trapIn s1 t => takeTrap s1 s.ctl.cur t
  | .replay s1 p => if waitsOnly p then parkAt s1 s.ctl.cur p
      else sendKill (parkAt (s1.modMe fun t => { t with inc := t.inc + 1 }) s.ctl.cur p) s.ctl.cur
  | .stall => passTurn s
  | .hold s1 => s1
  | .gone s1 => s1
  | .abort s1 x => regionAbort s1 s.ctl.cur x

/-- Would the packet take its chunk past a limit of R288? One that carries a cause counts as a packet. -/
def crosses (s : State) : PRes → Bool
  | .done s1 _ => overLimit s1.me.cur
  | .ends s1 _ => overLimit s1.me.cur
  | .trap _ => overLimit s.me.cur
  | .trapIn _ _ => overLimit s.me.cur
  | .launch _ => overLimit s.me.cur
  | _ => false

/-- What the body's answer comes to, a packet past a limit starting a new chunk or aborting its region (R288). -/
def conclude (h : Hdr) (n : Names) (body : State → PRes) (s : State) (r : PRes) : State :=
  if !crosses s r then finish h n s r
  else if s.me.reg.isOpen then regionAbort s s.ctl.cur 4
  else finish h n (s.setMe (endChunk s.me)) (body (s.setMe (endChunk s.me)))

/-- Checks 12 and 13 of R320. -/
def early (s : State) (n : Names) (isFrame : Bool) : Bool :=
  !namesOk s s.ctl.cur n || (s.me.regs.win.pend && !isFrame)

/-- Does the guard's writer stand among the packets in flight (R43)? -/
def guardWriting (s : State) (h : Hdr) : Bool :=
  decide (h.g.extractLsb' 0 3 ≠ 0) && s.me.flight.any fun x => decide (x.seq = (s.p (h.g.extractLsb' 0 3)).wseq)
/-- Whether a writer in flight has reached the foot when the packet reads its guard is a matter of timing (R43, R44; log 2). -/
def armGuard (s : State) (h : Hdr) : State :=
  if guardWriting s h then
    { s with ctl := { s.ctl with awaits := decide (Config.choice s.ctl.free 2 % 2 = 1), free := s.ctl.free + 1 } }
  else s
/-- The guard taken as true. -/
def forced (s : State) (h : Hdr) : State :=
  s.modRegs fun f => f.setP (h.g.extractLsb' 0 3) ⟨if h.g.getLsbD 3 then 0 else BitVec.allOnes 64, false, false, 0⟩
/-- What the packet would have recorded under a true guard counts toward the limits of R288 where its guard awaited its writer. -/
def haunt (s1 : State) : PRes → State
  | .done s2 _ => s1.modMe fun t =>
    let c := t.cur
    let d := s2.me.cur
    let more (seen mine have_ : List Nat) : List Nat := have_ ++ seen.filter fun l => !have_.contains l && !mine.contains l
    { t with cur := { c with
      vregs := d.vregs
      ghost := ⟨more (d.reads.map (·.line)) (c.reads.map (·.line)) c.ghost.read, more (heldLines d) (heldLines c) c.ghost.held,
        c.ghost.inputs + (d.inputs.length - c.inputs.length), c.ghost.cons + (d.cons.length - c.cons.length)⟩ } }
  | _ => s1
/-- A far packet under a false guard that is known at the foot re-emits its old scalar as a near one (R43). -/
def reemit (n : Names) (s s1 : State) : State :=
  match n.far, n.dst with
  | .scalar, [d] => s1.wrT d (s.s d).v (s.s d).p (s.tag d)
  | _, _ => s1
/-- A far packet whose awaited guard turns out false launches nothing; its entry delivers the old value (R44). One that owes
nothing takes no entry (R231). -/
def oweOld (n : Names) (s s1 : State) : State :=
  let s0 := (s.modRegs fun f => { f with seed := s1.me.regs.seed }).modMe fun t => { t with cur := { t.cur with
    ghost := s1.me.cur.ghost, vregs := s1.me.cur.vregs } }
  match n.far, n.dst with
  | .scalar, [d] => s0.farS d (some (.scalar (s.s d) (s.tag d))) 0 false
  | .vec _ (some d), _ => s0.farV d (some (.vec (s.v d))) 0
  | _, _ => s1
/-- Is a vector destination a stream (R57)? -/
def streamDest (t : Thread) (n : Names) : Bool :=
  match n.far with
  | .vec _ (some d) => decide (28 ≤ d.toNat) && decide ((t.binds.get (fin4 (d.toNat - 28))).kind ≠ .unbound)
  | _ => false
/-- The body with what its guard adds: the limits of R288, and the old value of a far packet that is not launched. -/
def underGuard (h : Hdr) (n : Names) (body : State → PRes) (s : State) : PRes :=
  match body s with
  | .done s1 pc =>
    let s2 := if s.ctl.awaits then haunt s1 (body (forced s h)) else s1
    .done (if offGuard s h n then (if s.ctl.awaits && !streamDest s.me n then oweOld n s s2 else reemit n s s2) else s2) pc
  | r => r

/-- The frame of every packet of the current slot: the issue conditions of R39, checks 12 and 13 of R320, then the body.
Nothing acts outside the core before the packet is past its last check (R33), near or far (R30). -/
def runPacket (h : Hdr) (n : Names) (isFrame : Bool) (body : State → PRes) (s0 : State) :
    Host.Outcome State Fault Refusal :=
  let s := armGuard s0 h
  if campBlocks s.me || farBlocks s h n then .next (passTurn s)
  else if early s n isFrame then .next (takeTrap s s.ctl.cur (trapOf cIllegal))
  else .next (conclude h n (underGuard h n body) s (underGuard h n body s))

/-- Privileged instructions are legal only in slot 15 (R118). -/
def privileged (s : State) (k : Host.Outcome State Fault Refusal) : Host.Outcome State Fault Refusal :=
  if s.ctl.cur = ranger then k else .next (takeTrap s s.ctl.cur (trapOf cPrivileged))

/-- The end of a packet in an open region that ends chunks (R301), else what follows. -/
def regionStop (s : State) (k : PRes) : PRes := if s.me.reg.isOpen then .abort s 4 else k
/-- CommitWait before the packet acts (R156, R158; log 11): it issues once the thread has nothing uncommitted. In an open
region a chunk-ending instruction aborts it with CAUSE 4 (R301). -/
def commitWait (s : State) (k : State → PRes) : PRes :=
  let t := s.me
  if t.reg.isOpen then .abort s 4
  else if uncommitted t then .replay (s.setMe (endChunk t)) .commit
  else k s

/-! Stopping a slot (R321) and the cross-trigger halt (R398). -/

/-- The waits that a stop keeps: JOIN, WAKEAT, BARC, BARG, SETTLE (R321 step 4), and in slot 15 IDLE and a command that must
complete before the ranger issues (R398). -/
def keptPark : Option Park → Option Park
  | some (.join r n) => some (.join r n)
  | some (.wakeAt t) => some (.wakeAt t)
  | some (.barc c n k) => some (.barc c n k)
  | some (.barg g) => some (.barg g)
  | some .settle => some .settle
  | some .idle => some .idle
  | some .command => some .command
  | _ => none

/-- A waiting singleton is squashed and the PC goes back to it; younger chunks go with it (R321 step 4). -/
def dropSync (s : State) (i : SlotN) : State :=
  match (s.th i).sync with
  | none => s
  | some w =>
    let s1 := squashFrom s i 0
    let t := restoreBinds (s1.th i) [w.chunk]
    s1.setTh i (startChunk { t with sync := none, regs := w.chunk.ckpt.concrete, pc := w.pc, from_ := w.chunk.from_, far := t.far.filter fun e =>
      match w.ref with | some r => !(decide (e.seq = r.seq) && decide (e.inc = r.inc)) | none => true } w.pc)

/-- Has the thread's waiting singleton left for a home in another package, which has not answered yet (R285)? -/
def askedAway (t : Thread) : Bool := match t.sync with | some w => w.asked | none => false
/-- The restart point of a stopped thread (R321 steps 2 to 4): an open region is undone and waits at Next of its PITCH, a waiting
singleton is squashed, once its home has answered where it has left for one; else the open chunk ends at the oldest unretired
packet. -/
def restartPoint (s : State) (i : SlotN) : State :=
  let th := s.th i
  if th.reg.isOpen then
    (squashFrom s i th.ended.length).modTh i fun t => { t with
      pc := th.reg.next, reg := { th.reg with last := 6 } }
  else if th.sync.isSome && !askedAway th then dropSync s i
  else s.modTh i fun t => { endChunk (dropAwait t) with park := keptPark t.park }
/-- The crown stops slot i (R321 steps 2 to 5): a fault already carried is taken as usual, a thread whose HIKE has retired goes
on, any other is killed at its restart point. The slot has stopped once the kill is applied at the foot (step 6, `killFoot`). -/
def stopSlot (s : State) (i : SlotN) : State :=
  let x := s.slot i
  let mark (s : State) : State := s.setSlot i { s.slot i with halting := true }
  if !x.occ then s.setSlot i { x with stopped := true }
  else if x.trap.isSome then (if killing s i then mark s else s.setSlot i { x with stopped := true })
  else match x.th.late with
  | some (t, pc) => mark (takeTrap (s.modTh i fun y => { y with pc := pc, cur := { y.cur with pc := pc } }) i t)
  | none => match x.th.park with
    | some (.hike _) => s
    | _ => sendKill (mark ((restartPoint s i).modTh i fun t => { t with inc := t.inc + 1 })) i

/-- The core halts: every slot stops (R398). -/
def haltCore (s : State) : State :=
  let s1 := allSlots.foldl stopSlot s
  { s1 with core := { s1.core with halted := true } }
/-- A cross-trigger: the cluster's cores halt (R398). -/
def crossTrigger (s : State) : State :=
  let s1 := (haltCore s).send (.halt s.core.id)
  { s1 with cl := { s1.cl with dbg := { s1.cl.dbg with halted := true } } }

end Sys2Proof.Machine
end

