-- ==== Sys2Proof/Machine/Flags.lean ====
section
/-! DEFINITION. FPFLAGS, FPCTL and SEED (R64, R136, R138, R140, R153, R198 to R200), and CHECK (R64, R180). -/
namespace Sys2Proof.Machine

/-- The rounding mode of a code of R136. -/
def modeOf (n : Nat) : RMode :=
  match n with | 0 => .rne | 1 => .rz | 2 => .rdn | 3 => .rup | 4 => .rna | 5 => .sr | _ => .rne
/-- The effective rounding of a field: the dynamic code takes FPCTL.RMODE at issue (R136). -/
def effMode (s : State) (rm : Rm) : RMode :=
  match rm with
  | .rne => .rne | .rz => .rz | .rdn => .rdn | .rup => .rup | .rna => .rna | .sr => .sr
  | .dyn => modeOf (s.me.regs.fpctl.extractLsb' 0 3).toNat
/-- The trap enables FPCTL[7:3], in the order of FPFLAGS[4:0]. -/
def enables (s : State) : BitVec 5 := s.me.regs.fpctl.extractLsb' 3 5
/-- Is any trap enabled (R200)? -/
def anyEnable (s : State) : Bool := decide (enables s ≠ 0)
/-- FP Exception, where a flag would be raised whose trap is enabled (R140): TRAPINFO names the flags. -/
def fpTrap (s : State) (fl : Flags) : Option TrapInfo :=
  if fl.extractLsb' 0 5 &&& enables s ≠ 0 then some ⟨cFp, fl.setWidth 64, 0⟩ else none
/-- Flags are sticky (R198). -/
def orFlags (s : State) (fl : Flags) : State := s.modRegs fun f => { f with fpflags := f.fpflags ||| fl }

/-- The draws of a packet under a mode: n steps of SEED in program order under SR, none under G = 0b1000 (R138). -/
def draws (s : State) (h : Hdr) (mode : RMode) (n : Nat) : List Word :=
  if mode = .sr ∧ ¬ gnever h then seedRun n s.me.regs.seed else []
/-- SEED after those draws. -/
def stepSeed (s : State) (h : Hdr) (mode : RMode) (n : Nat) : State :=
  if mode = .sr ∧ ¬ gnever h then s.modRegs fun f => { f with seed := seedAfter n f.seed } else s
/-- The 24 bits of the one draw of a scalar. -/
def draw1 (s : State) (h : Hdr) (mode : RMode) : Nat := rnd24 (draws s h mode 1) 0

/-- Is a far packet that can set FPFLAGS still owed its value, or a narrowing VST not yet sealed (R199)? -/
def flagsOwed (t : Thread) : Bool := t.far.any (·.fp) || t.flight.any (·.narrow)

/-! CHECK. -/

/-- A count of CHECK advances and saturates at 255 (R64). -/
def bump (c : BitVec 32) (at_ : Nat) : BitVec 32 :=
  let n := (c.extractLsb' at_ 8).toNat
  let n' : Nat := if n = 255 then 255 else n + 1
  (c &&& ~~~((255 : BitVec 32) <<< at_)) ||| (BitVec.ofNat 32 n' <<< at_)
/-- Bits of CHECK cleared by a W1C of a mask: a flag or a whole count with every bit named (R64, R2). -/
def CheckUpd.apply (c : BitVec 32) : CheckUpd → BitVec 32
  | .loaded => bump (c ||| 1) 8
  | .stored => bump (c ||| 2) 16
  | .matrix => bump (c ||| 4) 24
  | .clear m => c &&& ~~~m
/-- Updates in order (R180). -/
def applyCheck (c : BitVec 32) (us : List CheckUpd) : BitVec 32 := us.foldl CheckUpd.apply c
/-- Two CHECK values merged: flags ORed, counts added and saturated (R352). -/
def mergeCheck (a b : BitVec 32) : BitVec 32 :=
  let add (p : Nat) : Nat := min 255 ((a.extractLsb' p 8).toNat + (b.extractLsb' p 8).toNat)
  ((a ||| b) &&& 7) ||| (BitVec.ofNat 32 (add 8) <<< 8) ||| (BitVec.ofNat 32 (add 16) <<< 16) ||| (BitVec.ofNat 32 (add 24) <<< 24)
/-- The thread's CHECK as it would read now: committed, then ended chunks' updates, then this chunk's (R180). -/
def readCheck (t : Thread) : BitVec 32 :=
  applyCheck t.check (t.ended.flatMap (·.check) ++ t.cur.check)
/-- An update of the chunk in hand. -/
def checkUpd (s : State) (u : CheckUpd) : State := s.modMe fun t => { t with cur := { t.cur with check := t.cur.check ++ [u] } }
def checkIf (s : State) (c : Bool) (u : CheckUpd) : State := if c then checkUpd s u else s
/-- An update of the committed CHECK of a slot's thread, at the moment of the event (R64). -/
def checkNow (s : State) (i : SlotN) (u : CheckUpd) : State := s.modTh i fun t => { t with check := u.apply t.check }

end Sys2Proof.Machine
end

