-- ==== Sys2Proof/Machine/Ranges.lean ====
section
/-! DEFINITION. Translation by ranges: descriptors (R359, R361), placement (R362), the table walk (R363, R365), the range
caches (R366), the pad (R229, R244, R314), and the translation of an access (R368). -/
namespace Sys2Proof

/-- A virtual address: reach in [79:64], offset below (R7). -/
def vaOf (reach : BitVec 16) (off : Word) : Nat := reach.toNat * 2 ^ 64 + off.toNat
def RangeDesc.cache (d : RangeDesc) : Nat := (d.attr.extractLsb' 2 2).toNat
def RangeDesc.place (d : RangeDesc) : Nat := (d.attr.extractLsb' 4 2).toNat
def RangeDesc.sync (d : RangeDesc) : Bool := d.attr.getLsbD 0
def RangeDesc.stashOk (d : RangeDesc) : Bool := d.attr.getLsbD 1
def RangeDesc.compacting (d : RangeDesc) : Bool := d.attr.getLsbD 6
def RangeDesc.valid (d : RangeDesc) : Bool := d.attr.getLsbD 7
/-- Does the descriptor give every permission of a list? -/
def RangeDesc.has (d : RangeDesc) (ps : List Nat) : Bool := ps.all fun p => d.perm.getLsbD p

def WordRef.va (r : WordRef) : Nat := vaOf r.reach r.off
/-- A word name moved on by k bytes. -/
def WordRef.plus (r : WordRef) (k : Nat) : WordRef := { r with off := r.off + BitVec.ofNat 64 k }

end Sys2Proof

namespace Sys2Proof.Machine

def localReach : BitVec 16 := 0xFFFF
def vaReach (va : Nat) : BitVec 16 := BitVec.ofNat 16 (va / 2 ^ 64)
def vaOff (va : Nat) : Word := BitVec.ofNat 64 va

/-! Descriptors. -/

/-- PERM bits (R359) and what each allows (R360): the accesses name the bits they need. -/
def permR : Nat := 0
def permW : Nat := 1
def permX : Nat := 2
def permA : Nat := 3
def permE : Nat := 4
/-- A descriptor read from memory, with whether its reserved bytes are zero (R359). -/
def readDesc (m : Memory) (a : Nat) : RangeDesc × Bool :=
  let f (o n : Nat) : Nat := m.nat (a + o) n
  (⟨f 0 9 * 256, f 9 9 * 256, f 18 9 * 256, f 27 5 * 256, BitVec.ofNat 8 (f 32 1), BitVec.ofNat 8 (f 33 1), f 40 5 * 256,
    f 45 9 * 256⟩,
    decide (f 34 6 = 0) && decide (f 54 2 = 0) && decide (f 32 1 < 32))

/-- The bytes the device writes of a descriptor; SOFT is left alone (R359). -/
def descBytes (d : RangeDesc) : List Byte :=
  leBytes 9 (d.base / 256) ++ leBytes 9 (d.limit / 256) ++ leBytes 9 (d.wmark / 256) ++ leBytes 5 (d.phys / 256) ++
    [d.perm, d.attr] ++ leBytes 6 0 ++ leBytes 5 (d.newPhys / 256) ++ leBytes 9 (d.mark / 256) ++ leBytes 2 0

/-- The rule of R361 for a physical base under the descriptor's PLACE. -/
def physOk (own : BitVec 8) (d : RangeDesc) (p : Nat) : Bool :=
  let size := d.limit - d.base
  let pk := p / 2 ^ 40
  let lo := p % 2 ^ 40
  match d.place with
  | 0 => decide (pk = own.toNat) && decide (lo < 0xC000000000) &&
      decide (lo / 0x3000000000 = (lo + size - 1) / 0x3000000000)
  | 1 => decide (pk = own.toNat) && decide (p / 256 % 16 = 0) && decide (lo + (size + 16383) / 16384 * 4096 ≤ 0x3000000000)
  | 2 => decide (p + size ≤ 2 ^ 48)
  | _ => decide (pk ≠ own.toNat) && decide (lo + size ≤ 0xC000000000)

/-- R361. -/
def descOk (own : BitVec 8) (d : RangeDesc) (resv : Bool) : Bool :=
  d.valid && decide (d.cache ≠ 3) && resv && decide (d.base < d.limit) && decide (d.base ≤ d.wmark) &&
    decide (d.wmark ≤ d.limit) && decide (d.base / 2 ^ 64 = (d.limit - 256) / 2 ^ 64) &&
    decide (d.base / 2 ^ 64 ≠ 0xFFFF) && physOk own d d.phys && !(d.sync && decide (d.place = 2)) &&
    (!d.compacting || (decide (d.place ≠ 2) && decide (d.base ≤ d.mark) && decide (d.mark ≤ d.wmark) && physOk own d d.newPhys))

/-- Place(d, va) of R362, host addresses from 2^48 (log 7). -/
def placeAddr (d : RangeDesc) (va : Nat) : Nat :=
  let t := va - d.base
  let p := if d.compacting && decide (va < d.mark) then d.newPhys else d.phys
  match d.place with
  | 1 =>
    let c := t / 4096
    p / 2 ^ 40 * 2 ^ 40 + (c % 4 * 0x3000000000 + p % 2 ^ 40 + c / 4 * 4096 + t % 4096)
  | 2 => hostBase + p + t
  | _ => p + t

/-- What lies outside this package's own memory (R283, R286, R295). -/
def isHost (a : Nat) : Bool := decide (hostBase ≤ a) && decide (a < padBase)
def isPad (a : Nat) : Bool := decide (padBase ≤ a)
def isRemote (s : State) (a : Nat) : Bool := decide (a < hostBase) && decide (a / 2 ^ 40 ≠ s.pkg.mgmt.pkg.toNat)
/-- Does a physical address name memory (R358)? -/
def hasMemory (a : Nat) : Bool :=
  (decide (a < hostBase) && decide (a % 2 ^ 40 < 0xC000000000)) || isHost a || (isPad a && decide (a < padBase + padSize))

/-! The walk. -/

/-- What a walk finds. -/
inductive Walked where
  | locked
  | none
  | found (d : RangeDesc) (at_ : Nat)
deriving DecidableEq, Repr

/-- The binary search of R365 over hi − lo descriptors. -/
def searchGo (m : Memory) (table va : Nat) : Nat → Nat → Nat → Nat
  | 0, lo, _ => lo
  | fuel + 1, lo, hi =>
    if hi - lo ≤ 1 then lo
    else
      let mid := (lo + hi) / 2
      if m.nat (table + 64 * mid) 9 * 256 ≤ va then searchGo m table va fuel mid hi else searchGo m table va fuel lo mid

/-- A directory entry's address, for a space of the partition (R363). -/
def dirEntry (s : State) (space : BitVec 16) : Option Nat :=
  match s.part.cfg with
  | none => none
  | some c => if c.spaceLo.toNat ≤ space.toNat ∧ space.toNat ≤ c.spaceHi.toNat then
      some (c.spdir + 16 * (space.toNat - c.spaceLo.toNat)) else none

/-- Walk(space, va) of R365; `locked` where LOCK is set and the walker waits. -/
def walk (s : State) (space : BitVec 16) (va : Nat) : Walked :=
  match dirEntry s space with
  | none => .none
  | some e =>
    if s.mem.poisAny e 16 then .none
    else if s.mem.nat (e + 12) 4 ≥ 2 ^ 31 then .locked
    else
      let table := s.mem.nat e 6
      let count := s.mem.nat (e + 8) 4
      if count = 0 then .none
      else
        let i := searchGo s.mem table va 33 0 count
        let a := table + 64 * i
        let (d, resv) := readDesc s.mem a
        if d.base ≤ va ∧ va < d.limit ∧ descOk s.pkg.mgmt.pkg d resv ∧ ¬ s.mem.poisAny a 64 then .found d a else .none

/-! Range caches. -/

def rcFind (l : List RCEntry) (space : BitVec 16) (va : Nat) : Option RangeDesc :=
  (l.find? fun e => e.space = space && decide (e.d.base ≤ va) && decide (va < e.d.limit)).map (·.d)
/-- A new entry in front; what it overlaps and what exceeds the size goes (R366). -/
def rcAdd (n : Nat) (l : List RCEntry) (space : BitVec 16) (d : RangeDesc) : List RCEntry :=
  (⟨space, d⟩ :: l.filter fun e => !(e.space = space && decide (e.d.base < d.limit) && decide (d.base < e.d.limit))).take n
/-- Entries of a space that overlap a span go (R337). -/
def rcDrop (l : List RCEntry) (space : BitVec 16) (lo hi : Nat) : List RCEntry :=
  l.filter fun e => !(e.space = space && decide (e.d.base < hi) && decide (lo < e.d.limit))

/-! The pad. -/

/-- The pad byte of a local offset and its alias window, none where R229 gives No Range. -/
def padOff (off : Word) : Option (Nat × Nat) :=
  if off.extractLsb' 19 1 ≠ 0 ∨ off.extractLsb' 23 41 ≠ 0 then none
  else some ((off.extractLsb' 0 19).toNat, (off.extractLsb' 20 3).toNat)

/-- The span that maps a pad byte, if any (R244). -/
def spanAt (s : State) (p : Nat) : Option Span := s.cl.spans.find? fun x => decide (x.pad ≤ p) && decide (p < x.pad + x.len)

/-- The bedroll area as pad bytes (R313, R314). -/
def bedrollBase (s : State) : Nat := (s.core.priv.bedroll.extractLsb' 0 9).toNat * 1024
def bedrollFrames (s : State) : Nat := (s.core.priv.bedroll.extractLsb' 16 9).toNat
def inBedroll (s : State) (p : Nat) : Bool :=
  decide (bedrollBase s ≤ p) && decide (p < bedrollBase s + 1024 * bedrollFrames s)

/-- One byte's translation. -/
inductive BRes where
  | ok (a : Nat) (fe : Bool)
  | bad (cause : BitVec 8)
  | miss
  | padMiss (line : Nat)
deriving DecidableEq, Repr

/-- A byte outside the pad by the device's own walk, which no range cache serves (R365, R370). -/
def memByte (s : State) (space : BitVec 16) (va : Nat) (ps : List Nat) : BRes :=
  match walk s space va with
  | .locked => .miss
  | .none => .bad cNoRange
  | .found d _ =>
    if va ≥ d.wmark then .bad cResidency else if !d.has ps then .bad cPermission else .ok (placeAddr d va) d.sync

/-- The global byte behind a pad byte of a span, needing R (R244, R371). -/
def Span.behind (sp : Span) (p : Nat) : Nat := (sp.global.plus (p - sp.pad)).va
/-- Why an unfilled line of a span cannot fill: its table maps it no longer, which the local reach calls No Range whatever the
watermark says, or without R (R229, R371); with W wanted, a range without it (R244). -/
def unfilledBad (s : State) (sp : Span) (p : Nat) (ps : List Nat) : Option (BitVec 8) :=
  match memByte s sp.global.space (sp.behind p) (permR :: ps.filter (· = permW)) with
  | .bad c => some (if c = cResidency then cNoRange else c)
  | _ => none
/-- A pad byte for slot i needing permissions ps (R229, R244, R314); a stashed line fills at its first touch (R371). -/
def padByte (s : State) (i : SlotN) (off : Word) (ps : List Nat) : BRes :=
  match padOff off with
  | none => .bad cNoRange
  | some (p, _) =>
    if ps.contains permX then .bad cPermission
    else if i ≠ ranger ∧ inBedroll s p then .bad cPermission
    else match spanAt s p with
      | none => .ok (padBase + p) true
      | some sp =>
        match sp.filled.find? fun x => x.1 = p / 64 with
        | none => match unfilledBad s sp p [] with
          | some c => .bad c
          | none => .padMiss (p / 64)
        | some (_, g, w) => if ps.contains permW && !w then .bad cPermission else .ok (g * 64 + p % 64) true

/-- One byte of an access by the thread of slot i (R366, R368). -/
def xByte (s : State) (i : SlotN) (space : BitVec 16) (va : Nat) (ps : List Nat) : BRes :=
  if vaReach va = localReach then padByte s i (vaOff va) ps
  else match rcFind s.core.rcache space va with
    | none => if (s.th i).miss = some va then .bad cNoRange else .miss
    | some d =>
      if va ≥ d.wmark then .bad cResidency
      else if !d.has ps then .bad cPermission
      else .ok (placeAddr d va) d.sync

/-- A whole access (R368). -/
inductive XRes where
  | ok (as : List Nat)
  | bad (cause : BitVec 8) (off : Word)
  | miss (va : Nat)
  | padMiss (line : Nat)
deriving DecidableEq, Repr

/-- Translate(va, n, P): the physical address of each byte, or the first byte's failure. -/
def xlate (s : State) (i : SlotN) (space : BitVec 16) (ps : List Nat) : Nat → Nat → XRes
  | _, 0 => .ok []
  | va, n + 1 =>
    match xByte s i space va ps with
    | .ok a _ => match xlate s i space ps (va + 1) n with
      | .ok as => .ok (a :: as)
      | r => r
    | .bad c => .bad c (vaOff va)
    | .miss => .miss va
    | .padMiss l => .padMiss l

/-- A span that must lie in one range (R368): bytes outside the range that holds the first byte fail with No Range. The
answer is the range, none for the pad. -/
inductive SRes where
  | ok (d : Option RangeDesc)
  | bad (cause : BitVec 8) (off : Word)
  | miss (va : Nat)
deriving DecidableEq, Repr

/-- Why a line of the pad refuses an access, bedroll apart. -/
def padLineBad (s : State) (ps : List Nat) (line : Nat) : Option (BitVec 8) :=
  match spanAt s (64 * line) with
  | none => none
  | some sp => match sp.filled.find? fun x => x.1 = line with
    | some (_, _, w) => if ps.contains permW && !w then some cPermission else none
    | none => unfilledBad s sp (64 * line) ps
/-- The first byte of n pad bytes at p that fails, with its cause (R229, R244, R314). -/
def padFirstBad (s : State) (i : SlotN) (ps : List Nat) (p n : Nat) : Option (Nat × BitVec 8) :=
  let room : Option (Nat × BitVec 8) :=
    if i ≠ ranger ∧ bedrollFrames s ≠ 0 ∧ p < bedrollBase s + 1024 * bedrollFrames s ∧ bedrollBase s < p + n then
      some (max p (bedrollBase s), cPermission) else none
  let line : Option (Nat × BitVec 8) :=
    if s.cl.spans = [] then none
    else ((List.range ((p + n - 1) / 64 - p / 64 + 1)).map (p / 64 + ·)).findSome? fun l =>
      (padLineBad s ps l).map fun c => (max p (64 * l), c)
  match room, line with
  | some x, some y => some (if x.1 ≤ y.1 then x else y)
  | some x, none => some x
  | none, y => y
/-- The first pad byte of a span that fails. -/
def padSpan (s : State) (i : SlotN) (ps : List Nat) (off : Word) (n : Nat) : SRes :=
  match padOff off with
  | none => .bad cNoRange off
  | some (p, _) =>
    if ps.contains permX then .bad cPermission off
    else match padFirstBad s i ps p (min n (padSize - p)) with
      | some (q, c) => .bad c (off + BitVec.ofNat 64 (q - p))
      | none => if p + n > padSize then .bad cNoRange (off + BitVec.ofNat 64 (padSize - p)) else .ok none
/-- The location of a pad byte: a stashed line is its global line (R277). -/
def padLoc (s : State) (p : Nat) : Nat :=
  match spanAt s p with
  | none => padBase + p
  | some sp => match sp.filled.find? fun x => x.1 = p / 64 with
    | some (_, g, _) => g * 64 + p % 64
    | none => match memByte s sp.global.space (sp.behind p) [] with
      | .ok a _ => a
      | _ => padBase + p

def xSpan (s : State) (i : SlotN) (space : BitVec 16) (ps : List Nat) (va n : Nat) : SRes :=
  if n = 0 then .ok none
  else if vaReach va = localReach then padSpan s i ps (vaOff va) n
  else match rcFind s.core.rcache space va with
    | none => if (s.th i).miss = some va then .bad cNoRange (vaOff va) else .miss va
    | some d =>
      if va ≥ d.wmark then .bad cResidency (vaOff va)
      else if !d.has ps then .bad cPermission (vaOff va)
      else if va + n ≤ d.wmark then .ok (some d)
      else if d.wmark < d.limit then .bad cResidency (vaOff d.wmark)
      else .bad cNoRange (vaOff d.limit)

/-! Translation outside the range caches (R365, R370): engines, walkers, the port. -/

/-- The physical address of a byte by the device's own walk; a pad byte stands for itself. -/
def devByte (s : State) (space : BitVec 16) (va : Nat) (ps : List Nat) : BRes :=
  if vaReach va = localReach then padByte s 0 (vaOff va) ps else memByte s space va ps

/-- A span that must lie in one range, by the device's own walk (R249, R368): the range's base, 0 for the pad. -/
inductive DSpan where
  | ok (base : Nat)
  | wait
  | bad
deriving DecidableEq, Repr
def devSpan (s : State) (space : BitVec 16) (ps : List Nat) (va n : Nat) : DSpan :=
  if n = 0 then .ok 0
  else if vaReach va = localReach then
    (match padSpan s 0 ps (vaOff va) n with | .ok _ => .ok 0 | _ => .bad)
  else match walk s space va with
    | .locked => .wait
    | .none => .bad
    | .found d _ => if va + n ≤ d.wmark ∧ d.has ps then .ok d.base else .bad

/-- Is an invalidation of a space pending (R370)? -/
def invalPending (s : State) (space : BitVec 16) : Bool := s.pkg.invals.contains space

/-- n bytes by the device's own walk. -/
def devAddrs (s : State) (space : BitVec 16) (ps : List Nat) : Nat → Nat → XRes
  | _, 0 => .ok []
  | va, n + 1 =>
    match devByte s space va ps with
    | .ok a _ => match devAddrs s space ps (va + 1) n with
      | .ok as => .ok (a :: as)
      | r => r
    | .bad c => .bad c (vaOff va)
    | .miss => .miss va
    | .padMiss l => .padMiss l

/-- Bytes at scattered addresses. -/
def Memory.gather (m : Memory) (as : List Nat) : List Byte := as.map m.byte
def Memory.gatherP (m : Memory) (as : List Nat) : Bool := as.any m.pois

end Sys2Proof.Machine
end

