-- ==== Sys2Proof/Machine/Chunk.lean ====
section
/-! DEFINITION. Chunks at work: what a thread sees of memory (R279, R283), its loads and stores and their records (R230, R288,
R292, R294), data breakpoints (R397), conflicts (R289), commit and repair (R295), squash counts and solo execution (R297,
R298). -/
namespace Sys2Proof

/-- Bytes of an access type (R232). -/
def IType.size (t : IType) : Nat :=
  match t with | .i8 => 1 | .n8 => 1 | .i16 => 2 | .n16 => 2 | .i32 => 4 | .n32 => 4 | .i64 => 8
/-- The register value of loaded bytes (R232). -/
def IType.extend (t : IType) (v : Nat) : Word :=
  match t with
  | .i8 => (BitVec.ofNat 8 v).signExtend 64 | .n8 => BitVec.ofNat 64 (v % 2 ^ 8)
  | .i16 => (BitVec.ofNat 16 v).signExtend 64 | .n16 => BitVec.ofNat 64 (v % 2 ^ 16)
  | .i32 => (BitVec.ofNat 32 v).signExtend 64 | .n32 => BitVec.ofNat 64 (v % 2 ^ 32)
  | .i64 => BitVec.ofNat 64 v
end Sys2Proof

namespace Sys2Proof.Machine

/-! Opaque inputs (R293). -/

/-- Input i of the chunk becomes opaque. -/
def setOpaque : List Input → Nat → List Input
  | [], _ => []
  | x :: xs, 0 => { x with opaque_ := true } :: xs
  | x :: xs, i + 1 => x :: setOpaque xs i
/-- Every input that a list of tags names becomes opaque. -/
def opaqueTags (s : State) (ts : List Tag) : State :=
  let is := ts.filterMap fun t => t.map (·.1)
  if is.isEmpty then s
  else s.modMe fun t => { t with cur := { t.cur with inputs := is.foldl setOpaque t.cur.inputs } }
/-! The thread's view. -/

/-- Held stores applied in program order. -/
def heldTo (m : Memory) (hs : List Held) : Memory := hs.foldl (fun m h => m.store h.addr h.data h.p) m
def outTo (m : Memory) (os : List OutStore) : Memory := os.foldl (fun m o => m.store o.addr o.data o.p) m
/-- Memory as the thread of slot i loads it: its pending remote and host stores, then its uncommitted stores (R279, R283). -/
def viewMem (s : State) (i : SlotN) : Memory :=
  let t := s.th i
  heldTo (outTo (outTo s.mem t.sent) t.pend) (t.ended.flatMap (·.stores) ++ t.cur.stores)

/-! Checked accesses. -/

/-- A checked access: the physical address of each byte, or how the packet ends. -/
inductive Acc where
  | ok (as : List Nat)
  | stop (r : PRes)

/-- TRAPAUX of a data access (R318): reach, lowest faulting lane. -/
def auxOf (reach : BitVec 16) (lane : Option Nat) : Word :=
  match lane with
  | none => reach.setWidth 64
  | some l => BitVec.ofNat 64 (reach.toNat + l * 2 ^ 16 + 2 ^ 21)

/-- Do n bytes from offset o, wrapping at 2^64, meet [lo, hi)? -/
def spanMeets (o n lo hi : Nat) : Bool :=
  (decide (lo < o + n) && decide (o < hi)) && decide (0 < n) || (decide (lo + 2 ^ 64 < o + n) && decide (lo < hi))
/-- The data range of the debug module that an access meets (R397), with its HALT bit. -/
def dataBreak (s : State) (i : SlotN) (reach : BitVec 16) (off : Word) (n : Nat) (load store : Bool) : Option Bool :=
  let d := s.cl.dbg
  if !(d.bpctl.getLsbD (8 + i.val)) then none
  else ((List.finRange 2).find? fun k =>
    let kind := d.drctl.extractLsb' (32 + 2 * k.val) 2
    ((load && kind.getLsbD 0) || (store && kind.getLsbD 1)) && decide (d.drctl.extractLsb' (16 * k.val) 16 = reach) &&
      spanMeets off.toNat n (d.drbase.get k).toNat (d.drlimit.get k).toNat).map fun k => d.drctl.getLsbD (36 + k.val)

/-- How a packet ends at a data breakpoint: Debug Break, or the cross-trigger (R397). -/
def brkRes (s : State) (reach : BitVec 16) (off : Word) (lane : Option Nat) (halt : Bool) : PRes :=
  if halt then .hold (crossTrigger s) else .trap ⟨cDebug, off, auxOf reach lane⟩

/-- A translation miss: the packet replays while the walker fills (R32, R366). -/
def missRes (s : State) (space : BitVec 16) (va : Nat) : PRes := .replay (s.later [.rangeWalk space va]) .walk
def padMissRes (s : State) (line : Nat) : PRes := .replay (s.later [.padLineFill line]) .walk

/-- Step 3 of an access of n bytes at reach : off (R228): its bytes' addresses. -/
def translated (s : State) (reach : BitVec 16) (off : Word) (n : Nat) (ps : List Nat) (lane : Option Nat) : Acc :=
  match xlate s s.ctl.cur s.me.space ps (vaOf reach off) n with
  | .bad c o => .stop (.trap ⟨c, o, auxOf reach lane⟩)
  | .miss va => .stop (missRes s s.me.space va)
  | .padMiss l => .stop (padMissRes s l)
  | .ok as => .ok as
/-- Check 15 of R320. -/
def breakAt (s : State) (reach : BitVec 16) (off : Word) (n : Nat) (load store : Bool) (lane : Option Nat) : Option PRes :=
  (dataBreak s s.ctl.cur reach off n load store).map (brkRes s reach off lane)
/-- Both. -/
def access (s : State) (reach : BitVec 16) (off : Word) (n : Nat) (ps : List Nat) (load store : Bool) (lane : Option Nat) :
    Acc :=
  match translated s reach off n ps lane with
  | .stop r => .stop r
  | .ok as => match breakAt s reach off n load store lane with
    | some r => .stop r
    | none => .ok as

/-- A span in one range (R368): how the packet ends where it fails. -/
def spanBad (s : State) (reach : BitVec 16) (off : Word) (n : Nat) (ps : List Nat) : Option PRes :=
  match xSpan s s.ctl.cur s.me.space ps (vaOf reach off) n with
  | .bad c o => some (.trap ⟨c, o, auxOf reach none⟩)
  | .miss va => some (missRes s s.me.space va)
  | .ok _ => none
/-- The same with check 15: a command counts as a load and a store (R397). -/
def spanAccess (s : State) (reach : BitVec 16) (off : Word) (n : Nat) (ps : List Nat) : Option PRes :=
  (spanBad s reach off n ps).or (breakAt s reach off n true true none)

/-- The addresses of several accesses of one packet, each with its lane, offset, size: step 3 in order. -/
inductive Accs where
  | ok (as : List (List Nat))
  | stop (r : PRes)
def translatedAll (s : State) (reach : BitVec 16) (ps : List Nat) : List (Nat × Word × Nat) → Accs
  | [] => .ok []
  | (lane, off, n) :: es => match translated s reach off n ps (some lane) with
    | .stop r => .stop r
    | .ok as => match translatedAll s reach ps es with
      | .ok rest => .ok (as :: rest)
      | r => r
def breakAll (s : State) (reach : BitVec 16) (load store : Bool) (es : List (Nat × Word × Nat)) : Option PRes :=
  es.findSome? fun x => breakAt s reach x.2.1 x.2.2 load store (some x.1)

/-! Records. -/

def modCur (s : State) (f : Chunk → Chunk) : State := s.modMe fun t => { t with cur := f t.cur }
/-- The address that a byte was translated from: its own, or the one behind a stashed pad line (R287, R371). -/
def touchAt (s : State) (va : Nat) : List (BitVec 16 × Nat) :=
  if vaReach va = localReach then
    (match padOff (vaOff va) with
      | some (p, _) => (match spanAt s p with | some sp => [(sp.global.space, sp.behind p)] | none => [])
      | none => [])
  else [(s.me.space, va)]
/-- The same of n bytes, one in each line of the pad that they meet. -/
def touchVas (s : State) (va n : Nat) : List (BitVec 16 × Nat) :=
  ((List.range ((n + 63) / 64)).flatMap fun k => touchAt s (va + 64 * k)) ++ touchAt s (va + n - 1)
/-- The lines of an access enter the read set (R230). -/
def recordRead (s : State) (as : List Nat) (va : Nat) (plain : Bool) : State :=
  let ls := (as.map (· / 64)).foldl (fun l a => if l.contains a then l else a :: l) []
  modCur s fun c => { c with
    reads := ls.map (fun l => ⟨l, s.me.space, va, plain⟩) ++ c.reads, trans := touchVas s va as.length ++ c.trans }
/-- A held store enters the chunk (R230). -/
def addHeld (s : State) (as : List Nat) (va : Nat) (data : List Byte) (p : Bool) (sym : Tag) : State :=
  modCur s fun c => { c with
    stores := c.stores ++ [⟨as.headD 0, data, p, sym⟩], trans := touchVas s va data.length ++ c.trans }

/-- Does a held store touch one of n bytes at a? -/
def Held.meets (h : Held) (a n : Nat) : Bool := decide (h.addr < a + n) && decide (a < h.addr + h.data.length)

/-- The input of a load (R292): an equal one reused, else a new one. -/
def inputFor (c : Chunk) (a : Nat) (t : IType) (v : Word) : Nat × Chunk :=
  match c.inputs.findIdx? (fun x => decide (x.addr = a) && decide (x.ty = t)) with
  | some i => (i, c)
  | none => (c.inputs.length, { c with inputs := c.inputs ++ [⟨a, t, false, v⟩] })

/-- A scalar load of the chunk in hand (R232, R279, R292): its value, its tag, the state with its records. -/
def loadScalar (s : State) (as : List Nat) (va : Nat) (t : IType) : SVal × Tag × State :=
  let m := viewMem s s.ctl.cur
  let a := as.headD 0
  let n := as.length
  let v := t.extend (leNat (m.gather as))
  let p := m.gatherP as
  let own := s.me.cur.stores.filter (·.meets a n)
  let wide := decide (t = .i64) || decide (t = .i32)
  match own.reverse with
  | [] =>
    if wide && !p then
      let (i, c) := inputFor s.me.cur a t v
      let s1 := recordRead (s.modMe fun th => { th with cur := c }) as va false
      (⟨v, p⟩, some (i, 0), s1)
    else (⟨v, p⟩, none, recordRead s as va true)
  | h :: _ =>
    -- the store's tag, where the loaded value is the input plus the offset that the tag says (log 79)
    let tag : Tag :=
      match h.sym with
      | some (i, c) =>
        if !p && decide (h.addr = a) && decide (h.data.length = n) &&
            decide (((s.me.cur.inputs[i]?).map fun x => x.val + c) = some v) then some (i, c) else none
      | none => none
    let lost := (own.map (·.sym)).filter fun x => decide (x ≠ tag)
    (⟨v, p⟩, tag, opaqueTags (recordRead s as va true) lost)

/-! Conflicts (R289). -/

/-- A write to lines, or a change of full/empty bits in them, takes its place: chunks that read them conflict, save those of
the slot that wrote them as an older chunk of its thread (log 16). -/
def markChunk (lines : List Nat) (c : Chunk) : Chunk :=
  { c with confl := (lines.filter fun l => c.reads.any (fun r => r.line = l) && !c.confl.contains l) ++ c.confl }
def markWrite (s : State) (by_ : Option SlotN) (lines : List Nat) : State :=
  { s with slots := ⟨s.slots.items.zipIdx.map fun x =>
      if by_.map (·.val) = some x.2 then x.1
      else { x.1 with th := { x.1.th with ended := x.1.th.ended.map (markChunk lines), cur := markChunk lines x.1.th.cur } },
    by rw [List.length_map, List.length_zipIdx]; exact s.slots.size⟩ }

/-- Does a solo execution of another slot hold one of the lines (R298)? -/
def soloHolds (s : State) (by_ : Option SlotN) (lines : List Nat) : Bool :=
  allSlots.any fun j => decide (by_ ≠ some j) && (s.slot j).occ && (s.th j).solo &&
    ((s.th j).ended ++ [(s.th j).cur]).any fun c => c.reads.any fun r => lines.contains r.line

/-- The 64-byte lines of bytes at a. -/
def linesOf (a n : Nat) : List Nat := if n = 0 then [] else (List.range ((a + n - 1) / 64 - a / 64 + 1)).map fun j => a / 64 + j

/-! Squashes that count (R297). -/

/-- A squash of slot i's chunk n: the oldest chunk's counts, unless its slot stops (R297, R321); at 4 the thread asks for a
solo execution (R298). A region's chunk aborts its region instead (R301). -/
def squashCount (s : State) (i : SlotN) (n : Nat) (cause : Nat) : State :=
  if (s.slot i).stopped || (s.slot i).halting then squashFrom s i n
  else if (s.th i).reg.isOpen && decide (n = (s.th i).ended.length) then regionAbort s i cause
  else if n ≠ 0 then squashFrom s i n
  else
    let k := (s.th i).squash + 1
    let s1 := (squashFrom s i 0).modTh i fun t => { t with squash := k }
    if k ≥ 4 ∧ ¬ (s.th i).solo ∧ ¬ (s.pkg.soloQueue.contains i) then
      { parkAt s1 i .solo with pkg := { s1.pkg with soloQueue := s1.pkg.soloQueue ++ [i] } }
    else s1

/-! Commit (R295). -/

/-- The oldest uncommitted chunk. -/
def oldest (t : Thread) : Chunk := t.ended.headD t.cur

/-- An input's word now (R295): reread where its line conflicts, else the value that the chunk loaded. -/
def inputNow (m : Memory) (c : Chunk) (x : Input) : Word :=
  if c.confl.contains (x.addr / 64) then x.ty.extend (m.nat x.addr x.ty.size) else x.val

/-- A compare of R294 on the value of its input. -/
def Constr.holds (f : Nat → Word) (c : Constr) : Bool :=
  let a := f c.inp + c.off
  let (x, y) := if c.left then (c.k, a) else (a, c.k)
  let r := if c.un then iCond c.cd x.toNat y.toNat else iCond c.cd x.toInt y.toInt
  decide (r = c.out)

inductive CommitOut where
  | clean
  | repaired
  | squash (cause : Nat)
deriving DecidableEq, Repr

/-- What the arbiter decides of a chunk (R295). -/
def judge (s : State) (i : SlotN) (c : Chunk) : CommitOut :=
  if (s.th i).solo || c.confl.isEmpty then .clean
  else
    let bad := c.confl.findSome? fun l =>
      if isHost (64 * l) || isRemote s (64 * l) || c.reads.any (fun r => decide (r.line = l) && r.plain) then some 1
      else if c.inputs.any (fun x => decide (x.addr / 64 = l) && x.opaque_) then some 3
      else none
    match bad with
    | some k => .squash k
    | none =>
      let f (k : Nat) : Word := ((c.inputs[k]?).map (inputNow s.mem c)).getD 0
      if !(c.cons.all (Constr.holds f)) then .squash 2
      else if c.inputs.any (fun x => c.confl.contains (x.addr / 64) && s.mem.poisAny x.addr x.ty.size) then .squash 1
      else .repaired

/-- A register of SYM(i, c) rewritten (R295). -/
def repairCell (f : Nat → Word) (c : SCell) : SCell :=
  match c.tag with
  | some (i, k) => { c with val := f i + k, tag := none }
  | none => c
def repairRegs (f : Nat → Word) (r : RegFile) : RegFile :=
  { r with g := r.g.map (repairCell f), w := r.w.map (repairCell f) }
/-- A value of chunk no that has not landed, rewritten. -/
def repairFar (f : Nat → Word) (no : Nat) (e : FarEntry) : FarEntry :=
  match e.value with
  | some (.scalar x (some (i, k))) => if e.chunk = no then { e with value := some (.scalar ⟨f i + k, x.p⟩ none) } else e
  | _ => e
def repairHeld (f : Nat → Word) (h : Held) : Held :=
  match h.sym with
  | some (i, k) => { h with data := leBytes h.data.length (f i + k).toNat }
  | none => h

/-- The chunk's stores and the thread's registers as repair gives them; every later chunk is squashed, uncounted. -/
def repair (s : State) (i : SlotN) (c : Chunk) : State × Chunk :=
  let f (k : Nat) : Word := ((c.inputs[k]?).map (inputNow s.mem c)).getD 0
  let c1 := { c with stores := c.stores.map (repairHeld f) }
  if (s.th i).ended.isEmpty then
    (s.modTh i fun t => { t with regs := repairRegs f t.regs, far := t.far.map (repairFar f c.no) }, c1)
  else
    let s1 := squashFrom s i 1
    (s1.modTh i fun t =>
      let r := repairRegs f t.cur.ckpt
      { t with regs := r, cur := { t.cur with ckpt := r }, far := t.far.map (repairFar f c.no) }, c1)

/-- A store that commits: into this package's memory, or into the thread's pending list (R283, R286). -/
def commitStore (i : SlotN) (s : State) (h : Held) : State :=
  if isHost h.addr || isRemote s h.addr then s.modTh i fun t => { t with pend := t.pend ++ [⟨h.addr, h.data, h.p⟩] }
  else { s with mem := s.mem.store h.addr h.data h.p }

def setRing (s : State) (r : RingN) (g : Ring) : State :=
  { s with cl := { s.cl with rings := s.cl.rings.set (fin32 r.toNat) g } }
def getRing (s : State) (r : RingN) : Ring := s.cl.rings.get (fin32 r.toNat)
/-- The capacity and occupancy of a ring, and the pad offset of the slot of count n (R261). -/
def Ring.cap (g : Ring) : Nat := 2 ^ g.log2n.toNat
def Ring.occ (g : Ring) : Nat := (g.tail - g.head).toNat
def Ring.slotOf (g : Ring) (n : Nat) : Nat := n % g.cap
def Ring.off (g : Ring) (n : Nat) : Nat := g.base + g.slotOf n * g.stride
/-- Free slots that no accepted push holds, and elements that no accepted pop holds (R264). -/
def Ring.room (g : Ring) : Nat := g.cap - g.occ - g.resvPush
def Ring.avail (g : Ring) : Nat := g.occ - g.resvPop

/-- 128 bytes with a poison bit per lane, stored as 16 words (R152, R264). -/
def vecWords (v : VVal) : List (List Byte × Bool) :=
  (List.range 16).map fun k =>
    (leBytes 8 (v.bits.toNat / 2 ^ (64 * k) % 2 ^ 64), v.poison.getLsbD (2 * k) || v.poison.getLsbD (2 * k + 1))
/-- The locations of n bytes of a ring's element of count k, stashed lines followed (R261, R277). -/
def elemAddrs (s : State) (g : Ring) (k n : Nat) : List Nat := (List.range n).map fun j => padLoc s (g.off k + j)
/-- Words stored at the locations of an element. -/
def storeElem (s : State) (off : Nat) : Nat → List (List Byte × Bool) → Memory → Memory
  | _, [], m => m
  | j, (d, p) :: ws, m => storeElem s off (j + 8) ws (m.store (padLoc s (off + j)) d p)
/-- The vector that 128 locations hold. -/
def lanesAt (m : Memory) (as : List Nat) : VVal :=
  ⟨BitVec.ofNat 1024 (leNat (m.gather as)),
    BitVec.ofNat 32 (packElems 1 ((List.range 32).map fun l => if m.pois (as.getD (4 * l) 0) then 1 else 0))⟩
/-- The vector element of count k. -/
def readVec (s : State) (g : Ring) (k : Nat) : VVal := lanesAt s.mem (elemAddrs s g k 128)
/-- The lines of an element. -/
def elemLines (s : State) (g : Ring) (k n : Nat) : List Nat :=
  (elemAddrs s g k n).foldl (fun l a => if l.contains (a / 64) then l else (a / 64) :: l) []

/-- An element enters a ring at its tail (R264, R268). -/
def pushElem (s : State) (r : RingN) (ws : List (List Byte × Bool)) (end_ eng : Bool) : State :=
  let g := getRing s r
  let n := g.tail.toNat
  let k := g.slotOf n
  let put (l : List Nat) (b : Bool) : List Nat := if b then setIns l k else setDel l k
  let s1 := setRing { s with mem := storeElem s (g.off n) 0 ws s.mem } r
    { g with tail := g.tail + 1, ends := put g.ends end_, engs := put g.engs eng }
  markWrite s1 none (elemLines s g n (8 * ws.length))
/-- The element at HEAD leaves its ring. -/
def popHead (s : State) (r : RingN) : State :=
  let g := getRing s r
  setRing s r { g with head := g.head + 1 }
/-- Why slot i may not use n bytes of a ring's element of count k: a byte lies in the bedroll area, or in a stashed line that
refuses (R314, R371); the byte is named through the ring's window (log 86). -/
def elemBad (s : State) (i : SlotN) (g : Ring) (k n : Nat) (ps : List Nat) : Option TrapInfo :=
  (padFirstBad s i ps (g.off k) n).map fun x => ⟨x.2, BitVec.ofNat 64 (2 ^ 20 * g.win.toNat + x.1), localReach.setWidth 64⟩

/-- The ring of a stream's binding. -/
def ringOf (t : Thread) (k : Fin 4) : Option RingN :=
  match (t.binds.get k).kind with
  | .pop r => some r
  | .push r => some r
  | _ => none

/-- Streams of a chunk at its commit (R268): heads move past what it consumed, its appended elements enter their rings. -/
def commitStreams (s : State) (i : SlotN) (c : Chunk) : State :=
  let t := s.th i
  let s1 := c.taken.foldl (fun s x => match (t.binds.get x.1).kind with
    | .pop r => unresv (popHead s r) r 0 1
    | _ => s) s
  c.pushed.foldl (fun s x => match ringOf t x.1 with
    | some r => unresv (pushElem s r (vecWords x.2.1) x.2.2 false) r 1 0
    | none => s) s1

/-- What a singleton of a ring does at its commit (R264), with the update of CHECK that a poisoned delivery makes (R64). -/
def commitAct (s : State) (c : Chunk) : State × List CheckUpd :=
  match c.act with
  | none => (s, [])
  | some (.push r ws) => (unresv (pushElem s r ws false false) r 1 0, [])
  | some (.pop r ref vec) =>
    let g := getRing s r
    let s1 := unresv (popHead s r) r 0 1
    match vec with
    | none =>
      let as := elemAddrs s g g.head.toNat 8
      let v : SVal := ⟨BitVec.ofNat 64 (leNat (s.mem.gather as)), s.mem.gatherP as⟩
      (s1.deliver ref (.scalar v none), if v.p then [.loaded] else [])
    | some (m, old) =>
      let x := readVec s g g.head.toNat
      let v : VVal := (assemble 32 m false old fun e => ⟨velt 32 x.bits e, vpois 32 x e, 0⟩).val
      let bad := (List.range 32).any fun e => govBit 32 m e && vpois 32 x e
      (s1.deliver ref (.vec v), if bad then [.loaded] else [])
/-- The lines that a chunk writes at its commit: its held stores and what it pushes into rings. -/
def writeLines (s : State) (i : SlotN) (c : Chunk) : List Nat :=
  let tail (r : RingN) (n : Nat) : List Nat := let g := getRing s r; elemLines s g g.tail.toNat n
  heldLines c ++ (c.pushed.flatMap fun x => match ringOf (s.th i) x.1 with | some r => tail r 128 | none => []) ++
    (match c.act with | some (.push r ws) => tail r (8 * ws.length) | _ => [])
/-- Its matrix command may be applied from now on (R269). -/
def readyCmds (s : State) (i : SlotN) (no : Nat) : State :=
  { s with core := { s.core with mq := s.core.mq.map fun m =>
    if (m.owner = MOwner.slot i ∧ m.wait = some no) then { m with wait := Option.none } else m } }

/-- The chunk leaves as committed. -/
def applyChunk (s : State) (i : SlotN) (c : Chunk) : State :=
  let s1 := c.stores.foldl (commitStore i) s
  let (s2, us) := commitAct (commitStreams s1 i c) c
  let s3 := (markWrite (readyCmds s2 i c.no) (some i) (heldLines c)).later (c.wfmts.map fun x => .windowFormatApply x.1 x.2)
  let s4 := s3.modTh i fun t =>
    let chk := applyCheck t.check (c.check ++ us)
    if t.ended.isEmpty then { startChunk t t.pc with check := chk, squash := 0, solo := false }
    else { t with ended := t.ended.drop 1, check := chk, squash := 0, solo := false }
  if s4.pkg.soloHolder = some i then { s4 with pkg := { s4.pkg with soloHolder := none } } else s4

/-- Commit(K) of R295 for the thread's oldest chunk: as repaired, whole, at this one place in the commit order (R281). -/
def commitChunk (s : State) (i : SlotN) : State × CommitOut :=
  let c := oldest (s.th i)
  match judge s i c with
  | .clean => (applyChunk s i c, .clean)
  | .repaired => let (s1, c1) := repair s i c
                 (applyChunk s1 i c1, .repaired)
  | .squash k => (squashCount s i 0 k, .squash k)

/-- Of some lines, those that the host may hold (R388) or that stand in a block that another package holds (R284): they must be
given up before a write. -/
def heldByHost (s : State) (ls : List Nat) : List Nat := ls.filter s.pkg.hostLines.contains
def heldAbroad (s : State) (ls : List Nat) : List Nat := ls.filter fun l => s.pkg.remoteCopies.any fun x => decide (x.2.1 = l / 8)
/-- May lines be written: no solo execution of another slot holds one, and no host or remote copy is left (R284, R298, R388)? -/
def linesFree (s : State) (by_ : Option SlotN) (ls : List Nat) : Bool :=
  !soloHolds s by_ ls && (heldByHost s ls).isEmpty && (heldAbroad s ls).isEmpty

/-- May the arbiter take the thread's oldest chunk now: every packet of it is sealed, no older singleton of the thread waits, and
what it writes is free (R230, R291, R298, R388)? -/
def commitReady (s : State) (i : SlotN) : Bool :=
  let t := s.th i
  t.sync.isNone && t.flight.all (fun x => decide (x.chunk ≠ (oldest t).no)) && linesFree s (some i) (writeLines s i (oldest t))

end Sys2Proof.Machine
end

