-- ==== Sys2Proof/Machine/Streams.lean ====
section
/-! DEFINITION. Bound vector registers (R57, R266, R268): taking a stream's next element as a source, appending a result. -/
namespace Sys2Proof.Machine

/-- The binding slot of a vector name, for a resident thread with A = 32 (R52). -/
def bindIdx (s : State) (r : VNum) : Option (Fin 4) :=
  if isResident s.ctl.cur ∧ s.allot s.ctl.cur = 32 ∧ 28 ≤ r.toNat then some (fin4 (r.toNat - 28)) else none
def State.binding (s : State) (k : Fin 4) : Binding := s.me.binds.get k
def State.setBinding (s : State) (k : Fin 4) (b : Binding) : State := s.modMe fun t => { t with binds := t.binds.set k b }

/-- A binding descriptor (R266). -/
structure BindDesc where
  base   : Word
  reach  : BitVec 16
  levels : Nat
  ring   : Nat
  resv   : Nat
  counts : List Nat
  steps  : List Int
deriving DecidableEq, Repr
/-- The descriptor that 64 bytes hold. -/
def readBind (m : Memory) (as : List Nat) : BindDesc :=
  let bs := m.gather as
  let f (o n : Nat) : Nat := leNat ((bs.drop o).take n)
  ⟨BitVec.ofNat 64 (f 0 8), BitVec.ofNat 16 (f 8 2), f 10 1, f 11 1, f 12 4, (List.range 4).map fun j => f (16 + 4 * j) 4,
    (List.range 4).map fun j => (BitVec.ofNat 64 (f (32 + 8 * j) 8)).toInt⟩
/-- The counts and steps of the levels in use. -/
def BindDesc.used (d : BindDesc) : List Nat := d.counts.take d.levels
def BindDesc.usedSteps (d : BindDesc) : List Int := d.steps.take d.levels
/-- N of a bounded stream (R266). -/
def Binding.len (b : Binding) : Option Nat := if b.desc.isSome then some (b.counts.foldl (· * ·) 1) else none
/-- The byte offset of element k (R266), level 0 innermost. -/
def nestOff : List Nat → List Int → Nat → Int
  | c :: cs, st :: ss, k => (k % c : Nat) * st + nestOff cs ss (k / c)
  | _, _, _ => 0
def Binding.off (b : Binding) (base : Word) : Word := base + BitVec.ofInt 64 (nestOff b.counts b.steps b.pos)
def Binding.past (b : Binding) : Bool := match b.len with | some n => decide (n ≤ b.pos) | none => false

/-- Stream Fault of register r at element k (R268, R318). -/
def streamFault (r : VNum) (k : Nat) : TrapInfo := ⟨cStream, BitVec.ofNat 64 k, r.setWidth 64⟩

/-- Writes of consecutive addresses with one poison become one store (R152). -/
def mergeParts : List (Nat × List Byte × Bool) → List (Nat × List Byte × Bool)
  | [] => []
  | (a, d, p) :: xs =>
    match mergeParts xs with
    | (b, e, q) :: ys => if b = a + d.length ∧ p = q then (a, d ++ e, p) :: ys else (a, d, p) :: (b, e, q) :: ys
    | [] => [(a, d, p)]
/-- Held stores of a vector packet. -/
def addParts (s : State) (va : Nat) (ps : List (Nat × List Byte × Bool)) : State :=
  (mergeParts ps).foldl (fun s x => addHeld s [x.1] va x.2.1 x.2.2 none) s

/-- Lanes of a value with their byte addresses. -/
def laneParts (as : List Nat) (x : VVal) : List (Nat × List Byte × Bool) :=
  (List.range 32).map fun l => (as.getD (4 * l) 0, leBytes 4 (velt 32 x.bits l), x.poison.getLsbD l)
/-- Does a ring lie in a window whose format is reserved (R65)? -/
def badWindow (s : State) (ring : RingN) : Bool := (WFmt.ofCode (s.cl.wfmt.get (fin8 (getRing s ring).win.toNat))).isNone
/-- Taking an element: the register is no stream; or the state with the element taken; or how the packet ends. -/
inductive Take where
  | ok (s : State)
  | stop (r : PRes)

/-- A source register: the next element of a `.pop` or `.rd` stream is taken (R268). -/
def takeSrc (s0 s : State) (r : VNum) : Take :=
  match bindIdx s r with
  | none => .ok s
  | some k =>
    let b := s.binding k
    match b.kind with
    | .unbound => .ok s
    | .push _ => .stop (.trap (streamFault r b.pos))
    | .wr _ _ => .stop (.trap (streamFault r b.pos))
    | .pop ring =>
      if b.past then .stop (.trap (streamFault r b.pos))
      else if badWindow s ring then .stop (.trap (trapOf cIllegal))
      else match b.buf with
        | [] => .stop (.replay s0 (.stream k))
        | (v, e, g, _) :: rest =>
          let lastOne := decide (b.len = some (b.pos + 1))
          let q := getRing s ring
          match elemBad s s.ctl.cur q (q.head.toNat + q.resvPop - b.buf.length) 128 [permR] with
          | some t => .stop (.trap t)
          | none =>
          if b.desc.isSome && e && !lastOne then .stop (.trap (streamFault r b.pos))
          else if lastOne && g && !e then
            .stop (.trapIn (setRing s0 ring { getRing s0 ring with broken := true }) (streamFault r b.pos))
          else
            let s1 := s.setBinding k { b with pos := b.pos + 1, buf := rest }
            let s2 := modCur s1 fun c => { c with taken := (k, v, e, g) :: c.taken }
            let s3 := checkIf s2 (decide (v.poison ≠ 0)) .loaded
            .ok { s3 with ctl := { s3.ctl with taken := (r, v) :: s3.ctl.taken } }
    | .rd reach base =>
      if b.past then .stop (.trap (streamFault r b.pos))
      else match b.buf with
        | [] => .stop (.replay s0 (.stream k))
        | (_, _, _, _) :: rest =>
          match translated s0 reach (b.off base) 128 [permR] none with
          | .stop p => .stop p
          | .ok as =>
            let v := lanesAt (viewMem s s.ctl.cur) as
            let own := s.me.cur.stores.filter fun h => as.any fun a => h.meets a 1
            let s1 := (opaqueTags s (own.map (·.sym))).setBinding k { b with pos := b.pos + 1, buf := rest }
            let s2 := modCur (recordRead s1 as (vaOf reach (b.off base)) true) fun c => { c with taken := (k, v, false, false) :: c.taken }
            let s3 := checkIf s2 (decide (v.poison ≠ 0)) .loaded
            .ok { s3 with ctl := { s3.ctl with taken := (r, v) :: s3.ctl.taken } }

/-- The sources in order; a name that stands twice takes one element. -/
def takeAll (s0 : State) : List VNum → State → Take
  | [], s => .ok s
  | r :: rs, s =>
    if s.ctl.taken.any (fun x => x.1 = r) then takeAll s0 rs s
    else match takeSrc s0 s r with
      | .ok s1 => takeAll s0 rs s1
      | r => r

/-- A destination register: may a result be appended (R268)? None where it may, or where the register is no stream. -/
def dstStop (s : State) (r : VNum) : Option PRes :=
  match bindIdx s r with
  | none => none
  | some k =>
    let b := s.binding k
    match b.kind with
    | .unbound => none
    | .pop _ => some (.trap (streamFault r b.pos))
    | .rd _ _ => some (.trap (streamFault r b.pos))
    | .push ring =>
      if b.past then some (.trap (streamFault r b.pos))
      else if badWindow s ring then some (.trap (trapOf cIllegal))
      else
        let g := getRing s ring
        match elemBad s s.ctl.cur g (g.tail.toNat + g.resvPush) 128 [permW] with
        | some t => some (.trap t)
        | none => if g.room = 0 then some (.replay s (.stream k)) else none
    | .wr reach base =>
      if b.past then some (.trap (streamFault r b.pos))
      else match translated s reach (b.off base) 128 [permW] none with
        | .stop p => some p
        | .ok _ => none

/-- Check 15 of R320 for the elements of a packet's affine streams. -/
def streamBreaks (s : State) (srcs : List VNum) (dst : Option VNum) : Option PRes :=
  let one (store : Bool) (r : VNum) : Option PRes := (bindIdx s r).bind fun k =>
    let b := s.binding k
    match b.kind, store with
    | .rd reach base, false => breakAt s reach (b.off base) 128 true false none
    | .wr reach base, true => breakAt s reach (b.off base) 128 false true none
    | _, _ => none
  (srcs.findSome? (one false)).or (dst.bind (one true))
/-- The packet's own causes come first (check 14), and a translation that is not there yet is looked up first (R32). -/
def afterBreaks (b : Option PRes) (r : PRes) : PRes :=
  match r with
  | .trap _ => r
  | .trapIn _ _ => r
  | .stall => r
  | .replay _ p => if p = .walk then r else b.getD r
  | _ => b.getD r

/-- A packet that does not retire has taken nothing (R268): what it answers leaves from the state before. -/
def untaken (s0 : State) : PRes → PRes
  | .replay s p => .replay (if p = .commit then s0.setMe (endChunk s0.me) else { s0 with agenda := s.agenda }) p
  | .hold _ => .hold (crossTrigger s0)
  | .abort _ x => .abort s0 x
  | r => r

/-- The streams of a packet: destination checked, sources taken, its own causes, data breakpoints on the elements (R320); a packet
with G = 0b1000 leaves them alone (R268). -/
def withStreams (h : Hdr) (srcs : List VNum) (dst : Option VNum) (k : State → PRes) (s : State) : PRes :=
  if gnever h then k s
  else match dst.bind (dstStop s) with
    | some p => p
    | none => match takeAll s srcs s with
      | .stop p => p
      | .ok s1 => afterBreaks (streamBreaks s srcs dst) (untaken s (k s1))

/-- Is a register bound for appending? -/
def appends (s : State) (r : VNum) : Bool :=
  match bindIdx s r with
  | none => false
  | some k => match (s.binding k).kind with | .push _ => true | .wr _ _ => true | _ => false

/-- The old value that a masked result keeps: a stream's destination is not read, its ungoverned lanes are zero (R268). -/
def State.old (s : State) (r : VNum) : VVal := if appends s r then ⟨0, 0⟩ else s.v r

/-- A near write of vector r by the packet in hand: staged for the pool (R38), or appended to its stream (R268). -/
def State.wvb (s : State) (h : Hdr) (r : VNum) (x : VVal) : State :=
  match bindIdx s r with
  | none => s.wv r x
  | some k =>
    let b := s.binding k
    match b.kind with
    | .push ring =>
      if gnever h then s
      else
        let s1 := modCur (checkIf s (decide (x.poison ≠ 0)) .stored) fun c =>
          { c with pushed := c.pushed ++ [(k, x, decide (b.len = some (b.pos + 1)))] }
        let g := getRing s1 ring
        (setRing s1 ring { g with resvPush := g.resvPush + 1 }).setBinding k { b with pos := b.pos + 1 }
    | .wr reach base =>
      if gnever h then s
      else match xlate s s.ctl.cur s.me.space [permW] (vaOf reach (b.off base)) 128 with
        | .ok as => (checkIf (addParts s (vaOf reach (b.off base)) (laneParts as x)) (decide (x.poison ≠ 0)) .stored).setBinding k
            { b with pos := b.pos + 1 }
        | _ => s
    | _ => s.wv r x

/-- A far packet owing a vector: the pool register, or a value that goes to a stream in seal order while its table entry is
counted until the arrival (R36, R268). -/
def State.farVb (s : State) (h : Hdr) (d : VNum) (x : VVal) (fl : Flags) : State :=
  if appends s d then
    (s.wvb h d x).modMe fun t => { t with far := t.far ++ [⟨t.seq, t.inc, .none, some .discard, fl, false, t.cur.no, false, false⟩] }
  else s.farV d (some (.vec x)) fl

end Sys2Proof.Machine
end

