-- ==== Sys2Proof/Machine/Operands.lean ====
section
/-! DEFINITION. What packets do with their operands: guards (R42, R43, R151, R309), symbolic tags (R291 to R294), results of scalar,
predicate and vector packets (R156, R157), and memory offsets (R110, R111, R233, R235). -/
namespace Sys2Proof.Machine

/-! Symbolic tags (R293). -/

/-- A use of scalar registers that R293 does not list. -/
def useRegs (s : State) (rs : List SReg) : State := opaqueTags s (rs.map s.tag)

/-- How a result's tag comes from its sources (R293): it is SYM; it is concrete and names no input; or the use is one that
makes the inputs of its sources opaque. -/
inductive SymRes where
  | track (t : Nat × Word)
  | clean
  | use

/-- ADD of two tagged values. -/
def symAdd (ta tb : Tag) (a b : Word) : SymRes :=
  match ta, tb with
  | some (i, c), none => .track (i, c + b)
  | none, some (i, c) => .track (i, c + a)
  | _, _ => .use
/-- SUB of two tagged values. -/
def symSub (ta tb : Tag) (b : Word) : SymRes :=
  match ta, tb with
  | some (i, c), none => .track (i, c - b)
  | some (i, _), some (j, _) => if i = j then .clean else .use
  | _, _ => .use

/-! Results (R42, R43, R151, R157). -/

/-- A near scalar result for d from sources srcs: written under a true guard; the old value under a false one; poisoned
either way under a poisoned guard. -/
def finS (s : State) (h : Hdr) (d : SReg) (srcs : List SReg) (r : SVal) (sym : SymRes) : PRes :=
  if gpois s h then
    .done ((useRegs s (d :: srcs)).wr d (if gbit s h then r.v else (s.s d).v) true) none
  else if gbit s h then
    match sym with
    | .track t => if r.p then .done ((useRegs s srcs).wr d r.v true) none else .done (s.wrT d r.v false (some t)) none
    | .clean => .done (s.wr d r.v r.p) none
    | .use => .done ((useRegs s srcs).wr d r.v r.p) none
  else .done (s.wrT d (s.s d).v (s.s d).p (s.tag d)) none

/-- A near predicate result: one destination. -/
def finQ (s : State) (h : Hdr) (d : PReg) (r : Word × Bool) : PRes :=
  if gpois s h then .done (s.wq d (if gbit s h then r.1 else (s.p d).m) true) none
  else if gbit s h then .done (s.wq d r.1 r.2) none
  else .done (s.wq d (s.p d).m (s.p d).p) none

/-- A far packet under its guard (R43, R151): not launched under a false guard (`underGuard` says what becomes of its destination),
Poison Consumed under a poisoned one. -/
def farGuard (s : State) (h : Hdr) (k : State → PRes) : PRes :=
  if gpois s h then .trap (trapOf cPoison) else if gbit s h then k s else .done s none

/-- A packet without a destination, or a control transfer, under its guard (R151, R157). -/
def ctlGuard (s : State) (h : Hdr) (k : State → PRes) : PRes := farGuard s h k

/-- A chunk-ending packet (R158, R159, R301): its guard, its own causes, CommitWait, then its effect. -/
def ender (s : State) (h : Hdr) (checks : State → Option PRes) (act : State → PRes) : PRes :=
  farGuard s h fun s => match checks s with
    | some r => r
    | none => commitWait s act

/-- The causes of a packet, in order: the first that is found (R159). -/
def causes : List (Option PRes) → Option PRes
  | [] => none
  | some r :: _ => some r
  | none :: rest => causes rest
/-- A cause where a condition holds. -/
def causeIf (c : Bool) (t : TrapInfo) : Option PRes := if c then some (.trap t) else none

/-- The token of R247. -/
def token (done status : Nat) (poisoned : Bool) : SVal :=
  ⟨BitVec.ofNat 64 (done % 2 ^ 40 + status * 2 ^ 40 + (if poisoned then 2 ^ 48 else 0)), false⟩
/-- A token reaches the thread it is owed to, or its image (R247). -/
def State.deliverToken (s : State) (r : FarRef) (done status : Nat) (poisoned : Bool) : State :=
  s.deliver r (.scalar (token done status poisoned) none)

/-- The poison a near packet's result takes from its guard. -/
def orP (s : State) (h : Hdr) (v : SVal) : SVal := ⟨v.v, v.p || gpois s h⟩

/-! Shapes of near scalar packets. -/

def N2 (d a b : SReg) : Names := ⟨[a, b], [d], [], [], [], false, false, .near⟩
def N1 (d a : SReg) : Names := ⟨[a], [d], [], [], [], false, false, .near⟩

def NS (rs : List SReg) : Names := ⟨rs, [], [], [], [], false, false, .near⟩

/-- A two-source scalar packet whose result is concrete. -/
def run2 (h : Hdr) (d a b : SReg) (f : Word → Word → Word) (s : State) : Host.Outcome State Fault Refusal :=
  runPacket h (N2 d a b) false
    (fun s => finS s h d [a, b] ⟨f (s.s a).v (s.s b).v, (s.s a).p || (s.s b).p⟩ .use) s
/-- A one-source scalar packet whose result is concrete. -/
def run1 (h : Hdr) (d a : SReg) (f : Word → Word) (s : State) : Host.Outcome State Fault Refusal :=
  runPacket h (N1 d a) false (fun s => finS s h d [a] ⟨f (s.s a).v, (s.s a).p⟩ .use) s

/-! Vector results. -/

/-- The names of a vector packet. -/
def NV (vs : List VNum) (ss : List SReg) (ds : List SReg) (ps : List PReg) : Names :=
  ⟨ss, ds, vs, ps, [], false, false, .near⟩

/-- Near vector result under the mask of its guard (R42, R43): the operation's value merged with the old one; FP Exception
refuses it; flags are recorded. The draws have been taken from SEED beforehand. -/
def finV (s : State) (h : Hdr) (d : VNum) (mode : RMode) (n : Nat) (o : VOut) : PRes :=
  match fpTrap s o.fl with
  | some t => .trap t
  | none => .done (orFlags ((stepSeed s h mode n).wvb h d o.val) o.fl) none

/-- Far vector result: Poison Consumed under a poisoned guard; near under a guard that governs nothing (R43); with a trap
enabled the packet `i` waits for its value and is decided then (R200), else the value is owed. -/
def finFarV (s : State) (h : Hdr) (w : Nat) (d : VNum) (mode : RMode) (n : Nat) (o : VOut) (i : Instr) : PRes :=
  if gpois s h then .trap (trapOf cPoison)
  else if !gany s h w then .done ((stepSeed s h mode n).wvb h d (s.old d)) none
  else if anyEnable s then
    if !s.ctl.came then .launch i
    else match fpTrap s o.fl with
      | some t => .trap t
      | none => .done (orFlags ((stepSeed s h mode n).wvb h d o.val) o.fl) none
  else .done ((stepSeed s h mode n).farVb h d o.val o.fl).markFp none

/-- Far scalar FP result (R200). -/
def finFarS (s : State) (h : Hdr) (d : SReg) (srcs : List SReg) (mode : RMode) (n : Nat) (r : SVal) (fl : Flags) (i : Instr) : PRes :=
  if gpois s h then .trap (trapOf cPoison)
  else if !gbit s h then .done (stepSeed s h mode n) none
  else
    let s1 := stepSeed (useRegs s srcs) h mode n
    if anyEnable s then
      if !s.ctl.came then .launch i
      else match fpTrap s fl with
        | some t => .trap t
        | none => .done (orFlags (s1.wr d r.v r.p) fl) none
    else .done (s1.farS d (some (.scalar r none)) fl false).markFp none

/-- Near scalar FP result: flags from a governed, unpoisoned operation (R140, R153). -/
def finFp (s : State) (h : Hdr) (d : SReg) (srcs : List SReg) (mode : RMode) (n : Nat) (r : SVal) (fl : Flags) : PRes :=
  let fl' := if gbit s h && !gpois s h && !r.p then fl else 0
  match fpTrap s fl' with
  | some t => .trap t
  | none => finS (orFlags (stepSeed s h mode n) fl') h d srcs r .use

/-! Memory offsets. -/

/-- R110: base + (index << sh) + disp × size. -/
def offIndexed (s : State) (a b : SReg) (sh : BitVec 2) (disp : BitVec 5) (t : IType) : Word :=
  (s.s a).v + ((s.s b).v <<< sh.toNat) + BitVec.ofInt 64 (disp.toInt * (IType.size t : Int))
/-- R111: base + imm. -/
def offImm (s : State) (a : SReg) (i : BitVec 48) : Word := (s.s a).v + i.signExtend 64
/-- R233: base + (index << sh) + disp × 128. -/
def offVector (s : State) (a b : SReg) (sh : BitVec 2) (disp : BitVec 5) : Word :=
  (s.s a).v + ((s.s b).v <<< sh.toNat) + BitVec.ofInt 64 (disp.toInt * 128)
/-- R235: the address of lane e. -/
def offLane (s : State) (a : SReg) (v : VVal) (sh : BitVec 2) (sgn : Bool) (e : Nat) : Word :=
  let ix := BitVec.ofNat 32 (velt 32 v.bits e)
  (s.s a).v + ((if sgn then ix.signExtend 64 else ix.setWidth 64) <<< sh.toNat)

end Sys2Proof.Machine
end

