-- ==== Sys2Proof/Machine/Fetch.lean ====
section
/-! DEFINITION. Fetching a packet: the instruction cache and its patched lines (R113 to R116), the fetch and decode checks of
R119, PC breakpoints (R397). -/
namespace Sys2Proof.Machine

/-- What a fetch answers. -/
inductive Fetched where
  | instr (i : Instr) (n : Nat)
  | trap (t : TrapInfo)
  | walk (va : Nat)
  | padWalk (line : Nat)
  | fill
  /-- a breakpoint with HALT set matches (R397) -/
  | halt

/-- The launch whose patches a slot's lines carry: its own; for a guest the core's current launch in that launch's space;
otherwise none, 0 (R115). -/
def lineTag (s : State) (i : SlotN) : BitVec 32 :=
  match s.core.launch with
  | none => 0
  | some l => if isResident i then l.sh.info.seq
              else if isGuest i && decide ((s.th i).space = l.sh.info.space) then l.sh.info.seq else 0

/-- The cached line that a thread's PC names: as it was filled, old after a change of memory until it leaves: DESIGN CHOICE (log 80). -/
def findLine (s : State) (i : SlotN) : Option ILine :=
  let t := s.th i
  s.core.icache.find? fun l => decide (l.launch = lineTag s i) && decide (l.space = t.space) && decide (l.creach = t.creach) &&
    decide (l.off = pcLine t.pc)

/-- Is an 8-byte word of a line poisoned? -/
def wordP (l : ILine) (byte : Nat) : Bool := l.poison.getLsbD (byte / 8)
/-- Poison in the descriptor or a head word (R101). -/
def headP (l : ILine) : Bool :=
  wordP l 0 || (List.range (2 + 2 * lineN l.bits)).any (wordP l)
/-- Poison in the tail of head j (R101). -/
def tailP (l : ILine) (j : Nat) : Bool :=
  (List.range (tailLen (headTl (lineHead l.bits j)))).any fun k => wordP l (tailAt l.bits j + k)

/-- The PC breakpoint that matches a watched slot, with its HALT bit (R397). -/
def pcBreak (s : State) (i : SlotN) : Option (Nat × Bool) :=
  let d := s.cl.dbg
  if !(d.bpctl.getLsbD (8 + i.val)) then none
  else ((List.finRange 4).find? fun n => d.bpctl.getLsbD n.val && decide (d.bppc.get n = (s.th i).pc)).map
    fun n => (n.val, d.bpctl.getLsbD (4 + n.val))

/-- Checks 3 to 11 on a cached line. -/
def fromLine (s : State) (i : SlotN) (l : ILine) : Fetched :=
  let j := pcHead (s.th i).pc
  if headP l then .trap (trapOf cPoison)
  else if !lineOk l.bits then .trap (trapOf cLine)
  else if l.badPatch then .trap (trapOf cLaunch)
  else if j ≥ lineN l.bits then .trap (trapOf cTarget)
  else if tailP l j then .trap (trapOf cPoison)
  else match l.headFault.find? (fun x => x.1 = j) with
    | some x => .trap x.2
    | none =>
      let head := lineHead l.bits j
      match opFmt (headOp head) with
      | none => .trap (trapOf cIllegal)
      | some _ =>
        if opPrivileged (headOp head) && decide (i ≠ ranger) then .trap (trapOf cPrivileged)
        else match decode head (lineTail l.bits j) with
          | .unassigned => .trap (trapOf cIllegal)
          | .illegal => .trap (trapOf cIllegal)
          | .ok ins => match pcBreak s i with
            | some (_, true) => .halt
            | some (n, false) => .trap ⟨cDebug, BitVec.ofNat 64 n, 0⟩
            | none => .instr ins (lineN l.bits)

/-- The fetch of slot i's next packet (R119). -/
def fetch (s : State) (i : SlotN) : Fetched :=
  let t := s.th i
  if t.pc.getLsbD 5 then .trap (trapOf cMisaligned)
  else match xByte s i t.space (vaOf t.creach (pcLine t.pc)) [permX] with
    | .bad c => .trap (trapOf c)
    | .miss => .walk (vaOf t.creach (pcLine t.pc))
    | .padMiss l => .padWalk l
    | .ok _ _ => match findLine s i with
      | none => .fill
      | some l => fromLine s i l

/-! LINE_FILL. -/

/-- A patch entry (R112). -/
structure PatchEntry where
  line : Nat
  head : Nat
  sgn  : Bool
  resv : Nat
  w    : Nat
  poff : Nat
deriving DecidableEq, Repr

/-- The patch entries of a launch, read as code; none where a word fails (R114). -/
def readPatches (s : State) (li : LaunchInfo) : Option (List PatchEntry) :=
  match devAddrs s li.space [permX] (vaOf li.creach li.patch) (8 * li.npatch) with
  | .ok as =>
    if s.mem.gatherP as then none
    else
      let bs := s.mem.gather as
      some ((List.range li.npatch).map fun k =>
        let e := (bs.drop (8 * k)).take 8
        let f (o n : Nat) : Nat := leNat ((e.drop o).take n)
        ⟨f 0 4, f 4 1 % 32, decide (f 4 1 / 32 % 2 = 1), f 4 1 / 64, f 5 1, f 6 2⟩)
  | _ => none

/-- The field a site replaces: its position in the tail and its width; none where the format has none (R113). -/
def patchField : Fmt → Option (Nat × Nat)
  | .t32i => some (10, 22)
  | .t64 => some (16, 48)
  | .t32 => some (20, 12)
  | _ => none

/-- Is an entry faulty on this line (R114)? A site on an unassigned opcode never is. -/
def badSite (bits : BitVec 512) (e : PatchEntry) : Bool :=
  decide (e.head ≥ lineN bits) ||
    match opFmt (headOp (lineHead bits e.head)) with
    | none => false
    | some f => decide (e.resv ≠ 0) || decide (e.w = 0) || decide (e.w > 48) || (match patchField f with
      | none => true
      | some (_, w) => decide (e.w > w))

/-- A site applied: the line's bits with the field replaced, or a fault of that head alone (R113, R114). -/
def applySite (s : State) (li : LaunchInfo) (l : ILine) (e : PatchEntry) : ILine :=
  match opFmt (headOp (lineHead l.bits e.head)) with
  | none => l
  | some f => match patchField f with
    | none => l
    | some (pos, w) =>
      let off := li.param + BitVec.ofNat 64 e.poff
      match devAddrs s li.space [permR] (vaOf li.dreach off) ((e.w + 7) / 8) with
      | .bad c o => { l with headFault := l.headFault ++ [(e.head, ⟨c, o, li.dreach.setWidth 64⟩)] }
      | .ok as =>
        if s.mem.gatherP as then { l with headFault := l.headFault ++ [(e.head, trapOf cPoison)] }
        else
          let v := leNat (s.mem.gather as) % 2 ^ e.w
          let x := if e.sgn && decide (2 ^ (e.w - 1) ≤ v) then v + (2 ^ 64 - 2 ^ e.w) else v
          let at_ := 8 * tailAt l.bits e.head + pos
          let mask : BitVec 512 := BitVec.ofNat 512 ((2 ^ w - 1) * 2 ^ at_)
          if tailLen (headTl (lineHead l.bits e.head)) * 8 < pos + w then l
          else { l with bits := (l.bits &&& ~~~mask) ||| BitVec.ofNat 512 (x % 2 ^ w * 2 ^ at_) }
      | _ => l

/-- The line that a slot's fetch waits for, read whole at one point of the commit order (R116) and patched for its launch. -/
def fillLine (s : State) (i : SlotN) (a : Nat) : ILine :=
  let t := s.th i
  let off := pcLine t.pc
  let tag := lineTag s i
  let l0 : ILine := ⟨tag, t.space, t.creach, off, BitVec.ofNat 512 (s.mem.nat a 64),
    BitVec.ofNat 8 (packElems 1 ((List.range 8).map fun k => if s.mem.pois (a + 8 * k) then 1 else 0)), false, []⟩
  match s.core.launch with
  | none => l0
  | some cl =>
    let li := cl.sh.info
    if tag = 0 ∨ tag ≠ li.seq ∨ t.creach ≠ li.creach ∨ li.npatch = 0 then l0
    else match readPatches s li with
      | none => { l0 with badPatch := true }
      | some es =>
        let here := es.filter fun e => decide (pcLine li.entry + BitVec.ofNat 64 (64 * e.line) = off)
        if !lineOk l0.bits then l0
        else if here.any (badSite l0.bits) then { l0 with badPatch := true }
        else here.foldl (applySite s li) l0

/-- Does a walk that the patches of a line need wait on a table's LOCK (R365)? -/
def patchWaits (s : State) (i : SlotN) : Bool :=
  match s.core.launch with
  | none => false
  | some cl =>
    let li := cl.sh.info
    let locked (va n : Nat) (ps : List Nat) : Bool := match devAddrs s li.space ps va n with | .miss _ => true | _ => false
    decide (lineTag s i = li.seq) && decide ((s.th i).creach = li.creach) && decide (li.npatch ≠ 0) &&
      (locked (vaOf li.creach li.patch) 8 [permX] || locked (vaOf li.dreach li.param) 1 [permR])
/-- LINE_FILL (R113 to R116): the line enters the instruction cache, 16 KiB of 64-byte lines, the one filled longest ago making room
(R10; log 80); a translation that has gone meanwhile is found again by the fetch. -/
def doLineFill (s : State) (i : SlotN) : State :=
  let t := s.th i
  match xByte s i t.space (vaOf t.creach (pcLine t.pc)) [permX] with
  | .ok a _ => if patchWaits s i then s else { s with core := { s.core with icache := (fillLine s i a :: s.core.icache).take 256 } }
  | _ => s

end Sys2Proof.Machine
end

