-- ==== Sys2Proof/Machine/Predicate.lean ====
section
/-! DEFINITION. Group 3, predicates and compares (R209 to R215). -/
namespace Sys2Proof.Machine

/-- Bit 0 alone (R54). -/
def bit0 (b : Bool) : Word := if b then 1 else 0

/-- Both destinations of a scalar compare (R211, R212): the condition and its complement. -/
def finCmp (s : State) (h : Hdr) (d c : PReg) (r p : Bool) : PRes :=
  if gpois s h then
    let keep (x : PReg) (v : Word) : Word := if gbit s h then v else (s.p x).m
    .done ((s.wq d (keep d (bit0 r)) true).wq c (keep c (bit0 (!r))) true) none
  else if gbit s h then .done ((s.wq d (bit0 r) p).wq c (bit0 (!r)) p) none
  else .done ((s.wq d (s.p d).m (s.p d).p).wq c (s.p c).m (s.p c).p) none

/-- An integer condition, signed or unsigned (R213). -/
def intCond (cd : Cond) (un : Bool) (a b : Word) : Bool := if un then iCond cd a.toNat b.toNat else iCond cd a.toInt b.toInt

/-- A constraint joins the chunk (R294). -/
def addConstr (s : State) (c : Constr) : State := s.modMe fun t => { t with cur := { t.cur with cons := t.cur.cons ++ [c] } }

/-- CMP and CMPI on tagged operands (R293): one symbolic operand against a concrete one records a constraint. -/
def cmpSym (s : State) (h : Hdr) (cd : Cond) (un : Bool) (ta tb : Tag) (a b : SVal) (r : Bool) : State :=
  if gpois s h || (gbit s h && (a.p || b.p)) then opaqueTags s [ta, tb]
  else if !gbit s h then s
  else match ta, tb with
    | some (i, c), none => addConstr s ⟨i, c, cd, un, b.v, false, r⟩
    | none, some (i, c) => addConstr s ⟨i, c, cd, un, a.v, true, r⟩
    | _, _ => opaqueTags s [ta, tb]

/-- CMP (R213). -/
def execCmp (h : Hdr) (d c : PReg) (a b : SReg) (cd : Cond) (un : Bool) (s : State) : Host.Outcome State Fault Refusal :=
  runPacket h ⟨[a, b], [], [], [], [d, c], false, false, .near⟩ false
    (fun s =>
      let x := s.s a
      let y := s.s b
      let r := intCond cd un x.v y.v
      finCmp (cmpSym s h cd un (s.tag a) (s.tag b) x y r) h d c r (x.p || y.p)) s
/-- CMPI (R213). -/
def execCmpi (h : Hdr) (d c : PReg) (a : SReg) (cd : Cond) (un : Bool) (i : BitVec 12) (s : State) :
    Host.Outcome State Fault Refusal :=
  runPacket h ⟨[a], [], [], [], [d, c], false, false, .near⟩ false
    (fun s =>
      let x := s.s a
      let r := intCond cd un x.v (sx i)
      finCmp (cmpSym s h cd un (s.tag a) none x ⟨sx i, false⟩ r) h d c r x.p) s
/-- FCMP (R210, R213). -/
def execFcmp (h : Hdr) (d c : PReg) (a b : SReg) (t : FTy) (cd : Cond) (s : State) : Host.Outcome State Fault Refusal :=
  runPacket h ⟨[a, b], [], [], [], [d, c], false, false, .near⟩ false
    (fun s =>
      let x := s.s a
      let y := s.s b
      let F : FFmt := match t with | .f32 => fmtF32 | .f64 => fmtF64 | .f16 => fmtF16 | .bf16 => fmtBF16
      let r := fCond cd (F.decode x.v.toNat) (F.decode y.v.toNat)
      let fl : Flags := if gbit s h && !gpois s h && !(x.p || y.p) then r.2 else 0
      match fpTrap s fl with
      | some t => .trap t
      | none =>
        let s1 := if gbit s h || gpois s h then useRegs s [a, b] else s
        finCmp (orFlags s1 fl) h d c r.1 (x.p || y.p)) s

/-- A result of 64 one-bit elements governed bit by bit (R212). -/
def finMask (s : State) (h : Hdr) (d : PReg) (m : Word) (p : Bool) : State :=
  let g := gmask s h
  let old := s.p d
  s.wq d (mergeBits g m old.m)
    ((p && decide (g ≠ 0)) || gpois s h || (old.p && decide (g ≠ BitVec.allOnes 64)))
/-- PLOG (R215). -/
def execPlog (h : Hdr) (d a b : PReg) (tt : BitVec 4) (s : State) : Host.Outcome State Fault Refusal :=
  runPacket h ⟨[], [], [], [a, b], [d], false, false, .near⟩ false
    (fun s => .done (finMask s h d (plogBits tt (s.p a).m (s.p b).m) ((s.p a).p || (s.p b).p)) none) s
/-- The inputs that scalar sources name, used where the guard governs an element of width w (R293, R309). -/
def useGov (s : State) (h : Hdr) (w : Nat) (rs : List SReg) : State := if gpois s h || gany s h w then useRegs s rs else s
/-- PFROM (R215). -/
def execPfrom (h : Hdr) (d : PReg) (a : SReg) (s : State) : Host.Outcome State Fault Refusal :=
  runPacket h ⟨[a], [], [], [], [d], false, false, .near⟩ false
    (fun s => .done (finMask (useGov s h 64 [a]) h d (s.s a).v (s.s a).p) none) s
/-- PLIM (R215). -/
def execPlim (h : Hdr) (d : PReg) (a b : SReg) (byte : Bool) (s : State) : Host.Outcome State Fault Refusal :=
  runPacket h ⟨[a, b], [], [], [], [d], false, false, .near⟩ false
    (fun s => .done (finMask (useGov s h 64 [a, b]) h d (plimBits byte (s.s a).v (s.s b).v) ((s.s a).p || (s.s b).p)) none) s
/-- A scalar from a predicate. -/
def runQS (h : Hdr) (d : SReg) (a : PReg) (f : Word → Word) (s : State) : Host.Outcome State Fault Refusal :=
  runPacket h ⟨[], [d], [], [a], [], false, false, .near⟩ false
    (fun s => finS s h d [] ⟨f (s.p a).m, (s.p a).p⟩ .use) s
/-- PTOS (R215). -/
def execPtos (h : Hdr) (d : SReg) (a : PReg) (s : State) : Host.Outcome State Fault Refusal := runQS h d a id s
/-- PCNT (R215). -/
def execPcnt (h : Hdr) (d : SReg) (a : PReg) (s : State) : Host.Outcome State Fault Refusal :=
  runQS h d a (fun m => BitVec.ofNat 64 (popNat 64 m.toNat)) s
/-- PFIRST (R215). -/
def execPfirst (h : Hdr) (d : SReg) (a : PReg) (s : State) : Host.Outcome State Fault Refusal :=
  runQS h d a (fun m => BitVec.ofNat 64 (ctzNat 64 m.toNat)) s

/-- VCMP's destinations (R54, R211, R212): the condition and its complement where governed, the old bits elsewhere in the
range that the compare writes, zero outside it. -/
def vcmpDst (s : State) (h : Hdr) (w : Nat) (x : PReg) (m : Word) (p : Bool) : Word × Bool :=
  let range : Word := if w = 32 then 0xFFFFFFFF else BitVec.allOnes 64
  let g := gmask s h &&& range
  let old := s.p x
  (mergeBits g m (old.m &&& range), p || gpois s h || (old.p && decide (g ≠ range)))
/-- The second operand of a vector packet: a register, or a broadcast scalar (R217). -/
def opB (s : State) (w : Nat) (sb : Bool) (b : VNum) : VVal := if sb then bcast w (s.s b) else s.v b
def vecB (sb : Bool) (b : VNum) : List VNum := if sb then [] else [b]
def scaB (sb : Bool) (b : VNum) : List SReg := if sb then [b] else []
/-- VCMP (R214). -/
def execVcmp (h : Hdr) (d c : PReg) (a b : VNum) (t : VTy) (cd : Cond) (sb : Bool) (s : State) :
    Host.Outcome State Fault Refusal :=
  runPacket h ⟨scaB sb b, [], a :: vecB sb b, [], [d, c], false, false, .near⟩ false
    (fun s => withStreams h (a :: vecB sb b) none (fun s =>
      let w := VTy.width t
      let r := vCmpBits t cd (gmask s h) (s.v a) (opB s w sb b)
      let fl := if gpois s h then 0 else r.2.2
      match fpTrap s fl with
      | some t => .trap t
      | none =>
        let x := vcmpDst s h w d r.1 r.2.1
        let y := vcmpDst s h w c (~~~r.1) r.2.1
        .done (((useGov (orFlags s fl) h w (scaB sb b)).wq d x.1 x.2).wq c y.1 y.2) none) s) s

end Sys2Proof.Machine
end

