-- ==== Sys2Proof/Machine/VectorArith.lean ====
section
/-! DEFINITION. Group 5, vector arithmetic (R216 to R227). -/
namespace Sys2Proof.Machine

/-- A near vector packet: sources taken, the operation on the old destination, its result (R217, R218). `steps` draws of
SEED; `srcs` and `sc` are its vector and scalar sources, `w` the width of what its guard governs. -/
def runNearV (h : Hdr) (d : VNum) (srcs : List VNum) (sc : List SReg) (ps : List PReg) (w : Nat) (rm : Rm) (steps : Nat)
    (f : State → RMode → List Word → Word → Bool → VVal → VOut) (s : State) : Host.Outcome State Fault Refusal :=
  runPacket h (NV (d :: srcs) sc [] ps) false
    (fun s => withStreams h srcs (some d) (fun s =>
      let mode := effMode s rm
      finV (useGov s h w sc) h d mode steps (f s mode (draws s h mode steps) (gmask s h) (gpois s h) (s.old d))) s) s
/-- A far vector packet (R200, R223). -/
def runFarV (h : Hdr) (d : VNum) (srcs : List VNum) (sc : List SReg) (w : Nat) (rm : Rm) (steps : Nat)
    (f : State → RMode → List Word → Word → Bool → VVal → VOut) (i : Instr) (s : State) : Host.Outcome State Fault Refusal :=
  runPacket h { NV (d :: srcs) sc [] [] with far := .vec w (some d) } false
    (fun s => if gpois s h then .trap (trapOf cPoison) else withStreams h srcs (some d) (fun s =>
      let mode := effMode s rm
      finFarV (useGov s h w sc) h w d mode steps (f s mode (draws s h mode steps) (gmask s h) (gpois s h) (s.old d)) i) s) s

/-- Draws of an operation: one per element for a float type, none for an integer type (R138). -/
def stepsOf (t : VTy) : Nat := if t.isInt then 0 else VTy.count t

/-- VADD (R220). -/
def execVadd (h : Hdr) (d a b : VNum) (t : VTy) (rm : Rm) (na nb sat sb : Bool) (s : State) :
    Host.Outcome State Fault Refusal :=
  runNearV h d (a :: vecB sb b) (scaB sb b) [] (VTy.width t) rm (stepsOf t)
    (fun s m dr g gp old => vArith .add t m dr na nb false sat g gp old (s.v a) (opB s (VTy.width t) sb b) ⟨0, 0⟩) s
/-- VSUB (R220). -/
def execVsub (h : Hdr) (d a b : VNum) (t : VTy) (rm : Rm) (na nb sat sb : Bool) (s : State) :
    Host.Outcome State Fault Refusal :=
  runNearV h d (a :: vecB sb b) (scaB sb b) [] (VTy.width t) rm (stepsOf t)
    (fun s m dr g gp old => vArith .sub t m dr na nb false sat g gp old (s.v a) (opB s (VTy.width t) sb b) ⟨0, 0⟩) s
/-- VMUL (R220). -/
def execVmul (h : Hdr) (d a b : VNum) (t : VTy) (rm : Rm) (na nb sat sb : Bool) (s : State) :
    Host.Outcome State Fault Refusal :=
  runNearV h d (a :: vecB sb b) (scaB sb b) [] (VTy.width t) rm (stepsOf t)
    (fun s m dr g gp old => vArith .mul t m dr na nb false sat g gp old (s.v a) (opB s (VTy.width t) sb b) ⟨0, 0⟩) s
/-- VFMA (R220). -/
def execVfma (h : Hdr) (d a b c : VNum) (t : VTy) (rm : Rm) (na nb nc sat sb : Bool) (s : State) :
    Host.Outcome State Fault Refusal :=
  runNearV h d (a :: c :: vecB sb b) (scaB sb b) [] (VTy.width t) rm (stepsOf t)
    (fun s m dr g gp old => vArith .fma t m dr na nb nc sat g gp old (s.v a) (opB s (VTy.width t) sb b) (s.v c)) s
/-- VMIN (R221). -/
def execVmin (h : Hdr) (d a b : VNum) (t : VTy) (sb : Bool) (s : State) : Host.Outcome State Fault Refusal :=
  runNearV h d (a :: vecB sb b) (scaB sb b) [] (VTy.width t) .rne 0
    (fun s _ _ g gp old => vMinMax t false g gp old (s.v a) (opB s (VTy.width t) sb b)) s
/-- VMAX (R221). -/
def execVmax (h : Hdr) (d a b : VNum) (t : VTy) (sb : Bool) (s : State) : Host.Outcome State Fault Refusal :=
  runNearV h d (a :: vecB sb b) (scaB sb b) [] (VTy.width t) .rne 0
    (fun s _ _ g gp old => vMinMax t true g gp old (s.v a) (opB s (VTy.width t) sb b)) s
/-- VAND (R225). -/
def execVand (h : Hdr) (d a b : VNum) (t : VTy) (sb : Bool) (s : State) : Host.Outcome State Fault Refusal :=
  runNearV h d (a :: vecB sb b) (scaB sb b) [] (VTy.width t) .rne 0
    (fun s _ _ g gp old => vBit t (· &&& ·) g gp old (s.v a) (opB s (VTy.width t) sb b)) s
/-- VOR (R225). -/
def execVor (h : Hdr) (d a b : VNum) (t : VTy) (sb : Bool) (s : State) : Host.Outcome State Fault Refusal :=
  runNearV h d (a :: vecB sb b) (scaB sb b) [] (VTy.width t) .rne 0
    (fun s _ _ g gp old => vBit t (· ||| ·) g gp old (s.v a) (opB s (VTy.width t) sb b)) s
/-- VXOR (R225). -/
def execVxor (h : Hdr) (d a b : VNum) (t : VTy) (sb : Bool) (s : State) : Host.Outcome State Fault Refusal :=
  runNearV h d (a :: vecB sb b) (scaB sb b) [] (VTy.width t) .rne 0
    (fun s _ _ g gp old => vBit t (· ^^^ ·) g gp old (s.v a) (opB s (VTy.width t) sb b)) s
/-- VSHR (R225). -/
def execVshr (h : Hdr) (d a b : VNum) (t : VTy) (sb : Bool) (s : State) : Host.Outcome State Fault Refusal :=
  runNearV h d (a :: vecB sb b) (scaB sb b) [] (VTy.width t) .rne 0
    (fun s _ _ g gp old => vShr t g gp old (s.v a) (opB s (VTy.width t) sb b)) s
/-- VMULH (R225). -/
def execVmulh (h : Hdr) (d a b : VNum) (t : VTy) (sb : Bool) (s : State) : Host.Outcome State Fault Refusal :=
  runNearV h d (a :: vecB sb b) (scaB sb b) [] (VTy.width t) .rne 0
    (fun s _ _ g gp old => vMulh t g gp old (s.v a) (opB s (VTy.width t) sb b)) s
/-- VSGN (R222): `.abs` does not read B. -/
def execVsgn (h : Hdr) (d a b : VNum) (t : VTy) (op : SignOp) (sb : Bool) (s : State) : Host.Outcome State Fault Refusal :=
  runNearV h d (a :: (if op = .abs then [] else vecB sb b)) (if op = .abs then [] else scaB sb b) [] (VTy.width t) .rne 0
    (fun s _ _ g gp old => vSgn t op g gp old (s.v a) (if op = .abs then ⟨0, 0⟩ else opB s (VTy.width t) sb b)) s
/-- VDIV (R223). -/
def execVdiv (h : Hdr) (d a b : VNum) (t : VTy) (rm : Rm) (sb : Bool) (s : State) : Host.Outcome State Fault Refusal :=
  runFarV h d (a :: vecB sb b) (scaB sb b) (VTy.width t) rm (stepsOf t)
    (fun s m dr g gp old => vDiv t m dr g gp old (s.v a) (opB s (VTy.width t) sb b)) (.vdiv h d a b t rm sb) s
/-- VXF (R223). -/
def execVxf (h : Hdr) (d a : VNum) (t : VTy) (rm : Rm) (fn : Fun) (s : State) : Host.Outcome State Fault Refusal :=
  runFarV h d [a] [] (VTy.width t) rm (stepsOf t) (fun s m dr g gp old => vXf t fn m dr g gp old (s.v a)) (.vxf h d a t rm fn) s
/-- VCVT (R224): between integers nothing is rounded. -/
def execVcvt (h : Hdr) (d a : VNum) (dt sty : VTy) (rm : Rm) (x : Bool) (s : State) : Host.Outcome State Fault Refusal :=
  runNearV h d [a] [] [] (VTy.width dt) rm (if dt.isInt && sty.isInt then 0 else VTy.count dt)
    (fun s m dr g gp old => vCvt dt sty m dr x g gp old (s.v a)) s
/-- VSHL (R225). -/
def execVshl (h : Hdr) (d a b : VNum) (t : VTy) (sat sb : Bool) (s : State) : Host.Outcome State Fault Refusal :=
  runNearV h d (a :: vecB sb b) (scaB sb b) [] (VTy.width t) .rne 0
    (fun s _ _ g gp old => vShl t sat g gp old (s.v a) (opB s (VTy.width t) sb b)) s
/-- VDOT (R226): D is a source; a broadcast scalar gives its low 32 bits to every lane; 32 draws for a float type. -/
def execVdot (h : Hdr) (d a b : VNum) (t : VTy) (rm : Rm) (na nb sat sb : Bool) (s : State) :
    Host.Outcome State Fault Refusal :=
  runNearV h d (d :: a :: vecB sb b) (scaB sb b) [] 32 rm (if t.isInt then 0 else 32)
    (fun s m dr g gp old => vDot t m dr na nb sat g gp old (s.v a) (opB s 32 sb b)) s
/-- VCLAMP (R221). -/
def execVclamp (h : Hdr) (d a b c : VNum) (t : VTy) (sb : Bool) (s : State) : Host.Outcome State Fault Refusal :=
  runNearV h d (a :: c :: vecB sb b) (scaB sb b) [] (VTy.width t) .rne 0
    (fun s _ _ g gp old => vClamp t g gp old (s.v a) (opB s (VTy.width t) sb b) (s.v c)) s
/-- VSEL (R227). -/
def execVsel (h : Hdr) (d a b : VNum) (q : PReg) (neg : Bool) (t : VTy) (sb : Bool) (s : State) :
    Host.Outcome State Fault Refusal :=
  runNearV h d (a :: vecB sb b) (scaB sb b) [q] (VTy.width t) .rne 0
    (fun s _ _ g gp old =>
      vSel t (if neg then ~~~(s.p q).m else (s.p q).m) (s.p q).p g gp old (s.v a) (opB s (VTy.width t) sb b)) s

end Sys2Proof.Machine
end

