-- ==== Sys2Proof/Machine/VectorMove.lean ====
section
/-! DEFINITION. Group 6, vector moves, folds, narrow formats and the decode table (R252 to R260). -/
namespace Sys2Proof.Machine

/-- A near packet whose lanes are moved: no rounding, no flags (R254). -/
def runLanes (h : Hdr) (w : Nat) (d : VNum) (srcs : List VNum) (sc : List SReg) (f : State → Nat → Nat × Bool) (s : State) :
    Host.Outcome State Fault Refusal :=
  runNearV h d srcs sc [] w .rne 0 (fun s _ _ g gp old => vLanes w g gp old (f s)) s

/-- VMOV (R254). -/
def execVmov (h : Hdr) (d a : VNum) (s : State) : Host.Outcome State Fault Refusal :=
  runLanes h 32 d [a] [] (fun s e => (velt 32 (s.v a).bits e, vpois 32 (s.v a) e)) s
/-- VBCAST (R254). -/
def execVbcast (h : Hdr) (d : VNum) (a : SReg) (t : VTy) (s : State) : Host.Outcome State Fault Refusal :=
  runLanes h (VTy.width t) d [] [a] (fun s _ => ((s.s a).v.toNat % 2 ^ VTy.width t, (s.s a).p)) s
/-- VGET (R254). -/
def execVget (h : Hdr) (d : SReg) (a : VNum) (lane : BitVec 5) (sx : Bool) (s : State) :
    Host.Outcome State Fault Refusal :=
  runPacket h (NV [a] [] [d] []) false
    (fun s => withStreams h [a] none (fun s =>
      let x := BitVec.ofNat 32 (velt 32 (s.v a).bits lane.toNat)
      finS s h d [] ⟨if sx then x.signExtend 64 else x.setWidth 64, vpois 32 (s.v a) lane.toNat⟩ .use) s) s
/-- VINS (R254): the named lane alone, where it is governed. -/
def execVins (h : Hdr) (d : VNum) (a : SReg) (lane : BitVec 5) (s : State) : Host.Outcome State Fault Refusal :=
  runNearV h d [] [a] [] 32 .rne 0
    (fun s _ _ g gp old => vLanes 32 (g &&& ((1 : Word) <<< lane.toNat)) gp old
      fun _ => ((s.s a).v.toNat % 2 ^ 32, (s.s a).p)) s
/-- VPERM (R254). -/
def execVperm (h : Hdr) (d a b : VNum) (t : VTy) (sb : Bool) (s : State) : Host.Outcome State Fault Refusal :=
  runNearV h d (a :: vecB sb b) (scaB sb b) [] (VTy.width t) .rne 0
    (fun s _ _ g gp old => vPerm t g gp old (s.v a) (opB s (VTy.width t) sb b)) s
/-- VSLIDE (R254). -/
def execVslide (h : Hdr) (d a : VNum) (t : VTy) (n : BitVec 6) (s : State) : Host.Outcome State Fault Refusal :=
  runNearV h d [a] [] [] (VTy.width t) .rne 0 (fun s _ _ g gp old => vSlide t n.toInt g gp old (s.v a)) s
/-- Combinations of a fold that round (R255). -/
def foldSteps (t : VTy) (op : FoldOp) : Nat := if t.isInt || decide (op ≠ .add) then 0 else VTy.count t - 1
/-- VFOLD (R255): s(D) is written unless G = 0b1000. -/
def execVfold (h : Hdr) (d : SReg) (a : VNum) (t : VTy) (rm : Rm) (op : FoldOp) (s : State) :
    Host.Outcome State Fault Refusal :=
  runPacket h (NV [a] [] [d] []) false
    (fun s => withStreams h [a] none (fun s =>
      if gnever h then .done (s.wrT d (s.s d).v (s.s d).p (s.tag d)) none
      else
        let mode := effMode s rm
        let n := foldSteps t op
        let r := vFold t op mode (draws s h mode n) (gmask s h) (s.v a)
        let fl := if gpois s h then 0 else r.2
        match fpTrap s fl with
        | some t => .trap t
        | none => .done ((orFlags (stepSeed s h mode n) fl).wr d r.1.v (r.1.p || gpois s h)) none) s) s
/-- VSCAN (R255). -/
def execVscan (h : Hdr) (d a : VNum) (t : VTy) (rm : Rm) (op : FoldOp) (s : State) : Host.Outcome State Fault Refusal :=
  runNearV h d [a] [] [] (VTy.width t) rm (foldSteps t op) (fun s m dr g gp old => vScan t op m dr g gp old (s.v a)) s
/-- VIDX (R254). -/
def execVidx (h : Hdr) (d : VNum) (m : Bool) (s : State) : Host.Outcome State Fault Refusal :=
  runLanes h (if m then 16 else 32) d [] [] (fun _ e => (e, false)) s

/-- Does a packed format round? -/
def PackTy.rounds : PackTy → Bool
  | .t8 => false | .i8 => false | .i16 => false | _ => true
/-- Lane 0 replaced by an MX scale (R256). -/
def putScale (b : VVal) (s : SVal) (gp : Bool) : VVal :=
  ⟨BitVec.ofNat 1024 (b.bits.toNat - velt 32 b.bits 0 + s.v.toNat % 256),
    if gp then BitVec.allOnes 32 else (b.poison &&& ~~~(1 : BitVec 32)) ||| (if s.p then 1 else 0)⟩
/-- VPACK (R256): D whole, and for E2M1 the block scale in lane 0 of B. -/
def execVpack (h : Hdr) (d a b : VNum) (dt : PackTy) (rm : Rm) (nar : Bool) (s : State) :
    Host.Outcome State Fault Refusal :=
  runPacket h (NV (d :: a :: (if dt = .e2m1 then [b] else [])) [] [] []) false
    (fun s => match if dt = .e2m1 && !gnever h then dstStop s b else none with
      | some p => p
      | none => withStreams h [a] (some d) (fun s =>
        if gnever h then .done ((if dt = .e2m1 then s.wvb h b (s.old b) else s).wvb h d (s.old d)) none
        else
          let mode := effMode s rm
          let n := if PackTy.rounds dt then 32 else 0
          let r := vPack dt mode (draws s h mode n) nar s.core.table.items (gmask s h) (gpois s h) (s.v a)
          match fpTrap s r.2.2 with
          | some t => .trap t
          | none =>
            let s1 := (orFlags (stepSeed s h mode n) r.2.2).wvb h d r.1
            .done (if dt = .e2m1 then s1.wvb h b (putScale (s.old b) r.2.1 (gpois s h)) else s1) none) s) s
/-- VUNPK (R257). -/
def execVunpk (h : Hdr) (d a : VNum) (sty : PackTy) (n : Bool) (s : State) : Host.Outcome State Fault Refusal :=
  runLanes h 32 d [a] [] (fun s e => unpkLane sty n s.core.table.items (s.v a) e) s
/-- TENC (R259). -/
def execTenc (h : Hdr) (d a : VNum) (s : State) : Host.Outcome State Fault Refusal :=
  runNearV h d [a] [] [] 32 .rne 0
    (fun s _ _ g gp old => assemble 32 g gp old fun e =>
      let r := tEnc s.core.table.items (velt 32 (s.v a).bits e)
      { r with p := r.p || vpois 32 (s.v a) e }) s
/-- TDEC (R259). -/
def execTdec (h : Hdr) (d a : VNum) (s : State) : Host.Outcome State Fault Refusal :=
  runLanes h 32 d [a] [] (fun s e =>
    let c := velt 32 (s.v a).bits e % 256
    (f19ToF32 ((s.core.table.items.getD c ⟨0, false⟩).v), vpois 32 (s.v a) e || tpoi s.core.table.items c)) s
/-- VMXS (R258). -/
def execVmxs (h : Hdr) (d a b : VNum) (rm : Rm) (inf sb : Bool) (s : State) : Host.Outcome State Fault Refusal :=
  runNearV h d (a :: vecB sb b) (scaB sb b) [] 32 rm 32
    (fun s m dr g gp old =>
      let sc := if sb then (s.s b).v.toNat % 256 else velt 32 (s.v b).bits 0 % 256
      let sp := if sb then (s.s b).p else vpois 32 (s.v b) 0
      vMxs m dr inf sc sp g gp old (s.v a)) s

/-- TLOAD (R260): the blocks' addresses are settled before it retires; the read and the token follow its commit. -/
def execTload (h : Hdr) (d a : SReg) (s : State) : Host.Outcome State Fault Refusal :=
  runPacket h { N1 d a with far := .scalar, noGuest := true } false
    (fun s =>
      let r := s.k 0
      let off := (s.s a).v
      ender s h
        (fun s => causes [
          causeIf (s.s a).p (trapOf cPoison),
          causeIf (decide (off.toNat % 64 ≠ 0)) ⟨cMisaligned, off, auxOf r none⟩,
          spanAccess s r off 1024 [permR]])
        (fun s => match xlate s s.ctl.cur s.me.space [permR] (vaOf r off) 1024 with
          | .miss va => missRes s s.me.space va
          | .padMiss l => padMissRes s l
          | .bad c o => .trap ⟨c, o, auxOf r none⟩
          | .ok as =>
            let ls := (List.range 16).map fun j => as.getD (64 * j) 0
            let s1 := { s with core := { s.core with tabBusy := s.core.tabBusy + 1 } }
            .own ((s1.farS d none 0 true).later [.tableLoadComplete ⟨s.ref, ls⟩]) none)) s

end Sys2Proof.Machine
end

