-- ==== Sys2Proof/Machine/LoadStore.lean ====
section
/-! DEFINITION. Group 4, the loads and stores that are part of a chunk, and PREF (R228, R230, R232 to R235, R243). -/
namespace Sys2Proof.Machine

/-- A scalar load of R232 at an offset, under a guard that is true: alignment, translation, the value owed to D. -/
def loadAt (s : State) (d : SReg) (addr : List SReg) (r : BitVec 16) (off : Word) (t : IType) : PRes :=
  if addr.any (fun a => (s.s a).p) then .trap (trapOf cPoison)
  else if off.toNat % IType.size t ≠ 0 then .trap ⟨cMisaligned, off, auxOf r none⟩
  else match access s r off (IType.size t) [permR] true false none with
    | .stop p => p
    | .ok as =>
      let x := loadScalar (useRegs s addr) as (vaOf r off) t
      .done ((checkIf x.2.2 x.1.p .loaded).farS d (some (.scalar x.1 x.2.1)) 0 false) none
/-- A scalar store of R232 at an offset. -/
def storeAt (s : State) (d : SReg) (addr : List SReg) (r : BitVec 16) (off : Word) (t : IType) : PRes :=
  if addr.any (fun a => (s.s a).p) then .trap (trapOf cPoison)
  else if off.toNat % IType.size t ≠ 0 then .trap ⟨cMisaligned, off, auxOf r none⟩
  else match access s r off (IType.size t) [permW] false true none with
    | .stop p => p
    | .ok as =>
      let x := s.s d
      let conc := addr.all fun a => (s.tag a).isNone
      let tag := if conc then s.tag d else none
      let s1 := useRegs s (if conc then addr else d :: addr)
      .done (checkIf (addHeld s1 as (vaOf r off) (leBytes (IType.size t) x.v.toNat) x.p tag) x.p .stored) none

/-- LD (R232). -/
def execLd (h : Hdr) (d a b : SReg) (k : KReg) (t : IType) (sh : BitVec 2) (disp : BitVec 5) (s : State) :
    Host.Outcome State Fault Refusal :=
  runPacket h { N2 d a b with far := .scalar } false
    (fun s => farGuard s h fun s => loadAt s d [a, b] (s.k k) (offIndexed s a b sh disp t) t) s
/-- ST (R232). -/
def execSt (h : Hdr) (d a b : SReg) (k : KReg) (t : IType) (sh : BitVec 2) (disp : BitVec 5) (s : State) :
    Host.Outcome State Fault Refusal :=
  runPacket h ⟨[d, a, b], [], [], [], [], false, false, .scalar⟩ false
    (fun s => ctlGuard s h fun s => storeAt s d [a, b] (s.k k) (offIndexed s a b sh disp t) t) s
/-- LDO (R232). -/
def execLdo (h : Hdr) (d a : SReg) (k : KReg) (t : IType) (i : BitVec 48) (s : State) : Host.Outcome State Fault Refusal :=
  runPacket h { N1 d a with far := .scalar } false
    (fun s => farGuard s h fun s => loadAt s d [a] (s.k k) (offImm s a i) t) s
/-- STO (R232). -/
def execSto (h : Hdr) (d a : SReg) (k : KReg) (t : IType) (i : BitVec 48) (s : State) : Host.Outcome State Fault Refusal :=
  runPacket h ⟨[d, a], [], [], [], [], false, false, .scalar⟩ false
    (fun s => ctlGuard s h fun s => storeAt s d [a] (s.k k) (offImm s a i) t) s

/-! Vector accesses. -/

/-- The governed elements of a packet among n of width w. -/
def governed (s : State) (h : Hdr) (w n : Nat) : List Nat := (List.range n).filter (govBit w (gmask s h))
/-- Lines that a vector load read, and the addresses that its elements were translated from (R287, R288). -/
def recordReads (s : State) (xs : List (List Nat × Nat)) : State :=
  let ls := (xs.flatMap fun x => x.1.map (· / 64)).foldl (fun (l : List Nat) a => if l.contains a then l else a :: l) []
  let va := (xs.head?.map (·.2)).getD 0
  modCur s fun c => { c with
    reads := ls.map (fun l => ⟨l, s.me.space, va, true⟩) ++ c.reads, trans := xs.flatMap (fun x => touchAt s x.2) ++ c.trans }
/-- Addresses that a vector store translated (R287). -/
def noteTrans (s : State) (vas : List Nat) : State := modCur s fun c => { c with trans := vas.flatMap (touchAt s) ++ c.trans }

/-- The value of a vector load: governed elements from memory, the others old (R234, R235). -/
def gathered (m : Memory) (w : Nat) (mask : Word) (old : VVal) (es : List Nat) (as : List (List Nat))
    (f : Nat → Nat → Nat × Bool) : VVal :=
  let tab := es.zip as
  (assemble w mask false old fun e =>
    match tab.find? (fun x => x.1 = e) with
    | none => ⟨0, false, 0⟩
    | some x =>
      let r := f e (leNat (m.gather x.2))
      ⟨r.1, r.2 || m.gatherP x.2, 0⟩).val

/-- A vector load's end: the whole destination is owed (R234); its reads and its poison are recorded. -/
def finLoad (s : State) (h : Hdr) (d : VNum) (w : Nat) (addr : List SReg) (es : List Nat) (offs : List Nat)
    (as : List (List Nat)) (f : Nat → Nat → Nat × Bool) : PRes :=
  let m := viewMem s s.ctl.cur
  let v := gathered m w (gmask s h) (s.old d) es as f
  let ts := (s.me.cur.stores.filter fun x => as.any fun l => l.any fun a => x.meets a 1).map (·.sym)
  let s1 := opaqueTags (recordReads (useRegs s addr) (as.zip offs)) ts
  let poisoned := es.any fun e => vpois w v e && (as.zip es).any fun x => decide (x.2 = e) && m.gatherP x.1
  .done ((checkIf s1 poisoned .loaded).farVb h d v 0) none

/-- The window format of a local offset (R154, R229). -/
def windowFmt (s : State) (off : Word) : Option WFmt := WFmt.ofCode (s.cl.wfmt.get (fin8 (off.extractLsb' 20 3).toNat))
/-- How an access of a vector type at reach : off moves its data (R155). -/
def pairAt (s : State) (r : BitVec 16) (off : Word) (t : VTy) (store : Bool) : Pairing :=
  if r = localReach then pairing t (windowFmt s off) store else .raw
/-- Bits of an element in memory. -/
def pairBits (t : VTy) : Pairing → Nat
  | .widen f => f.bitsOf
  | _ => VTy.width t
/-- The bytes of element e at off: its offset and size. -/
def elemOff (off : Word) (bits e : Nat) : Word := off + BitVec.ofNat 64 (bits * e / 8)
def elemLen (bits : Nat) : Nat := (bits + 7) / 8
/-- A loaded element as the register holds it. -/
def loadElem (s : State) (t : VTy) (p : Pairing) (e c : Nat) : Nat × Bool :=
  match p with
  | .widen f => widenElem f t s.core.table.items (if f.bitsOf = 4 then c / 16 ^ (e % 2) % 16 else c)
  | _ => (c, false)

/-- VLD (R233, R234). -/
def execVld (h : Hdr) (d : VNum) (a b : SReg) (disp : BitVec 5) (k : KReg) (t : VTy) (sh : BitVec 2) (s : State) :
    Host.Outcome State Fault Refusal :=
  let w := VTy.width t
  runPacket h { NV [d] [a, b] [] [] with far := .vec w (some d) } false
    (fun s => if gpois s h then .trap (trapOf cPoison) else withStreams h [] (some d) (fun s =>
      if !gany s h w then .done (s.wvb h d (s.old d)) none
      else if (s.s a).p || (s.s b).p then .trap (trapOf cPoison)
      else
        let r := s.k k
        let off := offVector s a b sh disp
        let p := pairAt s r off t false
        let bits := pairBits t p
        let es := governed s h w (VTy.count t)
        let spots := es.map fun e => (laneOf w e, elemOff off bits e, elemLen bits)
        if off.toNat % elemLen bits ≠ 0 then .trap ⟨cMisaligned, off, auxOf r (es.head?.map (laneOf w))⟩
        else match translatedAll s r [permR] spots with
          | .stop q => q
          | .ok as =>
            if p = .illegal then .trap (trapOf cIllegal)
            else match breakAll s r true false spots with
              | some q => q
              | none => finLoad s h d w [a, b] es (spots.map fun x => vaOf r x.2.1) as (loadElem s t p)) s) s

/-- A stored element: its bits, its flags (R155, R234). -/
def narrowed (t : VTy) (p : Pairing) (mode : RMode) (dr : List Word) (x : Bool) (e c : Nat) : Nat × Flags :=
  match p with
  | .widen f => narrowElem f t mode (rnd24 dr e) x c
  | _ => (c, 0)
/-- Draws of a store: one per element where a float is narrowed (R234). -/
def storeSteps : Pairing → Nat
  | .widen f => if f.ffmt.isSome then 32 else 0
  | _ => 0

/-- A narrowing VST is in flight for FPFLAGS until its seal entry is applied (R199). -/
def narrowing (p : Pairing) (s : State) : State :=
  if storeSteps p = 0 then s else { s with ctl := { s.ctl with narrow := true } }
/-- Held stores of a vector packet's elements, lowest first (R234, R235). -/
def addElems (s : State) (vas : List Nat) (parts : List (Nat × List Byte × Bool)) : State :=
  checkIf (noteTrans (addParts s (vas.headD 0) parts) vas) (parts.any fun x => x.2.2) .stored

/-- VST (R233, R234). -/
def execVst (h : Hdr) (d : VNum) (a b : SReg) (disp : BitVec 5) (k : KReg) (t : VTy) (sh : BitVec 2) (rm : Rm) (nar : Bool)
    (s : State) : Host.Outcome State Fault Refusal :=
  let w := VTy.width t
  runPacket h { NV [d] [a, b] [] [] with far := .vec w none } false
    (fun s => if gpois s h then .trap (trapOf cPoison) else withStreams h [d] none (fun s =>
      let r := s.k k
      let off := offVector s a b sh disp
      let p := pairAt s r off t true
      let mode := effMode s rm
      let n := storeSteps p
      if !gany s h w then .done (stepSeed s h mode n) none
      else if (s.s a).p || (s.s b).p then .trap (trapOf cPoison)
      else
        let bits := pairBits t p
        let es := governed s h w (VTy.count t)
        let spots := es.map fun e => (laneOf w e, elemOff off bits e, elemLen bits)
        if off.toNat % elemLen bits ≠ 0 then .trap ⟨cMisaligned, off, auxOf r (es.head?.map (laneOf w))⟩
        else match translatedAll s r [permW] spots with
          | .stop q => q
          | .ok as =>
            if p = .illegal then .trap (trapOf cIllegal)
            else match breakAll s r false true spots with
              | some q => q
              | none =>
                let v := s.v d
                let dr := draws s h mode n
                let xs := (es.zip as).map fun x =>
                  let q := narrowed t p mode dr nar x.1 (velt w v.bits x.1)
                  let po := vpois w v x.1
                  ((x.2.headD 0, leBytes (elemLen bits) q.1, po), if po then 0 else q.2)
                let fl := xs.foldl (fun (f : Flags) x => f ||| x.2) 0
                match fpTrap s fl with
                | some tr => .trap tr
                | none =>
                  .done (narrowing p (addElems (orFlags (stepSeed (useRegs s [a, b]) h mode n) fl)
                    (spots.map fun x => vaOf r x.2.1) (xs.map (·.1)))) none) s) s

/-- The lanes of an indexed access: poison of a governed index, alignment, translation (R235); the words' addresses. -/
def laneAccess (s : State) (h : Hdr) (a : SReg) (iv : VVal) (r : BitVec 16) (sh : BitVec 2) (sgn : Bool) (ps : List Nat)
    (es : List Nat) : Accs :=
  let spots := es.map fun e => (e, offLane s a iv sh sgn e, 4)
  if gpois s h || (s.s a).p || es.any (fun e => iv.poison.getLsbD e) then .stop (.trap (trapOf cPoison))
  else match spots.find? fun x => decide (x.2.1.toNat % 4 ≠ 0) with
    | some x => .stop (.trap ⟨cMisaligned, x.2.1, auxOf r (some x.1)⟩)
    | none => match translatedAll s r ps spots with
      | .stop q => .stop q
      | .ok as =>
        if r = localReach ∧ spots.any (fun x => decide ((windowFmt s x.2.1).map WFmt.bitsOf ≠ some 32)) then
          .stop (.trap (trapOf cIllegal))
        else match breakAll s r (ps.contains permR) (ps.contains permW) spots with
          | some q => .stop q
          | none => .ok as

/-- VLDG (R235). -/
def execVldg (h : Hdr) (d : VNum) (a : SReg) (b : VNum) (k : KReg) (t : VTy) (sh : BitVec 2) (sgn : Bool) (s : State) :
    Host.Outcome State Fault Refusal :=
  let w := VTy.width t
  runPacket h { NV [d, b] [a] [] [] with far := .vec w (some d) } false
    (fun s => if gpois s h then .trap (trapOf cPoison) else withStreams h [b] (some d) (fun s =>
      let es := governed s h 32 32
      if !gany s h w then .done (s.wvb h d (s.old d)) none
      else match laneAccess s h a (s.v b) (s.k k) sh sgn [permR] es with
        | .stop q => q
        | .ok as => finLoad s h d 32 [a] es (es.map fun e => vaOf (s.k k) (offLane s a (s.v b) sh sgn e)) as
            (fun _ c => (c, false))) s) s
/-- VSTS (R235): in increasing lane order. -/
def execVsts (h : Hdr) (d : VNum) (a : SReg) (b : VNum) (k : KReg) (t : VTy) (sh : BitVec 2) (sgn : Bool) (s : State) :
    Host.Outcome State Fault Refusal :=
  let w := VTy.width t
  runPacket h { NV [d, b] [a] [] [] with far := .vec w none } false
    (fun s => if gpois s h then .trap (trapOf cPoison) else withStreams h [d, b] none (fun s =>
      let es := governed s h 32 32
      if !gany s h w then .done s none
      else match laneAccess s h a (s.v b) (s.k k) sh sgn [permW] es with
        | .stop q => q
        | .ok as =>
          let v := s.v d
          .done (addElems (useRegs s [a]) (es.map fun e => vaOf (s.k k) (offLane s a (s.v b) sh sgn e))
            ((es.zip as).map fun x => (x.2.headD 0, leBytes 4 (velt 32 v.bits x.1), v.poison.getLsbD x.1))) none) s) s

/-- PREF (R243) never traps and changes no program-visible state. -/
def execPref (h : Hdr) (_k : KReg) (a : SReg) (_m : Bool) (s : State) : Host.Outcome State Fault Refusal :=
  runPacket h ⟨[a], [], [], [], [], false, false, .near⟩ false
    (fun s => .done (if gbit s h && !gpois s h then useRegs s [a] else s) none) s

end Sys2Proof.Machine
end

