-- ==== Sys2Proof/Machine/Sync.lean ====
section
/-! DEFINITION. Group 4, operations performed at a word's home (R230, R236 to R241, R280): full/empty words, atomics,
near-data reduction; the gather GATHN (R242); how messages leave for other packages (R390 to R393). -/
namespace Sys2Proof.Machine

/-! What the home does. -/

/-- The bytes a singleton works on. -/
def kindSize (ty : IType) : HomeKind → Nat
  | .feset _ => 8
  | .atom _ w4 => if w4 then 4 else 8
  | .cas w4 => if w4 then 4 else 8
  | .vred _ _ _ => 128
  | _ => IType.size ty
def opSize (op : HomeOp) : Nat := kindSize op.ty op.kind

/-- Is the singleton ready (R237)? -/
def opReady (m : Memory) (op : HomeOp) : Bool :=
  match op.kind with
  | .ldf => m.full op.addr
  | .ldfe => m.full op.addr
  | .stef => !m.full op.addr
  | _ => true

/-- The new value of ATOM (R240), on the low 8 × w bits. -/
def atomNew (op : AtomOp) (w4 : Bool) (old b : Nat) : Nat :=
  let n : Nat := if w4 then 32 else 64
  let pick (s wantMax : Bool) : Nat :=
    let x := codeInt s n old
    let y := codeInt s n b
    if (if wantMax then decide (y < x) else decide (x < y)) then old else b
  let half (k : Nat) : Nat := redElem .add .bf16 (old / 2 ^ (16 * k) % 2 ^ 16) (b / 2 ^ (16 * k) % 2 ^ 16)
  let F := if w4 then fmtF32 else fmtF64
  match op with
  | .add => (old + b) % 2 ^ n
  | .and => old &&& b
  | .or => old ||| b
  | .xor => old ^^^ b
  | .min => pick true false
  | .max => pick true true
  | .minu => pick false false
  | .maxu => pick false true
  | .exch => b
  | .fadd32 => redElem .add .f32 old b
  | .faddbf => half 0 + 2 ^ 16 * half 1
  | .fmin => (fMinMax F false old b).bits
  | .fmax => (fMinMax F true old b).bits

/-- The value a singleton returns. -/
def homeValue (m : Memory) (op : HomeOp) : SVal :=
  let v := m.nat op.addr (opSize op)
  let p := m.poisAny op.addr (opSize op)
  match op.kind with
  | .ldf => ⟨op.ty.extend v, p⟩
  | .ldfe => ⟨op.ty.extend v, p⟩
  | .atom _ _ => ⟨BitVec.ofNat 64 v, p⟩
  | .cas _ => ⟨BitVec.ofNat 64 v, p⟩
  | _ => ⟨0, false⟩

/-- One governed element of VRED at its address (R241). -/
def redStore (op : FoldOp) (t : VTy) (x : VVal) (m : Memory) (e : Nat × Nat) : Memory :=
  let w := VTy.width t
  m.store e.2 (leBytes (w / 8) (redElem op t (m.nat e.2 (w / 8)) (velt w x.bits e.1))) (vpois w x e.1 || m.pois e.2)

/-- Memory after the home has performed a singleton. -/
def homeMem (m : Memory) (op : HomeOp) : Memory :=
  let n := opSize op
  let lo (x : Word) : Nat := x.toNat % 2 ^ (8 * n)
  match op.kind with
  | .ldf => m
  | .ldfe => m.setFull op.addr false
  | .stef => (m.store op.addr (leBytes n op.b.v.toNat) op.b.p).setFull op.addr true
  | .stf => (m.store op.addr (leBytes n op.b.v.toNat) op.b.p).setFull op.addr true
  | .feset f => m.setFull op.addr f
  | .atom k w4 => m.store op.addr (leBytes n (atomNew k w4 (m.nat op.addr n) (lo op.b.v))) (m.poisAny op.addr n || op.b.p)
  | .cas _ =>
    let old := m.nat op.addr n
    m.store op.addr (leBytes n (if old = lo op.b.v then lo op.c.v else old)) (m.poisAny op.addr n || op.b.p || op.c.p)
  | .vred k t es => es.foldl (redStore k t op.vec) m

/-- The lines a singleton writes, a change of a full/empty bit counted (R277, R289). -/
def opLines (op : HomeOp) : List Nat :=
  match op.kind with
  | .ldf => []
  | .vred _ _ es => es.foldl (fun l x => if l.contains (x.2 / 64) then l else (x.2 / 64) :: l) []
  | _ => linesOf op.addr (opSize op)

/-- A poisoned value that a singleton writes (R64). -/
def opStored (m : Memory) (op : HomeOp) : Bool :=
  match op.kind with
  | .ldf => false
  | .ldfe => false
  | .feset _ => false
  | .vred _ _ es => es.any fun x => (homeMem m op).pois x.2
  | _ => op.b.p || (homeMem m op).poisAny op.addr (opSize op)

/-! Messages to other packages (R390 to R393). -/

/-- The next end-to-end number toward a package on a virtual network (R393). -/
def nextE2E (s : State) (dest : BitVec 8) (vn : BitVec 2) : Nat :=
  match s.pkg.e2eSend.find? fun (x : BitVec 8 × BitVec 2 × Nat) => decide (x.1 = dest) && decide (x.2.1 = vn) with | some x => x.2.2 | none => 0
/-- The lowest link that is up and has room in its replay buffer (R391, R393). -/
def liveLink (s : State) : Option LinkN :=
  (List.finRange 18).find? fun l => (s.pkg.links.get l).up && decide ((s.pkg.links.get l).replay.length < 512)
def setLink (s : State) (l : LinkN) (k : Link) : State :=
  { s with pkg := { s.pkg with links := s.pkg.links.set l k } }
def getLink (s : State) (l : LinkN) : Link := s.pkg.links.get l
/-- One bit of the division by the polynomial of ECMA-182, the highest bit first (R390; log 39). -/
def crcBit (c : BitVec 64) : BitVec 64 := if c.getLsbD 63 then (c <<< 1) ^^^ 0x42F0E1EBA9EA3693#64 else c <<< 1
def crcByte (c : BitVec 64) (b : Byte) : BitVec 64 :=
  (List.range 8).foldl (fun c _ => crcBit c) (c ^^^ (b.setWidth 64 <<< 56))
/-- CRC-64 of bytes in their order, from zero (R390; log 39). -/
def crc64 (bs : List Byte) : BitVec 64 := bs.foldl crcByte 0
/-- Bytes 0 to 247 of a flit: SEQ and TYPE, ACKSEQ, ACKV, VN and POISON, the payload (R390). -/
def flitBytes (f : Flit) : List Byte :=
  leBytes 2 (f.seq.toNat + 2 ^ 12 * f.type.toNat) ++
  leBytes 2 (f.ackseq.toNat + 2 ^ 12 * f.ackv.toNat + 2 ^ 13 * f.vn.toNat + 2 ^ 15 * f.poison.toNat) ++
  f.data.take 244 ++ List.replicate (244 - f.data.length) 0
/-- Does a flit carry the CRC of its bytes? -/
def flitGood (f : Flit) : Bool := decide (f.crc = crc64 (flitBytes f))
/-- A flit with the CRC of its bytes. -/
def sealFlit (f : Flit) : Flit := { f with crc := crc64 (flitBytes f) }
theorem sealFlit_good (f : Flit) : flitGood (sealFlit f) = true := by simp [flitGood, sealFlit, flitBytes]
/-- A payload flit on a link, kept for replay (R390, R391); the bytes that a message takes in it are not laid out (log 39). -/
def sendFlit (s : State) (l : LinkN) (vn : BitVec 2) : State :=
  let k := getLink s l
  let f := sealFlit ⟨k.sendSeq, 1, k.expect - 1, true, vn, false, [], 0⟩
  (setLink s l { k with sendSeq := k.sendSeq + 1, replay := k.replay ++ [f] }).send (.flit l f)
/-- A message takes its way over a live link; where none is live it waits (R393). -/
def transmit (s : State) (dest : BitVec 8) (m : E2EMsg) : State :=
  match liveLink s with
  | some l => (sendFlit s l m.vn).send (.e2e dest m)
  | none => s
/-- A message with the next number toward its destination. -/
def numbered (s : State) (dest : BitVec 8) (vn : BitVec 2) (body : E2EBody) : E2EMsg × State :=
  let n := nextE2E s dest vn
  (⟨s.pkg.mgmt.pkg, vn, n, body⟩,
    { s with pkg := { s.pkg with
      e2eSend := (s.pkg.e2eSend.filter fun (x : BitVec 8 × BitVec 2 × Nat) => !(decide (x.1 = dest) && decide (x.2.1 = vn))) ++ [(dest, vn, n + 1)] } })
/-- A message between packages leaves and is kept until it is acknowledged. -/
def sendE2E (s : State) (dest : BitVec 8) (vn : BitVec 2) (body : E2EBody) : State :=
  let r := numbered s dest vn body
  transmit { r.2 with pkg := { r.2.pkg with e2eKept := r.2.pkg.e2eKept ++ [(dest, r.1)] } } dest r.1
/-- The package that an address belongs to. -/
def packageOf (a : Nat) : BitVec 8 := BitVec.ofNat 8 (a / 2 ^ 40)

/-! Waiters (R237, R238). -/

/-- The operand of RESUME that names a waiter (R318). -/
def waiterName (core : CoreId) (slot : SlotN) : Word := BitVec.ofNat 64 (core.toNat + 2 ^ 14 * slot.val)
/-- The physical address that an event names; a pad word is named by its pad offset (log 7). -/
def nameOfWord (a : Nat) : Word := BitVec.ofNat 64 (if isPad a then a - padBase else a)
/-- Whose packet an operation at a home is: a slot's of this core, a slot's of another core, one of another package. -/
inductive Issuer where
  | slot (i : SlotN)
  | core (who : Waiter)
  | away (src : BitVec 8) (who : Waiter)
/-- A Waited Word event for the ranger of the core that issued the packet, with the packet's slot (R80, R237, R313). -/
def waitedWord (s : State) (by_ : Issuer) (addr : Nat) (core : CoreId) (slot : SlotN) : State :=
  let ev (i : SlotN) : EventRec := ⟨cWaited, BitVec.ofNat 4 i.val, nameOfWord addr, waiterName core slot⟩
  match by_ with
  | .slot i => s.later [.eventEnqueue (ev i)]
  | .core w => if w.core = s.core.id then s.later [.eventEnqueue (ev w.slot)] else s.send (.event w.core (ev w.slot))
  | .away src w => sendE2E s src 0 (.event w.core (ev w.slot))
/-- The waiter of the word that holds a, where its state is now the one it needs: the entry goes, its event leaves. -/
def wakeWaiter (s : State) (by_ : Issuer) (a : Nat) : State :=
  match s.cl.waiters.find? fun w => decide (w.addr = a / 8 * 8) && decide (w.full = s.mem.full a) with
  | none => s
  | some w => waitedWord { s with cl := { s.cl with waiters := s.cl.waiters.filter fun x => decide (x.addr ≠ a / 8 * 8) } }
      by_ w.addr w.core w.slot
/-- A singleton takes its place in the commit order (R280). -/
def performHome (s : State) (by_ : Issuer) (op : HomeOp) : State :=
  let s1 := markWrite { s with mem := homeMem s.mem op } none (opLines op)
  if op.fe then wakeWaiter s1 by_ op.addr else s1

/-- Do the lines of a singleton stand open to it (R284, R298, R388)? -/
def opFree (s : State) (i : SlotN) (op : HomeOp) : Bool := linesFree s (some i) (opLines op)

/-- CHECK after a singleton of slot i (R64). -/
def opCheck (s : State) (i : SlotN) (v : SVal) (stored : Bool) : State :=
  let s1 := if v.p then checkNow s i .loaded else s
  if stored then checkNow s1 i .stored else s1

/-- What the packet in hand took from streams and noted for CHECK commits with the chunk it forms (R268). -/
def settleOwn (s : State) (i : SlotN) (c : Chunk) : State :=
  (commitStreams s i c).modTh i fun t => { t with check := applyCheck t.check c.check }

/-- A singleton of the packet in hand, its chunk alone (R230): performed at once where its home is ready; else the thread
waits beside it; a remote home performs it when its message arrives there (R285). -/
def single (s : State) (d : Option SReg) (op : HomeOp) : PRes :=
  let i := s.ctl.cur
  let ref := d.map fun _ => s.ref
  let owe (s : State) (v : Option FarVal) : State := match d with | some d => s.farS d v 0 false | none => s
  let w : SyncWait := ⟨op, ref, 0, s.me.pc, s.me.cur, false, none⟩
  if isRemote s op.addr then
    .own ((owe s none).modMe fun t => { t with sync := some w }) none
  else if opReady s.mem op && opFree s i op then
    let v := homeValue s.mem op
    .own (settleOwn (opCheck (owe (performHome s (.slot i) op) (some (.scalar v none))) i v (opStored s.mem op)) i s.me.cur) none
  else .own ((owe s none).modMe fun u => { u with sync := some w }) none

/-! The packets. -/

/-- Does the word of an access have full/empty state (R236)? -/
def hasState (s : State) (reach : BitVec 16) (off : Word) : Bool :=
  match xByte s s.ctl.cur s.me.space (vaOf reach off) [] with
  | .ok _ fe => fe
  | _ => false

/-- The checks of a singleton at reach : off in the order of R228; the address. -/
def homeAccess (s : State) (addr : List SReg) (r : BitVec 16) (off : Word) (n align : Nat) (ps : List Nat) (fe : Bool) : Acc :=
  if addr.any (fun a => (s.s a).p) then .stop (.trap (trapOf cPoison))
  else if off.toNat % align ≠ 0 then .stop (.trap ⟨cMisaligned, off, auxOf r none⟩)
  else match translated s r off n ps none with
    | .stop q => .stop q
    | .ok as =>
      if fe && !hasState s r off then .stop (.trap ⟨cPermission, off, auxOf r none⟩)
      else match breakAt s r off n true true none with
        | some q => .stop q
        | none => .ok as

/-- A singleton packet: its checks, CommitWait, its operation. -/
def runSingle (h : Hdr) (n : Names) (d : Option SReg) (used : List SReg) (acc : State → Acc) (mk : State → Nat → HomeOp)
    (s : State) : Host.Outcome State Fault Refusal :=
  runPacket h n false
    (fun s => farGuard s h fun s => match acc s with
      | .stop q => q
      | .ok as => commitWait s fun s => single (useRegs s used) d (mk s (as.headD 0))) s

/-- The names of a load-shaped and of a store-shaped singleton. -/
def NL (d a b : SReg) : Names := { N2 d a b with far := .scalar }
def NF (rs : List SReg) : Names := { NS rs with far := .scalar }

/-- LDF (R237). -/
def execLdf (h : Hdr) (d a b : SReg) (k : KReg) (t : IType) (sh : BitVec 2) (disp : BitVec 5) (s : State) :
    Host.Outcome State Fault Refusal :=
  runSingle h (NL d a b) (some d) [a, b]
    (fun s => homeAccess s [a, b] (s.k k) (offIndexed s a b sh disp t) (IType.size t) (IType.size t) [permR] true)
    (fun _ x => ⟨.ldf, x, t, true, ⟨0, false⟩, ⟨0, false⟩, ⟨0, 0⟩, 0⟩) s
/-- LDFE (R237). -/
def execLdfe (h : Hdr) (d a b : SReg) (k : KReg) (t : IType) (sh : BitVec 2) (disp : BitVec 5) (s : State) :
    Host.Outcome State Fault Refusal :=
  runSingle h (NL d a b) (some d) [a, b]
    (fun s => homeAccess s [a, b] (s.k k) (offIndexed s a b sh disp t) (IType.size t) (IType.size t) [permR, permW] true)
    (fun _ x => ⟨.ldfe, x, t, true, ⟨0, false⟩, ⟨0, false⟩, ⟨0, 0⟩, 0⟩) s
/-- STEF (R237). -/
def execStef (h : Hdr) (d a b : SReg) (k : KReg) (t : IType) (sh : BitVec 2) (disp : BitVec 5) (s : State) :
    Host.Outcome State Fault Refusal :=
  runSingle h (NF [d, a, b]) none [d, a, b]
    (fun s => homeAccess s [a, b] (s.k k) (offIndexed s a b sh disp t) (IType.size t) (IType.size t) [permW] true)
    (fun s x => ⟨.stef, x, t, true, s.s d, ⟨0, false⟩, ⟨0, 0⟩, 0⟩) s
/-- STF (R237). -/
def execStf (h : Hdr) (d a b : SReg) (k : KReg) (t : IType) (sh : BitVec 2) (disp : BitVec 5) (s : State) :
    Host.Outcome State Fault Refusal :=
  runSingle h (NF [d, a, b]) none [d, a, b]
    (fun s => homeAccess s [a, b] (s.k k) (offIndexed s a b sh disp t) (IType.size t) (IType.size t) [permW] true)
    (fun s x => ⟨.stf, x, t, true, s.s d, ⟨0, false⟩, ⟨0, 0⟩, 0⟩) s
/-- FESET (R237). -/
def execFeset (h : Hdr) (k : KReg) (a : SReg) (m : Bool) (s : State) : Host.Outcome State Fault Refusal :=
  runSingle h (NF [a]) none [a]
    (fun s => homeAccess s [a] (s.k k) (s.s a).v 8 8 [permW] true)
    (fun _ x => ⟨.feset m, x, .i64, true, ⟨0, false⟩, ⟨0, false⟩, ⟨0, 0⟩, 0⟩) s
/-- ATOM (R239, R240). -/
def execAtom (h : Hdr) (d a b : SReg) (k : KReg) (op : AtomOp) (w : Bool) (s : State) : Host.Outcome State Fault Refusal :=
  runSingle h (NL d a b) (some d) [a, b]
    (fun s => homeAccess s [a] (s.k k) (s.s a).v (if w then 4 else 8) (if w then 4 else 8) [permR, permW, permA] false)
    (fun s x => ⟨.atom op w, x, .i64, false, s.s b, ⟨0, false⟩, ⟨0, 0⟩, 0⟩) s
/-- CAS (R239, R240). -/
def execCas (h : Hdr) (d a b c : SReg) (k : KReg) (w : Bool) (s : State) : Host.Outcome State Fault Refusal :=
  runSingle h { NL d a b with src := [a, b, c] } (some d) [a, b, c]
    (fun s => homeAccess s [a] (s.k k) (s.s a).v (if w then 4 else 8) (if w then 4 else 8) [permR, permW, permA] false)
    (fun s x => ⟨.cas w, x, .i64, false, s.s b, s.s c, ⟨0, 0⟩, 0⟩) s

/-- The governed elements of a VRED, which alone are translated and checked, each with its address. -/
inductive RedAcc where
  | ok (es : List (Nat × Nat))
  | stop (r : PRes)
def redAccess (s : State) (h : Hdr) (a : SReg) (r : BitVec 16) (t : VTy) : RedAcc :=
  let off := (s.s a).v
  let w := VTy.width t
  let es := governed s h w (VTy.count t)
  let spots := es.map fun e => (laneOf w e, elemOff off w e, w / 8)
  if (s.s a).p then .stop (.trap (trapOf cPoison))
  else if off.toNat % 128 ≠ 0 then .stop (.trap ⟨cMisaligned, off, auxOf r (es.head?.map (laneOf w))⟩)
  else match translatedAll s r [permR, permW, permA] spots with
    | .stop q => .stop q
    | .ok as => match breakAll s r true true spots with
      | some q => .stop q
      | none => .ok (es.zip (as.map (·.headD 0)))
/-- VRED (R241). -/
def execVred (h : Hdr) (a : SReg) (b : VNum) (k : KReg) (op : FoldOp) (t : VTy) (s : State) :
    Host.Outcome State Fault Refusal :=
  runPacket h { NV [b] [a] [] [] with far := .vec (VTy.width t) none } false
    (fun s0 => if gpois s0 h then .trap (trapOf cPoison) else withStreams h [b] none (fun s =>
      if !gany s h (VTy.width t) then .done s none
      else match redAccess s h a (s.k k) t with
        | .stop q => q
        | .ok es => commitWait s0 fun _ =>
          single (useRegs s [a]) none ⟨.vred op t es, (es.head?.map (·.2)).getD 0, .i64, false, ⟨0, false⟩, ⟨0, false⟩, s.v b, gmask s h⟩) s0) s

/-- GATHN (R242): the lanes' words are settled before it retires; the homes read them afterwards. -/
def execGathn (h : Hdr) (d : VNum) (a : SReg) (b : VNum) (k : KReg) (t : VTy) (sh : BitVec 2) (sgn : Bool) (s : State) :
    Host.Outcome State Fault Refusal :=
  let w := VTy.width t
  runPacket h { NV [d, b] [a] [] [] with far := .vec w (some d) } false
    (fun s0 => if gpois s0 h then .trap (trapOf cPoison) else withStreams h [b] (some d) (fun s =>
      let es := governed s h 32 32
      if !gany s h w then .done (s.wvb h d (s.old d)) none
      else match laneAccess s h a (s.v b) (s.k k) sh sgn [permR] es with
        | .stop q => q
        | .ok as => commitWait s0 fun _ =>
          let tab := es.zip as
          let s1 := useRegs s [a]
          if appends s d then
            let v := gathered s.mem 32 (gmask s h) (s.old d) es as (fun _ c => (c, false))
            let s2 := (checkIf s1 (as.any s.mem.gatherP) .loaded).farVb h d v 0
            .own (settleOwn s2 s.ctl.cur s2.me.cur) none
          else
            let lanes := (List.range 32).map fun e => (tab.find? fun x => x.1 = e).map fun x => x.2.headD 0
            .own (settleOwn ((s1.farV d none 0).later [.gatherReturn ⟨s.ref, d, lanes, s.v d⟩]) s.ctl.cur s1.me.cur) none) s0) s

end Sys2Proof.Machine
end

