-- ==== Sys2Proof/Machine/Names.lean ====
section
/-! DEFINITION. The names that a packet uses, before it runs: what the rows of R39 look at when they ask whether a slot's next
packet may issue (R40, R170). Each is what the packet's meaning hands to `runPacket`. -/
namespace Sys2Proof.Machine

/-- The payload of a POST: its registers, and whether they are all valid names (R85, R175). -/
def payload (c : SReg) (n : Nat) : List SReg := (List.range n).map fun j => BitVec.ofNat 5 (c.toNat + j)
def payloadOk (s : State) (c : SReg) (n : Nat) : Bool :=
  if n = 0 then decide (c = 0) else decide (c.toNat + n ≤ 32) && (payload c n).all (nameOk s s.ctl.cur)
/-- Is a special-register number a window format's (R63)? -/
def isWfmt (x : BitVec 12) : Bool := decide (0x010 ≤ x.toNat) && decide (x.toNat ≤ 0x017)
/-- Scalar sources, vector sources: a vector packet's. -/
def namesV (vs : List VNum) (ss : List SReg) : Names := NV vs ss [] []
/-- A destination and no source. -/
def ND (d : SReg) : Names := ⟨[], [d], [], [], [], false, false, .near⟩
def Names.farS (n : Names) : Names := { n with far := .scalar }
def Names.farV (n : Names) (w : Nat) (d : Option VNum) : Names := { n with far := .vec w d }

/-- Header and names of an encoded packet of the slot in hand; none for a step that is no packet. -/
def namesOf (s : State) : Instr → Option (Hdr × Names)
  | .nop h | .br h _ _ | .call h _ _ | .ret h | .frame h _ _ | .exit h | .yield h | .trap h _ | .pitch h _ _ | .douse h | .chunk h |
    .iflush h | .rett h | .idle h => some (h, .empty)
  | .fence h _ _ | .settle h | .barg h | .mma h _ _ _ _ | .mzero h _ => some (h, Names.empty.farS)
  | .unbind h d => some (h, { Names.empty.farS with vec := [d] })
  | .jmp h a | .calli h a | .wakeat h a | .setk h _ a | .pref h _ a _ | .dbghalt h a | .wakef h a | .setpr h a _ => some (h, NS [a])
  | .join h a | .hike h a _ | .barc h _ a | .fanout h a | .mfill h _ a _ | .resume h a | .killt h a | .credsync h a => some (h, NF [a])
  | .jtab h a b _ | .rdef h _ a b => some (h, NF [a, b])
  | .fork h a b c _ | .stash h a b c => some (h, NF [a, b, c])
  | .rstat h d _ => some (h, { ND d with far := .scalar })
  | .post h a b c n _ _ => some (h, NF ([a, b] ++ (if payloadOk s c n.toNat then payload c n.toNat else [])))
  | .setsr h a x => some (h, { NS [a] with far := if isWfmt x then .scalar else .near })
  | .getsr h d x => some (h, { ND d with far := if isWfmt x then .scalar else .near })
  | .chkerr h d _ | .tstamp h d | .cycle h d | .strike h d | .movi h d _ | .getk h d _ | .getpr h d _ => some (h, ND d)
  | .loop h d a _ _ | .clz h d a _ | .ctz h d a _ | .popc h d a _ | .mov h d a _ | .addi h d a _ | .andi h d a _ | .ori h d a _ |
    .xori h d a _ | .shli h d a _ | .shri h d a _ _ | .ext h d a _ _ | .exts h d a _ _ | .fcvt h d a _ _ _ _ | .frnd h d a _ _ |
    .fcls h d a _ => some (h, N1 d a)
  | .movk h d _ _ => some (h, N1 d d)
  | .ins h d a _ _ => some (h, N2 d d a)
  | .add h d a b _ | .sub h d a b _ | .mul h d a b _ | .mulh h d a b _ | .and h d a b _ | .or h d a b _ | .xor h d a b _ |
    .andn h d a b _ | .shl h d a b _ | .shr h d a b _ | .rot h d a b _ | .min h d a b _ | .max h d a b _ | .lea h d a b _ _ |
    .fadd h d a b _ _ | .fsub h d a b _ _ | .fmul h d a b _ _ | .fmin h d a b _ | .fmax h d a b _ => some (h, N2 d a b)
  | .fsgn h d a b _ op => some (h, if op = .abs then N1 d a else N2 d a b)
  | .sel h d a b q _ => some (h, { N2 d a b with psrc := [q] })
  | .ffma h d a b c _ _ => some (h, { N2 d a b with src := [a, b, c] })
  | .div h d a b _ | .rem h d a b _ | .fdiv h d a b _ _ | .ld h d a b _ _ _ _ | .ldf h d a b _ _ _ _ | .ldfe h d a b _ _ _ _ |
    .atom h d a b _ _ _ | .flush h d a b _ | .ctxsave h d a b | .ctxload h d a b | .rload h d a b | .rinval h d a b |
    .rsplit h d a b | .rmerge h d a b | .rgrow h d a b | .rcompact h d a b => some (h, (N2 d a b).farS)
  | .cas h d a b c _ _ => some (h, ({ N2 d a b with src := [a, b, c] } : Names).farS)
  | .fsqrt h d a _ _ | .fxf h d a _ _ _ | .ldo h d a _ _ _ | .unstash h d a | .tload h d a | .rquery h d a _ =>
      some (h, (N1 d a).farS)
  | .st h d a b _ _ _ _ | .stef h d a b _ _ _ _ | .stf h d a b _ _ _ _ => some (h, NF [d, a, b])
  | .sto h d a _ _ _ => some (h, NF [d, a])
  | .feset h _ a _ => some (h, NF [a])
  | .copy h d a b c _ ring | .mcast h d a b c ring => some (h, { NF (if ring then [a, c] else [a, b, c]) with dst := [d] })
  | .mdrain h _ a c _ => some (h, { NF [a] with dst := [c] })
  | .cmp h d c a b _ _ | .fcmp h d c a b _ _ => some (h, { NS [a, b] with pdst := [d, c] })
  | .cmpi h d c a _ _ _ => some (h, { NS [a] with pdst := [d, c] })
  | .plog h d a b _ => some (h, { Names.empty with psrc := [a, b], pdst := [d] })
  | .pfrom h d a => some (h, { NS [a] with pdst := [d] })
  | .plim h d a b _ => some (h, { NS [a, b] with pdst := [d] })
  | .ptos h d a | .pcnt h d a | .pfirst h d a => some (h, { ND d with psrc := [a] })
  | .vcmp h d c a b _ _ sb => some (h, { namesV (a :: vecB sb b) (scaB sb b) with pdst := [d, c] })
  | .vadd h d a b _ _ _ _ _ sb | .vsub h d a b _ _ _ _ _ sb | .vmul h d a b _ _ _ _ _ sb | .vdot h d a b _ _ _ _ _ sb |
    .vmin h d a b _ sb | .vmax h d a b _ sb | .vand h d a b _ sb | .vor h d a b _ sb | .vxor h d a b _ sb | .vshr h d a b _ sb |
    .vmulh h d a b _ sb | .vshl h d a b _ _ sb | .vperm h d a b _ sb | .vmxs h d a b _ _ sb =>
      some (h, namesV (d :: a :: vecB sb b) (scaB sb b))
  | .vsgn h d a b _ op sb =>
      some (h, namesV (d :: a :: (if op = .abs then [] else vecB sb b)) (if op = .abs then [] else scaB sb b))
  | .vfma h d a b c _ _ _ _ _ _ sb | .vclamp h d a b c _ sb => some (h, namesV (d :: a :: c :: vecB sb b) (scaB sb b))
  | .vsel h d a b q _ _ sb => some (h, { namesV (d :: a :: vecB sb b) (scaB sb b) with psrc := [q] })
  | .vdiv h d a b t _ sb => some (h, (namesV (d :: a :: vecB sb b) (scaB sb b)).farV (VTy.width t) (some d))
  | .vxf h d a t _ _ => some (h, (namesV [d, a] []).farV (VTy.width t) (some d))
  | .vcvt h d a _ _ _ _ | .vmov h d a | .vslide h d a _ _ | .vscan h d a _ _ _ | .vunpk h d a _ _ | .tenc h d a | .tdec h d a |
    .vpack h d a _ _ _ _ => some (h, namesV [d, a] [])
  | .vbcast h d a _ | .vins h d a _ => some (h, namesV [d] [a])
  | .vidx h d _ => some (h, namesV [d] [])
  | .vget h d a _ _ | .vfold h d a _ _ _ => some (h, NV [a] [] [d] [])
  | .vld h d a b _ _ t _ => some (h, (namesV [d] [a, b]).farV (VTy.width t) (some d))
  | .vst h d a b _ _ t _ _ _ => some (h, (namesV [d] [a, b]).farV (VTy.width t) none)
  | .vldg h d a b _ t _ _ | .gathn h d a b _ t _ _ => some (h, (namesV [d, b] [a]).farV (VTy.width t) (some d))
  | .vsts h d a b _ t _ _ => some (h, (namesV [d, b] [a]).farV (VTy.width t) none)
  | .vred h a b _ _ t => some (h, (namesV [b] [a]).farV (VTy.width t) none)
  | .rpush h _ a vec => some (h, if vec then (namesV [a] []).farV 32 none else NF [a])
  | .rpop h d _ vec => some (h, if vec then (namesV [d] []).farV 32 (some d) else { ND d with far := .scalar })
  | .bind h d a _ dsc _ => some (h, { (if dsc then NF [a] else Names.empty.farS) with vec := [d] })
  | _ => none

end Sys2Proof.Machine
end

