-- ==== Sys2Proof/Machine/Window.lean ====
section
/-! DEFINITION. Register windows (R60 to R62, R165, R166) and their spill areas (R313, R315). -/
namespace Sys2Proof.Machine

/-- Entries in use that are not spilled, the running frame's among them (R60, R64). -/
def Window.live (w : Window) : Nat :=
  let x := (w.base.toNat + w.size.toNat + 64 - w.spilled.toNat % 64) % 64
  if x = 0 then 64 else x

/-- Where spill area a lies (R313, R315): its reach, the offset of entry j. -/
def spillReach (s : State) : BitVec 16 := s.core.priv.spillctl.extractLsb' 0 16
def spillOff (s : State) (a : Nat) (j : Nat) : Word :=
  ((s.core.priv.spillctl >>> 16) <<< 16) + BitVec.ofNat 64 (8192 * (a + 1)) - BitVec.ofNat 64 (8 * (j + 1))

/-- The frame record of R61. -/
def recordWord (ret : Word) (slide : Nat) : Word := (ret &&& BitVec.ofNat 64 (2 ^ 58 - 1)) + BitVec.ofNat 64 (slide * 2 ^ 58)

/-- Spill the n oldest entries, the oldest first, the next being entry j of area a (R62): held stores of the chunk, and a
use that R293 does not list. -/
def spillGo (s : State) (a : Nat) : Nat → Nat → Except PRes State
  | 0, _ => .ok s
  | n + 1, j =>
    let c := s.me.regs.w.get (fin64 j)
    let r := spillReach s
    let off := spillOff s a j
    match xlate s s.ctl.cur s.me.space [permW] (vaOf r off) 8 with
    | .bad _ o => .error (.trap ⟨cSpill, o, r.setWidth 64⟩)
    | .miss va => .error (missRes s s.me.space va)
    | .padMiss l => .error (padMissRes s l)
    | .ok as => spillGo (checkIf (addHeld (opaqueTags s [c.tag]) as (vaOf r off) (leBytes 8 c.val.toNat) c.p none) c.p .stored) a n (j + 1)

/-- Does one of the n oldest entries still wait for a value (R62)? -/
def spillOwed (s : State) (n j : Nat) : Bool := (List.range n).any fun i => (s.me.regs.w.get (fin64 (j + i))).far

/-- Make room for n more entries (R62, R315): nothing, or the oldest entries go to the thread's spill area. -/
def spillFor (s : State) (n : Nat) : Except PRes State :=
  let w := s.me.regs.win
  let need := w.live + n - 64
  let j := w.spilled.toNat
  if need = 0 then .ok s
  else if spillOwed s need j then .error .stall
  else match s.me.spill.or (lowestClear s.core.spills) with
    | none =>
      -- no area, so no offset that an entry would take: the spec states none (log 10)
      let f := s.fresh
      .error (.trapIn f.2 ⟨cSpill, f.1, (spillReach s).setWidth 64⟩)
    | some a =>
      if j + need > 1024 then .error (.trap ⟨cSpill, spillOff s a.val j, (spillReach s).setWidth 64⟩)
      else
        let s1 := { s with core := { s.core with spills := s.core.spills ||| ((1 : BitVec 32) <<< a.val) } }
        match spillGo (s1.modMe fun t => { t with spill := some a }) a.val need j with
        | .error r => .error r
        | .ok s2 => .ok (s2.modRegs fun f => { f with win := { f.win with spilled := f.win.spilled + BitVec.ofNat 32 need } })

/-- A read of the chunk that makes no input: JTAB's entry, a refill (R167, R288). -/
def loadPlain (s : State) (as : List Nat) (va : Nat) : SVal × State :=
  let m := viewMem s s.ctl.cur
  let own := s.me.cur.stores.filter (·.meets (as.headD 0) as.length)
  (⟨BitVec.ofNat 64 (leNat (m.gather as)), m.gatherP as⟩, opaqueTags (recordRead s as va true) (own.map (·.sym)))

/-- Refill the n youngest spilled entries (R62). -/
def refillGo (s : State) (a : Nat) : Nat → Except PRes State
  | 0 => .ok s
  | n + 1 =>
    let j := s.me.regs.win.spilled.toNat - 1
    let r := spillReach s
    let off := spillOff s a j
    match xlate s s.ctl.cur s.me.space [permR] (vaOf r off) 8 with
    | .bad _ o => .error (.trap ⟨cSpill, o, r.setWidth 64⟩)
    | .miss va => .error (missRes s s.me.space va)
    | .padMiss l => .error (padMissRes s l)
    | .ok as =>
      let x := loadPlain s as (vaOf r off)
      refillGo (checkIf (x.2.modRegs fun f => { f with
        w := f.w.set (fin64 j) ⟨x.1.v, x.1.p, false, s.me.seq, none⟩,
        win := { f.win with spilled := BitVec.ofNat 32 j } }) x.1.p .loaded) a n
/-- Entries so that at least n lie below the base of the running frame. -/
def refillTo (s : State) (n : Nat) : Except PRes State :=
  let w := s.me.regs.win
  let below := w.live - w.size.toNat
  match s.me.spill with
  | none => .ok s
  | some a => refillGo s a.val (min w.spilled.toNat (n - below))

/-- New registers read zero (R61, R165). -/
def clearEntries (f : RegFile) (base lo hi : Nat) : RegFile :=
  { f with w := (List.range (hi - lo)).foldl (fun w i => w.set (fin64 (base + lo + i)) .zero) f.w }
/-- The caller's top o entries move up by one, the highest first (R60). -/
def moveUp (f : RegFile) (top : Nat) : Nat → RegFile
  | 0 => f
  | o + 1 => moveUp { f with w := f.w.set (fin64 top) (f.w.get (fin64 (top + 63))) } (top + 63) o
/-- The o entries move back down by one, the lowest first (R60). -/
def moveDown (f : RegFile) (low : Nat) : Nat → RegFile
  | 0 => f
  | o + 1 => moveDown { f with w := f.w.set (fin64 (low + 63)) (f.w.get (fin64 low)) } (low + 1) o

/-- FRAME at a call's target, room having been made (R61). -/
def callFrame (f : RegFile) (k o : Nat) : RegFile :=
  let w := f.win
  let base := w.base.toNat
  let size := w.size.toNat
  let f1 := moveUp f (base + size) o
  let at_ := base + size - o
  let f2 := { f1 with w := f1.w.set (fin64 at_) ⟨recordWord w.retpc (size - o), false, false, 0, none⟩ }
  let f3 := clearEntries f2 (at_ + 1) o k
  { f3 with win := { w with base := BitVec.ofNat 6 (at_ + 1), size := BitVec.ofNat 5 k, pend := false, depth := w.depth + 1,
                            retpc := 0, sizes := w.size :: w.sizes } }
/-- FRAME reshapes the outermost frame (R165). -/
def reshape (f : RegFile) (k : Nat) : RegFile :=
  let f1 := clearEntries f f.win.base.toNat f.win.size.toNat k
  { f1 with win := { f1.win with size := BitVec.ofNat 5 k } }

/-- FRAME (R61, R62, R165). -/
def execFrame (h : Hdr) (k o : BitVec 5) (s : State) : Host.Outcome State Fault Refusal :=
  runPacket h { Names.empty with noGuest := true } true
    (fun s =>
      let w := s.me.regs.win
      if k.toNat = 0 ∨ 24 < k.toNat ∨ 8 < o.toNat ∨ k.toNat < o.toNat ∨ h.g ≠ 0 then .trap (trapOf cIllegal)
      else if w.pend then
        if w.size.toNat < o.toNat then .trap (trapOf cIllegal)
        else match spillFor s (k.toNat - o.toNat + 1) with
          | .error r => r
          | .ok s1 => .done (s1.modRegs fun f => callFrame f k.toNat o.toNat) none
      else if w.depth ≠ 1 ∨ o ≠ 0 then .trap (trapOf cIllegal)
      else .done (s.modRegs fun f => reshape f k.toNat) none) s

/-- The size of the frame that RET returns to; where an image did not carry it, the spec has no place for it (log 20). -/
def callerSize (s : State) (slide : Nat) : Nat × State :=
  match s.me.regs.win.sizes with
  | k :: _ => (k.toNat, s)
  | [] => let f := s.fresh
          (max 1 (min 24 (slide + f.1.toNat % 9)), f.2)

/-- RET (R60, R62, R166): a record that was refilled poisoned is a poisoned target (R157). -/
def execRet (h : Hdr) (s : State) : Host.Outcome State Fault Refusal :=
  runPacket h { Names.empty with noGuest := true } false
    (fun s => ctlGuard s h fun s =>
      if s.me.regs.win.depth = 1 then .trap (trapOf cTarget)
      else match refillTo s 1 with
        | .error r => r
        | .ok s1 =>
          let cell := s1.me.regs.w.get (fin64 (s1.me.regs.win.base.toNat + 63))
          let rec_ := cell.val
          let slide := (rec_.extractLsb' 58 5).toNat
          if cell.p then .trap (trapOf cPoison)
          else match refillTo s1 (slide + 1) with
          | .error r => r
          | .ok s2 =>
            let k := callerSize s2 slide
            let w := k.2.me.regs.win
            let base := w.base.toNat
            let f := moveDown k.2.me.regs base (k.1 - slide)
            let w1 := { w with base := BitVec.ofNat 6 (base + 63 - slide), size := BitVec.ofNat 5 k.1, depth := w.depth - 1,
                               sizes := w.sizes.drop 1 }
            .done (k.2.modRegs fun _ => { f with win := w1 }) (some ((rec_.extractLsb' 0 58).setWidth 64))) s

end Sys2Proof.Machine
end

