-- ==== Sys2Proof/Machine/Control.lean ====
section
/-! DEFINITION. Group 0: transfers, checks, clocks, regions, fences, special registers (R160 to R168, R170, R171, R179 to
R186, R300 to R303). -/
namespace Sys2Proof.Machine

/-! Rotation (R39, R40, R170). -/

/-- Can the next packet of slot i not issue yet, by the rows of R39 that look at it: far bits, packets in flight, the far table? -/
def packetBlocks (s : State) (i : SlotN) : Bool :=
  let s1 := { s with ctl := { s.ctl with cur := i, awaits := false, came := false } }
  match fetch s1 i with
  | .instr ins _ => (match namesOf s1 ins with | some (h, n) => farBlocks s1 h n | none => false)
  | _ => false
/-- May slot i issue (R39)? -/
def runnable (s : State) (i : SlotN) : Bool :=
  let x := s.slot i
  x.occ && x.th.park.isNone && x.trap.isNone && x.th.late.isNone && !(x.stop && decide (i ≠ ranger)) && !x.stopped && !x.halting &&
    !s.core.halted && !s.core.contained && !s.pkg.soloQueue.contains i && !killing s i && !campBlocks x.th && !packetBlocks s i
/-- The slots that are runnable and have not given up their own turn, as a mask. -/
def runMask (s : State) : BitVec 16 :=
  allSlots.foldl (fun m i => if runnable s i && (s.th i).yield.isNone then m ||| ((1 : BitVec 16) <<< i.val) else m) 0

/-! Transfers. -/

/-- NOP (R162). -/
def execNop (h : Hdr) (s : State) : Host.Outcome State Fault Refusal :=
  runPacket h .empty false (fun s => ctlGuard s h fun s => .done s none) s
/-- BR (R163). -/
def execBr (h : Hdr) (j : BitVec 5) (l : BitVec 27) (s : State) : Host.Outcome State Fault Refusal :=
  runPacket h .empty false (fun s => ctlGuard s h fun s => .done s (some (target s.me.pc j l))) s
/-- JMP (R164). -/
def execJmp (h : Hdr) (a : SReg) (s : State) : Host.Outcome State Fault Refusal :=
  runPacket h (NS [a]) false
    (fun s => ctlGuard s h fun s =>
      if (s.s a).p then .trap (trapOf cPoison) else .done (useRegs s [a]) (some (s.s a).v)) s
/-- The call of R164: PEND, the return PC, the target. -/
def callTo (s : State) (t : Word) : PRes :=
  if s.next.extractLsb' 58 6 ≠ 0 then .trap (trapOf cTarget)
  else .done (s.modRegs fun f => { f with win := { f.win with pend := true, retpc := s.next } }) (some t)
/-- CALL (R61, R164). -/
def execCall (h : Hdr) (j : BitVec 5) (l : BitVec 27) (s : State) : Host.Outcome State Fault Refusal :=
  runPacket h { Names.empty with noGuest := true } false
    (fun s => ctlGuard s h fun s => callTo s (target s.me.pc j l)) s
/-- CALLI (R61, R164). -/
def execCalli (h : Hdr) (a : SReg) (s : State) : Host.Outcome State Fault Refusal :=
  runPacket h { NS [a] with noGuest := true } false
    (fun s => ctlGuard s h fun s =>
      if (s.s a).p then .trap (trapOf cPoison) else callTo (useRegs s [a]) (s.s a).v) s
/-- LOOP (R168); D and A are one register. -/
def execLoop (h : Hdr) (d a : SReg) (j : BitVec 5) (l : BitVec 17) (s : State) : Host.Outcome State Fault Refusal :=
  runPacket h (N1 d a) false
    (fun s => ctlGuard s h fun s =>
      if d ≠ a then .trap (trapOf cIllegal)
      else if (s.s a).p then .trap (trapOf cPoison)
      else
        let n := (s.s a).v - 1
        .done ((useRegs s [a]).wr d n false)
          (if n ≠ 0 then some (pcLine s.me.pc + (sx l <<< 6) + j.setWidth 64) else none)) s
/-- JTAB (R28, R167): decided when its entry has arrived; the entry's own poison is found then, after check 15 of R320. -/
def execJtab (h : Hdr) (a b : SReg) (x : BitVec 12) (s : State) : Host.Outcome State Fault Refusal :=
  runPacket h { NS [a, b] with far := .scalar } false
    (fun s => ctlGuard s h fun s =>
      if (s.s a).p || (s.s b).p then .trap (trapOf cPoison)
      else if (s.s a).v.toNat ≥ x.toNat then .done (useRegs s [a, b]) none
      else
        let r := s.k 0
        let ea := (s.s b).v + ((s.s a).v <<< 3)
        if ea.toNat % 8 ≠ 0 then .trap ⟨cMisaligned, ea, auxOf r none⟩
        else match access s r ea 8 [permR] true false none with
          | .stop p => p
          | .ok as =>
            if !s.ctl.came then .launch (.jtab h a b x)
            else
              let e := loadPlain (useRegs s [a, b]) as (vaOf r ea)
              if e.1.p then .trap ⟨cPoison, ea, auxOf r none⟩ else .done e.2 (some e.1.v)) s

/-! The turn, time, traps, CHECK. -/

/-- YIELD (R170): until every other runnable slot has had an opportunity, or 16 have passed. -/
def execYield (h : Hdr) (s : State) : Host.Outcome State Fault Refusal :=
  runPacket h .empty false
    (fun s => ctlGuard s h fun s =>
      let m := runMask s &&& ~~~((1 : BitVec 16) <<< s.ctl.cur.val)
      .done (s.modMe fun t => { t with yield := if m = 0 then none else some (m, 16) }) none) s

/-- A reading of the package timebase, never below an earlier one (R16, R181; log 3). -/
def readTime (s : State) : Word × State :=
  let v := BitVec.ofNat 64 (min (s.pkg.timeb.toNat + Config.ticks s.ctl.free) (2 ^ 64 - 1))
  (v, { s with pkg := { s.pkg with timeb := v }, ctl := { s.ctl with free := s.ctl.free + 1 } })
/-- A reading of the island's region cycles (R15, R181; log 3). -/
def readCycles (s : State) : Word × State :=
  let v := BitVec.ofNat 64 (min (s.pkg.cyc.toNat + Config.cycles s.ctl.free) (2 ^ 64 - 1))
  (v, { s with pkg := { s.pkg with cyc := v }, ctl := { s.ctl with free := s.ctl.free + 1 } })

/-- WAKEAT (R171). -/
def execWakeat (h : Hdr) (a : SReg) (s : State) : Host.Outcome State Fault Refusal :=
  runPacket h (NS [a]) false
    (fun s => ctlGuard s h fun s =>
      if (s.s a).p then .trap (trapOf cPoison)
      else
        let r := readTime (useRegs s [a])
        .done (r.2.modMe fun t => { t with park := if (s.s a).v.toNat ≤ r.1.toNat then none else some (.wakeAt (s.s a).v) })
          none) s
/-- TRAP (R179). -/
def execTrap (h : Hdr) (n : BitVec 5) (s : State) : Host.Outcome State Fault Refusal :=
  runPacket h .empty false (fun s => ctlGuard s h fun _ => .trap ⟨cSoftware, n.setWidth 64, 0⟩) s
/-- A near scalar result that takes effect elsewhere too, where its guard holds. -/
def finRead (s : State) (h : Hdr) (d : SReg) (f : State → Word × State) : PRes :=
  if gbit s h then
    let r := f s
    finS r.2 h d [] ⟨r.1, false⟩ .clean
  else finS s h d [] ⟨0, false⟩ .clean
/-- Does the packet act? A poisoned guard poisons the result and does not stop it (R151). -/
def acts (s : State) (h : Hdr) : Bool := gbit s h
/-- CHKERR (R180). -/
def execChkerr (h : Hdr) (d : SReg) (m : Bool) (s : State) : Host.Outcome State Fault Refusal :=
  runPacket h ⟨[], [d], [], [], [], false, false, .near⟩ false
    (fun s =>
      if acts s h && decide (s.me.far ≠ []) then .replay s (.owed false)
      else
        let c := readCheck s.me
        if acts s h && m && decide (c.extractLsb' 0 3 ≠ 0) then .trap (trapOf cPoison)
        else finRead s h d fun s => (c.setWidth 64, checkUpd s (.clear (BitVec.allOnes 32)))) s
/-- TSTAMP (R181). -/
def execTstamp (h : Hdr) (d : SReg) (s : State) : Host.Outcome State Fault Refusal :=
  runPacket h ⟨[], [d], [], [], [], false, false, .near⟩ false (fun s => finRead s h d readTime) s
/-- CYCLE (R181). -/
def execCycle (h : Hdr) (d : SReg) (s : State) : Host.Outcome State Fault Refusal :=
  runPacket h ⟨[], [d], [], [], [], false, false, .near⟩ false (fun s => finRead s h d readCycles) s

/-! Regions, fences, chunks. -/

/-- PITCH (R182, R300, R303). -/
def execPitch (h : Hdr) (j : BitVec 5) (l : BitVec 27) (s : State) : Host.Outcome State Fault Refusal :=
  runPacket h { Names.empty with noGuest := true, noRanger := true } false
    (fun s => ctlGuard s h fun s =>
      if s.me.reg.isOpen then .trap (trapOf cIllegal)
      else .ends (s.modMe fun t => { t with reg := ⟨true, target t.pc j l, s.next, 0, 0⟩ }) none) s
/-- Lines that the host may hold are asked back (R388). -/
def askHost (s : State) (ls : List Nat) : State :=
  let new := ls.filter fun l => !s.pkg.backInv.contains l
  { s with pkg := { s.pkg with backInv := s.pkg.backInv ++ new } }.later (new.map .backInvalidate)
/-- Copies of a line in other packages are to be given up (R284). -/
def askAbroad (s : State) (ls : List Nat) : State :=
  s.later ((ls.filter fun l => s.pkg.remoteCopies.any (fun x => decide (x.2.1 = l / 8 ∧ x.2.2 = false)) &&
    !s.agenda.any fun e => match e with | .remoteInvalidate k => decide (k = l) | _ => false).map .remoteInvalidate)
/-- Lines that a write waits for, of the host and of other packages, are asked for. -/
def askOut (s : State) (ls : List Nat) : State := askAbroad (askHost s (ls.filter s.pkg.hostLines.contains)) ls
/-- REGION (R64). -/
def regionWord (status n last : Nat) : BitVec 12 := BitVec.ofNat 12 (status + 4 * n + 256 * last)
/-- The outcome of a STRIKE's commit (R300). -/
def strikeOut (s : State) (h : Hdr) (d : SReg) (r : Region) : PRes :=
  match commitChunk s s.ctl.cur with
  | (s1, .squash _) => .hold s1
  | (s1, out) =>
    let v : Word := if out = .clean then 0 else 1
    let s2 := s1.modMe fun t => { t with reg := { r with isOpen := false }, region := regionWord v.toNat r.n r.last }
    .own (s2.wr d v (gpois s h)) none
/-- STRIKE (R182, R300): nothing issues until the region's chunk has its outcome. -/
def execStrike (h : Hdr) (d : SReg) (s : State) : Host.Outcome State Fault Refusal :=
  runPacket h ⟨[], [d], [], [], [], false, false, .near⟩ false
    (fun s =>
      if !acts s h then finS s h d [] ⟨0, false⟩ .clean
      else
        let t := s.me
        if !t.reg.isOpen then .trap (trapOf cIllegal)
        else if t.ended ≠ [] ∨ ¬ commitReady s s.ctl.cur then .hold (passTurn (if t.ended = [] then askOut s (writeLines s s.ctl.cur t.cur) else s))
        else strikeOut s h d t.reg) s
/-- DOUSE (R182, R300). -/
def execDouse (h : Hdr) (s : State) : Host.Outcome State Fault Refusal :=
  runPacket h .empty false
    (fun s => ctlGuard s h fun s => if s.me.reg.isOpen then .abort s 5 else .trap (trapOf cIllegal)) s

/-- Have the waits of a FENCE of slot i ended (R65, R183)? -/
def fenceDone (s : State) (i : SlotN) (sc : Scope) (tokens : Bool) : Bool :=
  let t := s.th i
  let out := t.pend ++ t.sent
  let scopeDone := match sc with
    | .domain => !out.any fun o => isRemote s o.addr
    | .system => out.isEmpty
    | _ => true
  let applied := !s.agenda.any fun e => match e with | .windowFormatApply _ _ => true | _ => false
  scopeDone && applied && (!tokens || !t.far.any (·.token))
/-- FENCE (R183): CommitWait, then the waits of its scope. -/
def execFence (h : Hdr) (sc : Scope) (m : Bool) (s : State) : Host.Outcome State Fault Refusal :=
  runPacket h { Names.empty with far := .scalar } false
    (fun s => ender s h (fun _ => none) fun s =>
      .own (s.modMe fun t => { t with park := if fenceDone s s.ctl.cur sc m then none else some (.fence sc m) }) none) s
/-- CHUNK (R184). -/
def execChunk (h : Hdr) (s : State) : Host.Outcome State Fault Refusal :=
  runPacket h .empty false
    (fun s => ctlGuard s h fun s => if s.me.reg.isOpen then .abort s 4 else .ends s none) s
/-- IFLUSH (R116, R185): it is complete once the thread's older chunks have committed, so that no later fetch misses them. -/
def execIflush (h : Hdr) (s : State) : Host.Outcome State Fault Refusal :=
  runPacket h .empty false
    (fun s => ctlGuard s h fun s =>
      if s.me.ended ≠ [] then .stall else .done { s with core := { s.core with icache := [] } } none) s
/-- WINDOW_FORMAT_APPLY (R65): the cluster's table takes the format. -/
def execWindowFormatApply (win : Fin 8) (fmt : BitVec 4) (s : State) : Host.Outcome State Fault Refusal :=
  .next { s with cl := { s.cl with wfmt := s.cl.wfmt.set win fmt } }

/-! Special registers (R63, R64). -/

/-- LAUNCH (R64). A guest reads SEQ 0; its other fields, of which the spec says nothing there, read 0 too: DESIGN CHOICE (log 88). -/
def launchWord (s : State) (i : SlotN) : Word :=
  match s.core.launch with
  | none => 0
  | some l =>
    if isResident i then
      let f := l.sh.info
      BitVec.ofNat 64 (f.seq.toNat + 2 ^ 32 * f.t + 2 ^ 36 * f.a + 2 ^ 42 * (f.flags.toNat % 8))
    else 0
/-- WINDOW (R64); guests read zero (R68). -/
def windowWord (s : State) (i : SlotN) : Word :=
  let w := (s.th i).regs.win
  if isGuest i then 0
  else BitVec.ofNat 64 (w.base.toNat + 2 ^ 6 * w.size.toNat + (if w.pend then 2 ^ 11 else 0) + 2 ^ 12 * w.depth.toNat +
    2 ^ 32 * w.spilled.toNat)
/-- VPOOL (R64). -/
def vpoolWord (s : State) (i : SlotN) : Word :=
  if isResident i then BitVec.ofNat 64 (s.allot i + 2 ^ 8 * (i.val * s.allot i) + 2 ^ 16 * s.threads) else 0
/-- TABSTAT (R64). -/
def tabstat (s : State) : Word :=
  BitVec.ofNat 64 ((if s.core.tabValid then 1 else 0) + (if s.core.tabBusy = 0 then 0 else 2) + 2 ^ 16 * s.core.tabGen.toNat)
/-- A near special register of the thread in hand, time apart. -/
def userReg (s : State) (x : Nat) : Word :=
  let i := s.ctl.cur
  let t := s.me
  match x with
  | 0x000 => s.core.id.setWidth 64
  | 0x001 => BitVec.ofNat 64 i.val
  | 0x002 => launchWord s i
  | 0x003 => BitVec.ofNat 64 t.far.length
  | 0x004 => (readCheck t).setWidth 64
  | 0x005 => t.region.setWidth 64
  | 0x006 => windowWord s i
  | 0x007 => vpoolWord s i
  | 0x008 => t.regs.seed
  | 0x009 => t.regs.fpctl.setWidth 64
  | 0x00A => t.regs.fpflags.setWidth 64
  | 0x018 => tabstat s
  | _ => 0
/-- What a read or write of a special register waits for (R180, R199). -/
def srWaits (s : State) (x : BitVec 12) (write : Bool) : Bool :=
  (decide (x = 0x004) && !write && decide (s.me.far ≠ [])) || (decide (x = 0x00A) && flagsOwed s.me)

/-- GETSR (R58, R186): near, and far for a window format. -/
def execGetsr (h : Hdr) (d : SReg) (x : BitVec 12) (s : State) : Host.Outcome State Fault Refusal :=
  runPacket h ⟨[], [d], [], [], [], false, false, if isWfmt x then .scalar else .near⟩ false
    (fun s =>
      if isWfmt x then
        farGuard s h fun s =>
          .done (s.farS d (some (.scalar ⟨(s.cl.wfmt.get (fin8 (x.toNat - 0x010))).setWidth 64, false⟩ none)) 0 false) none
      else if acts s h && srWaits s x false then .replay s (.owed (decide (x = 0x00A)))
      else finRead s h d fun s =>
        if x = 0x020 then readTime s else if x = 0x021 then readCycles s else (userReg s x.toNat, s)) s
/-- The write of a special register (R3, R64, R186). -/
def setUser (s : State) (x : BitVec 12) (v : Word) : State :=
  if x = 0x008 then s.modRegs fun f => { f with seed := if v = 0 then 1 else v }
  else if x = 0x009 then s.modRegs fun f =>
    { f with fpctl := if 6 ≤ v.toNat % 8 then (v.extractLsb' 0 8 &&& 0xF8) ||| (f.fpctl &&& 7) else v.extractLsb' 0 8 }
  else if x = 0x00A then s.modRegs fun f => { f with fpflags := v.extractLsb' 0 6 }
  else if x = 0x004 then checkUpd s (.clear (v.extractLsb' 0 32))
  else if isWfmt x then modCur s fun c => { c with wfmts := c.wfmts ++ [(fin8 (x.toNat - 0x010), v.extractLsb' 0 4)] }
  else s
/-- SETSR (R186). -/
def execSetsr (h : Hdr) (a : SReg) (x : BitVec 12) (s : State) : Host.Outcome State Fault Refusal :=
  runPacket h { NS [a] with far := if isWfmt x then .scalar else .near } false
    (fun s => ctlGuard s h fun s =>
      if (s.s a).p then .trap (trapOf cPoison)
      else if srWaits s x true then .replay s (.owed true)
      else .done (setUser (useRegs s [a]) x (s.s a).v) none) s

end Sys2Proof.Machine
end

