-- ==== Sys2Proof/Machine/Credit.lean ====
section
/-! DEFINITION. Credits (R89 to R92): arrival entries, tickets, what a network interface holds toward a core. -/
namespace Sys2Proof.Machine

/-! The destination's side. -/

/-- Does the partition hold a core (R342)? Before a configuration stands, the core itself alone (log 4). -/
def inPartition (s : State) (c : CoreId) : Bool :=
  match s.part.cfg with
  | none => decide (c = s.core.id)
  | some p => p.sites.getLsbD (c.toNat / 512)

def ticketsOf (s : State) (reply : Bool) : Tickets := if reply then s.core.ticketsR else s.core.ticketsO
def setTickets (s : State) (reply : Bool) (t : Tickets) : State :=
  { s with core := if reply then { s.core with ticketsR := t } else { s.core with ticketsO := t } }
/-- Entries of a class that are held, promised or kept for a ticket. -/
def entriesUsed (s : State) (reply : Bool) : Nat :=
  let t := ticketsOf s reply
  (s.core.arrivals.filter fun a => a.hk.reply = reply).length + t.promised.length + (if t.reserved then 1 else 0)
/-- Is an entry free for a class (R86)? Two of the 24 serve the reply class alone. -/
def entryFree (s : State) (reply : Bool) : Bool :=
  let o := entriesUsed s false
  let r := entriesUsed s true
  if reply then decide (o + r < 24) else decide (o + (r - 2) < 22) && decide (o + r < 24)
/-- An entry that is free is kept for the ticket that SERVE names, where one waits (R89). -/
def keepEntry (reply : Bool) (s : State) : State :=
  let t := ticketsOf s reply
  if t.serve ≠ t.next ∧ ¬ t.reserved ∧ entryFree s reply then setTickets s reply { t with reserved := true } else s
/-- DESIGN CHOICE (log 81): an entry that either class may have goes to a waiting ticket of the reply class first. -/
def keepEntries (s : State) : State := keepEntry false (keepEntry true s)

/-- The answers of the control network, to this core or another. -/
def sendGrant (s : State) (src : CoreId) (reply : Bool) : State :=
  if src = s.core.id then s.later [.creditGrant src reply] else s.send (.creditGrant src reply)
def sendRefusal (s : State) (src : CoreId) (reply : Bool) (k : BitVec 16) : State :=
  if src = s.core.id then s.later [.creditRetry src reply k] else s.send (.creditRefusal src reply k)
/-- A credit is promised and granted. -/
def promise (s : State) (src : CoreId) (reply : Bool) : State :=
  let t := ticketsOf s reply
  sendGrant (setTickets s reply { t with promised := t.promised ++ [src] }) src reply
/-- A request is refused and handed ticket NEXT. -/
def newTicket (s : State) (src : CoreId) (reply : Bool) : State :=
  let t := ticketsOf s reply
  sendRefusal (setTickets s reply { t with next := t.next + 1 }) src reply t.next
/-- A request without a ticket; a sealed core and a pair in Credit Fault grant nothing (R92, R378). -/
def askFresh (s : State) (src : CoreId) (reply : Bool) : State :=
  let t := ticketsOf s reply
  if t.next = t.serve ∧ entryFree s reply ∧ ¬ s.core.sealed ∧ src ∉ s.core.creditFault then promise s src reply
  else newTicket s src reply
/-- Does ticket k still wait: SERVE ≤ k < NEXT modulo 2^16? -/
def waits (t : Tickets) (k : BitVec 16) : Bool := decide ((k - t.serve).toNat < (t.next - t.serve).toNat)

/-- CREDIT_REQUEST (R89): a grant or a refusal. -/
def execCreditRequest (src : CoreId) (reply : Bool) (ticket : Option (BitVec 16)) (s : State) :
    Host.Outcome State Fault Refusal :=
  let t := ticketsOf s reply
  .next (keepEntries (match ticket with
    | none => askFresh s src reply
    | some k =>
      if !waits t k then askFresh s src reply
      else if k = t.serve ∧ t.reserved ∧ ¬ s.core.sealed ∧ src ∉ s.core.creditFault then
        promise (setTickets s reply { t with serve := t.serve + 1, reserved := false }) src reply
      else sendRefusal s src reply k))

/-- CREDIT_HOLD_TIMEOUT (R89): the entry that was kept passes to the next ticket. -/
def execCreditHoldTimeout (reply : Bool) (s : State) : Host.Outcome State Fault Refusal :=
  let t := ticketsOf s reply
  if t.reserved then .next (keepEntry reply (setTickets s reply { t with serve := t.serve + 1, reserved := false })) else .next s

/-! The sender's side. -/

def Credit.isFor (c : Credit) (dest : CoreId) (reply : Bool) : Bool := decide (c.peer = dest) && decide (c.reply = reply)
def creditOf (s : State) (dest : CoreId) (reply : Bool) : Credit :=
  (s.core.credits.find? fun c => c.isFor dest reply).getD ⟨dest, reply, 0, none, false⟩
def setCredit (s : State) (c : Credit) : State :=
  { s with core := { s.core with credits := (s.core.credits.filter fun x => !x.isFor c.peer c.reply) ++ [c] } }
/-- A request leaves for the destination. -/
def sendRequest (s : State) (dest : CoreId) (reply : Bool) (k : Option (BitVec 16)) : State :=
  if dest = s.core.id then s.later [.creditRequest dest reply k] else s.send (.creditRequest dest reply k)
/-- Ask for a credit, unless a request is on its way. -/
def askCredit (s : State) (dest : CoreId) (reply : Bool) : State :=
  let c := creditOf s dest reply
  if c.asked then s else sendRequest (setCredit s { c with asked := true }) dest reply c.ticket
/-- A message that needs a credit (R89): none held, and the packet replays; else the credit is used. -/
def withCredit (s : State) (dest : CoreId) (reply : Bool) (k : State → PRes) : PRes :=
  let c := creditOf s dest reply
  if c.held = 0 then .replay (askCredit s dest reply) (.credit dest reply)
  else k (setCredit s { c with held := c.held - 1 })

/-- CREDIT_GRANT (R89): the credit is the sender's. -/
def execCreditGrant (dest : CoreId) (reply : Bool) (s : State) : Host.Outcome State Fault Refusal :=
  let c := creditOf s dest reply
  .next (setCredit s { c with held := c.held + 1, ticket := none, asked := false })
/-- CREDIT_RETRY (R89): a refused request is presented again with its ticket. -/
def execCreditRetry (dest : CoreId) (reply : Bool) (ticket : BitVec 16) (s : State) : Host.Outcome State Fault Refusal :=
  let c := creditOf s dest reply
  .next (sendRequest (setCredit s { c with ticket := some ticket, asked := true }) dest reply (some ticket))
/-- CREDIT_RETURN (R90): a credit unused for 10 µs goes back; at the destination its promise ends. -/
def execCreditReturn (peer : CoreId) (reply atDest : Bool) (s : State) : Host.Outcome State Fault Refusal :=
  if atDest then
    let t := ticketsOf s reply
    .next (keepEntries (setTickets s reply { t with promised := t.promised.erase peer }))
  else
    let c := creditOf s peer reply
    if c.held = 0 then .next s
    else
      let s1 := setCredit s { c with held := c.held - 1 }
      .next (if peer = s.core.id then s1.later [.creditReturn peer reply true] else s1.send (.creditReturn peer reply))

/-! Watching over credits. -/

/-- Is every occupied guest slot parked for a credit (R91)? -/
def guestsStarved (s : State) : Bool :=
  let gs := allSlots.filter fun i => isGuest i && (s.slot i).occ
  !gs.isEmpty && gs.all fun i => match (s.th i).park with | some (.credit _ _) => true | _ => false
/-- A bit of IRQPEND is set (R319). -/
def raiseIrq (s : State) (k : Nat) : State := s.modPriv fun p => { p with irqpend := p.irqpend ||| ((1 : BitVec 5) <<< k) }
/-- CREDIT_WATCHDOG (R91). -/
def execCreditWatchdog (s : State) : Host.Outcome State Fault Refusal :=
  .next (if guestsStarved s then raiseIrq s 3 else s)

/-- The promises toward a peer are as many as it reports (R341). -/
def recount (s : State) (peer : CoreId) (reply : Bool) (held : Nat) : State :=
  let t := ticketsOf s reply
  setTickets s reply { t with promised := t.promised.filter (· ≠ peer) ++ List.replicate held peer }
def promisedTo (s : State) (peer : CoreId) (reply : Bool) : Nat := ((ticketsOf s reply).promised.filter (· = peer)).length
/-- What this core tells a peer of the credits between them (R92, R341). -/
def reportTo (s : State) (peer : CoreId) (sync : Bool) : CreditReport :=
  ⟨(creditOf s peer false).held, (creditOf s peer true).held, promisedTo s peer false, promisedTo s peer true, sync⟩
/-- The free entries of the arrival buffer, counted from the entries (R86, R92). -/
def freeEntries (s : State) : Nat := 24 - s.core.arrivals.length
/-- The exchange of a CREDSYNC reaches this side (R341): the counts toward the peer are its report's; a side that has not asked
reports in its turn; the pair grants credit again; a ranger that waits goes on. -/
def resync (s : State) (peer : CoreId) (r : CreditReport) : State :=
  let s1 := recount (recount s peer false r.heldO) peer true r.heldR
  let s2 := { s1 with core := { s1.core with creditFault := s1.core.creditFault.filter (· ≠ peer) } }
  if s.core.credSync = some peer then
    keepEntries ({ s2 with core := { s2.core with credSync := none } }.modTh ranger fun t =>
      { t with park := if t.park = some Park.command then none else t.park })
  else keepEntries (s2.send (.creditReport peer (reportTo s2 peer true)))
/-- The pair of this core and a peer grants no credit until a CREDSYNC (R92). -/
def creditFaults (s : State) (peer : CoreId) : State :=
  if peer ∈ s.core.creditFault then s else { s with core := { s.core with creditFault := s.core.creditFault ++ [peer] } }
/-- CREDIT_CHECK (R92, R341): a peer's report, with what this core's counter of free entries reads and whether one of its credit
counters toward the peer has a parity fault. A mismatch of what this core has granted is an event for its own ranger; one of what
the peer has granted is the peer's to report; either ends granting between the pair. -/
def execCreditCheck (peer : CoreId) (rep : CreditReport) (own : OwnCounters) (s : State) : Host.Outcome State Fault Refusal :=
  let c : EventRec := ⟨cCredit, 15, peer.setWidth 64, 0⟩
  if rep.sync then .next (resync s peer rep)
  else if promisedTo s peer false ≠ rep.heldO ∨ promisedTo s peer true ≠ rep.heldR ∨ own.free ≠ freeEntries s ∨ own.parity then
    .next ((creditFaults s peer).later [.eventEnqueue c])
  else if (creditOf s peer false).held ≠ rep.grantedO ∨ (creditOf s peer true).held ≠ rep.grantedR then
    .next (creditFaults s peer)
  else .next s

end Sys2Proof.Machine
end

