-- ==== Sys2Proof/Machine/Context.lean ====
section
/-! DEFINITION. Context images (R323, R324), the bedroll area (R313, R314), giving a slot up (R72). -/
namespace Sys2Proof.Machine

/-! Words and bytes of an image. -/

def bit (b : Bool) (k : Nat) : Nat := if b then 2 ^ k else 0
/-- A mask from the bits of a list of numbers. -/
def maskOf (l : List Nat) (f : Nat → Bool) : Nat := l.foldl (fun m k => m + bit (f k) k) 0
def field (x lo n : Nat) : Nat := x / 2 ^ lo % 2 ^ n
/-- The physical address of byte b of an image. -/
def imageAt (lines : List Nat) (b : Nat) : Nat := lines.getD (b / 64) 0 + b % 64
/-- The images' words written as engine writes (R248, R333). -/
def writeWords (m : Memory) (lines : List Nat) : Nat → List Nat → Memory
  | _, [] => m
  | k, w :: ws => writeWords (m.engineWord (imageAt lines (8 * k)) (leBytes 8 w) false) lines (k + 1) ws
def readWord (m : Memory) (lines : List Nat) (k : Nat) : Nat := m.nat (imageAt lines (8 * k)) 8
def poisWord (m : Memory) (lines : List Nat) (k : Nat) : Bool := m.pois (imageAt lines (8 * k))

/-! Bedroll frames. -/

/-- Frames that an image of allotment a takes (R323). -/
def framesFor (a : Nat) : Nat := 1 + a / 8
/-- Does a frame hold a part of an image, or is it reserved for a thread whose try is at a home (R237)? -/
def frameUsed (s : State) (f : Nat) : Bool :=
  (s.core.images.any fun m => match m.frame with | some x => decide (x ≤ f) && decide (f < x + m.len) | none => false) ||
    allSlots.any fun i => match (s.th i).sync.bind (·.run) with | some x => decide (x.1 ≤ f) && decide (f < x.1 + x.2) | none => false
/-- The lowest free run of n frames. -/
def freeRun (s : State) (n : Nat) : Option Nat :=
  (List.range (bedrollFrames s)).find? fun f => decide (f + n ≤ bedrollFrames s) && (List.range n).all fun k => !frameUsed s (f + k)
def framesFree (s : State) : Nat := ((List.range (bedrollFrames s)).filter fun f => !frameUsed s f).length
/-- The blocks of n frames from frame f. -/
def frameLines (s : State) (f n : Nat) : List Nat := (List.range (16 * n)).map fun k => padBase + bedrollBase s + 1024 * f + 64 * k

/-! The image of a thread. -/

/-- PARK (R323). -/
def parkWord : Option Park → Nat
  | some (.join _ _) => 1
  | some (.wakeAt _) => 2
  | some (.barc c _ _) => 3 + 16 * c.toNat
  | some (.barg _) => 4
  | some .settle => 5
  | _ => 0
def wakeWord : Option Park → Nat
  | some (.wakeAt t) => t.toNat
  | _ => 2 ^ 64 - 1
def kindCode : TKind → Nat
  | .guest _ r => if r then 2 else 1
  | _ => 0
/-- STATE (R323). -/
def stateWord (i : SlotN) (t : Thread) (a : Nat) (trapped : Bool) : Nat :=
  let w := t.regs.win
  i.val + 2 ^ 4 * t.inc.toNat + 2 ^ 8 * w.base.toNat + 2 ^ 14 * w.size.toNat + bit w.pend 19 + 2 ^ 28 * a + 2 ^ 34 * kindCode t.kind +
    bit t.reg.isOpen 36 + 2 ^ 37 * (t.reg.n % 8) + 2 ^ 40 * (t.squash % 8) + 2 ^ 43 * (match t.spill with | some x => x.val | none => 0) +
    bit t.spill.isSome 48 + bit trapped 49
/-- A binding slot's four words (R323). -/
def bindWords (b : Binding) : List Nat :=
  let d := match b.desc with | some x => (x.1.toNat, x.2.toNat) | none => (0, 0)
  let (mode, ring) : Nat × Nat := match b.kind with
    | .unbound => (0, 0) | .pop r => (1, r.toNat) | .push r => (2, r.toNat) | .rd _ _ => (3, 0) | .wr _ _ => (4, 0)
  [mode + 256 * ring, d.1, d.2, b.pos]
/-- The lane poison of 32 vectors, two to a word. -/
def lanePoison (vs : List VReg) (k : Nat) : Nat :=
  let p (j : Nat) : Nat := (vs.getD j ⟨⟨0, 0⟩, 0⟩).v.poison.toNat
  p (2 * k) + 2 ^ 32 * p (2 * k + 1)
/-- The vector registers of a slot. -/
def vectorsOf (s : State) (i : SlotN) : List VReg :=
  (List.range (s.allot i)).map fun v => s.core.pool.get (s.vent i (BitVec.ofNat 5 v))
/-- Is vector v owed a value? -/
def vecOwed (t : Thread) (vs : List VReg) (v : Nat) : Bool :=
  t.far.any fun e => decide (e.dest.vec? = some (BitVec.ofNat 5 v)) && decide ((vs.getD v ⟨⟨0, 0⟩, 0⟩).wseq = e.seq) && decide (v < vs.length)

/-- The words of an image (R323). -/
def imageWords (s : State) (i : SlotN) (t : Thread) (trapped : Bool) : List Nat :=
  let r := t.regs
  let g (k : Nat) : SCell := r.g.get (fin8 k)
  let w (k : Nat) : SCell := r.w.get (fin64 k)
  let q (k : Nat) : QCell := r.q.get (fin8 k)
  let vs := vectorsOf s i
  let low := [1, 2, 3, 4, 5, 6, 7]
  let all := List.range 64
  [t.pc.toNat, stateWord i t (s.allot i) trapped, t.reg.fallback.toNat, r.win.spilled.toNat + 2 ^ 32 * r.win.depth.toNat] ++
  low.map (fun k => (g k).val.toNat) ++
  [(List.range 4).foldl (fun x k => x + 2 ^ (16 * k) * (r.k.get (fin4 k)).toNat) 0] ++
  low.map (fun k => (q k).m.toNat) ++
  [r.seed.toNat, r.fpctl.toNat + 2 ^ 8 * r.fpflags.toNat + 2 ^ 32 * t.check.toNat, t.region.toNat, wakeWord t.park, parkWord t.park,
   t.far.length,
   maskOf low (fun k => (g k).p) + 2 ^ 8 * maskOf low (fun k => (q k).p),
   maskOf all (fun k => (w k).p), maskOf all (fun k => (w k).far),
   maskOf low (fun k => (g k).far) + 2 ^ 8 * maskOf low (fun k => (q k).far) + 2 ^ 32 * maskOf (List.range 32) (vecOwed t vs),
   t.space.toNat + (match t.kind with | .guest _ _ => 2 ^ 16 * t.origin.toNat | _ => 0), 0, 0] ++
  t.binds.items.flatMap bindWords ++ (List.range 16).map (lanePoison vs) ++ all.map (fun k => (w k).val.toNat) ++
  vs.flatMap fun v => (List.range 16).map fun k => field v.v.bits.toNat (64 * k) 64

/-- Where the value of a far entry goes in an image: 1 to 7 the globals, 9 to 15 the predicates, 32 to 63 the vectors, 64 on
the window entries. -/
def placesOf (t : Thread) (vs : List VReg) (e : FarEntry) : List Nat :=
  let g := [1, 2, 3, 4, 5, 6, 7].filter fun k => (t.regs.g.get (fin8 k)).far && decide ((t.regs.g.get (fin8 k)).wseq = e.seq)
  let q := [1, 2, 3, 4, 5, 6, 7].filter fun k => (t.regs.q.get (fin8 k)).far && decide ((t.regs.q.get (fin8 k)).wseq = e.seq)
  let w := (List.range 64).filter fun k => (t.regs.w.get (fin64 k)).far && decide ((t.regs.w.get (fin64 k)).wseq = e.seq)
  let v := match e.dest.vec? with
    | some d => if (vs.getD d.toNat ⟨⟨0, 0⟩, 0⟩).wseq = e.seq ∧ d.toNat < vs.length then [32 + d.toNat] else []
    | none => []
  g ++ q.map (· + 8) ++ v ++ w.map (· + 64)

/-- Elements fetched ahead go back to their stream (R268, R323); a ring's accepted pops fall with them. -/
def unprefetch (s : State) (i : SlotN) : State :=
  (List.finRange 4).foldl (fun s k =>
    let b := (s.th i).binds.get k
    let s1 := match b.kind with
      | .pop r => let g := getRing s r
                  setRing s r { g with resvPop := g.resvPop - b.buf.length }
      | _ => s
    s1.modTh i fun t => { t with binds := t.binds.set k { b with buf := [] } }) s

/-- A slot that loses its thread gives up its solo grant and its request (R298). -/
def unsolo (s : State) (i : SlotN) : State :=
  { s with pkg := { s.pkg with
    soloHolder := if s.pkg.soloHolder = some i then none else s.pkg.soloHolder
    soloQueue := s.pkg.soloQueue.filter fun j => decide (j ≠ i) } }
/-- The slot holds no thread (R70, R72). -/
def vacate (s : State) (i : SlotN) : State :=
  (unsolo s i).setSlot i { s.slot i with occ := false, trap := none, stopped := (s.slot i).stop }
/-- A guest's arrival entry is free, and with it the credit that its sender used (R86). -/
def freeArrival (s : State) (t : Thread) : State :=
  match t.kind with
  | .guest e _ => keepEntries { s with core := { s.core with arrivals := s.core.arrivals.filter fun a => decide (a.id ≠ e) } }
  | _ => s

/-- Matrix commands follow the thread that issued them, in the queue and in saved core frames (R64, R322). -/
def mqMove (s : State) (old new : MOwner) : State :=
  let f (c : MCmd) : MCmd := if c.owner = old then { c with owner := new } else c
  { s with core := { s.core with mq := s.core.mq.map f, frames := s.core.frames.map fun x => (x.1, x.2.map f) } }
/-- Has a thread no store on its way to another package or to host memory? -/
def sentAll (t : Thread) : Bool := decide (t.pend = []) && decide (t.sent = [])
/-- May a thread be saved: every packet of it is sealed, none awaits its value, and its stores to other packages and to host memory
have been acknowledged, for no image holds them (R183, R283, R286; log 82)? -/
def savable (t : Thread) : Bool :=
  decide (t.flight = []) && t.await.isNone && sentAll t
/-- Save the thread of slot i into blocks `lines` (R323, R324, R333): the image's words, its record, the slot given up. -/
def saveThread (s : State) (i : SlotN) (lines : List Nat) (frame : Option Nat) (trapped sync : Bool) : State :=
  let s1 := mqMove (unprefetch s i) (.slot i) (.image s.core.nextArr)
  let t := s1.th i
  let vs := vectorsOf s1 i
  let a := s1.allot i
  let img : Image := ⟨s1.core.nextArr, lines, frame, framesFor a, i, t, a, false, t.far.map fun e => (e, placesOf t vs e), sync⟩
  let s2 := { s1 with
    mem := writeWords s1.mem lines 0 (imageWords s1 i t trapped),
    core := { s1.core with
      nextArr := s1.core.nextArr + 1,
      images := (s1.core.images.filter fun m => decide (m.frame ≠ none) || decide (m.lines.head? ≠ lines.head?)) ++ [img] } }
  freeArrival (vacate s2 i) t

/-! An arrival into an image (R324). -/

/-- One register's place takes a value. -/
def landWord (m : Memory) (img : Image) (v : FarVal) (p : Nat) : Memory :=
  let put (m : Memory) (k x : Nat) : Memory := m.engineWord (imageAt img.lines (8 * k)) (leBytes 8 x) false
  let clr (m : Memory) (k b : Nat) : Memory := let x := readWord m img.lines k
                                               put m k (if x.testBit b then x - 2 ^ b else x)
  let pois (m : Memory) (k b : Nat) (on : Bool) : Memory :=
    let x := readWord m img.lines k
    put m k (if x.testBit b then (if on then x else x - 2 ^ b) else (if on then x + 2 ^ b else x))
  match v with
  | .scalar x _ =>
    if p < 8 then pois (clr (put m (3 + p) x.v.toNat) 28 p) 25 p x.p
    else if 64 ≤ p then pois (clr (put m (64 + (p - 64)) x.v.toNat) 27 (p - 64)) 26 (p - 64) x.p
    else m
  | .vec x =>
    if 32 ≤ p ∧ p < 64 then
      let n := p - 32
      let m1 := (List.range 16).foldl (fun m k => put m (128 + 16 * n + k) (field x.bits.toNat (64 * k) 64)) m
      let old := readWord m1 img.lines (48 + n / 2)
      let lo := field old 0 32
      let hi := field old 32 32
      clr (put m1 (48 + n / 2) (if n % 2 = 0 then x.poison.toNat + 2 ^ 32 * hi else lo + 2 ^ 32 * x.poison.toNat)) 28 p
    else m
  | .discard => clr m (if 64 ≤ p then 27 else 28) (if 64 ≤ p then p - 64 else p)

/-- IMAGE_ARRIVAL (R324): the owed value under a number lands in its image; OWED falls by one. -/
def execImageArrival (img : Nat) (seq : BitVec 8) (s : State) : Host.Outcome State Fault Refusal :=
  match s.core.images.find? fun m => decide (m.id = img) with
  | none => .next s
  | some m => match m.owed.find? fun e => decide (e.1.seq = seq) with
    | none => .next s
    | some (e, ps) => match e.value with
      | none => .next s
      | some v =>
        let m1 := ps.foldl (fun mem p => landWord mem m v p) s.mem
        let owed := readWord m1 m.lines 24
        let m2 := m1.engineWord (imageAt m.lines 192) (leBytes 8 (owed - 1)) false
        let fl := readWord m2 m.lines 20
        let m3 := m2.engineWord (imageAt m.lines 160) (leBytes 8 (fl ||| 2 ^ 8 * e.fl.toNat)) false
        .next { s with mem := m3, core := { s.core with images := s.core.images.map fun x =>
          if x.id = img then { x with owed := x.owed.filter fun y => decide (y.1.seq ≠ seq) } else x } }

/-! Loading an image. -/

/-- A register of an image: poison of its own memory word is ORed in (R323). -/
def cellAt (m : Memory) (lines : List Nat) (k : Nat) (p : Bool) : SCell :=
  ⟨BitVec.ofNat 64 (readWord m lines k), p || poisWord m lines k, false, 0, none⟩
/-- The registers of an image. -/
def imageRegs (m : Memory) (lines : List Nat) (sizes : List (BitVec 5)) : RegFile :=
  let st := readWord m lines 1
  let p := readWord m lines 25
  let wp := readWord m lines 26
  let sd := readWord m lines 3
  let w20 := readWord m lines 20
  ⟨⟨(List.range 8).map fun k => if k = 0 then .zero else cellAt m lines (3 + k) (p.testBit k), by simp⟩,
   ⟨(List.range 64).map fun k => cellAt m lines (64 + k) (wp.testBit k), by simp⟩,
   ⟨(List.range 8).map fun k => if k = 0 then .zero else
      ⟨BitVec.ofNat 64 (readWord m lines (11 + k)), p.testBit (8 + k) || poisWord m lines (11 + k), false, 0⟩, by simp⟩,
   ⟨(List.range 4).map fun k => BitVec.ofNat 16 (field (readWord m lines 11) (16 * k) 16), by simp⟩, Bank.fill _ _ 0,
   BitVec.ofNat 64 (readWord m lines 19), BitVec.ofNat 8 (field w20 0 8), BitVec.ofNat 6 (field w20 8 6),
   ⟨BitVec.ofNat 6 (field st 8 6), BitVec.ofNat 5 (field st 14 5), st.testBit 19, BitVec.ofNat 12 (field sd 32 12),
    BitVec.ofNat 32 (field sd 0 32), 0, sizes⟩⟩
/-- The record of the thread whose image lies at some blocks, or whose image has been moved there: it shows the same PC, registers
and space (log 22). -/
def recordOf (s : State) (lines : List Nat) : Option Image :=
  let same (m : Image) : Bool :=
    let ws := imageWords s m.slot m.th false
    ([0, 2, 3] ++ (List.range 16).map (· + 4) ++ [25, 26, 29] ++ (List.range 64).map (· + 64)).all fun k =>
      decide (ws.getD k 0 = readWord s.mem lines k)
  (s.core.images.find? fun m => decide (m.lines.head? = lines.head?)).or (s.core.images.find? fun m => m.frame.isNone && same m)
/-- The word that the JOIN before a PC names, from the code there and the registers of the thread (R81, R323; log 22). -/
def joinBefore (s : State) (t : Thread) : Option WordRef :=
  let off := if pcHead t.pc = 0 then pcLine t.pc - 64 else pcLine t.pc
  match devAddrs s t.space [permX] (vaOf t.creach off) 64 with
  | .ok as =>
    let l := BitVec.ofNat 512 (leNat (s.mem.gather as))
    let n := if pcHead t.pc = 0 then lineN l - 1 else pcHead t.pc - 1
    match decode (lineHead l n) (lineTail l n) with
    | .ok (.join _ a) => some ⟨t.space, t.regs.reach 0, (t.regs.s a).val⟩
    | _ => none
  | _ => none
/-- The generation of the launch-wide barrier that is open now (R94). -/
def openBarg (s : State) : Nat :=
  match s.core.launch with
  | some l => (match s.part.launches.find? fun x => decide (x.seq = l.sh.info.seq) with | some x => x.bargGen | none => 0)
  | none => 0
/-- The park state of an image (R323, R334) for thread t: what its words do not say comes from the record, else from the code and
the barrier as they stand (log 22). -/
def imagePark (s : State) (lines : List Nat) (t : Thread) (old : Option Park) : Option Park :=
  let x := readWord s.mem lines 23
  let c : BarN := BitVec.ofNat 4 (field x 4 4)
  match x % 16 with
  | 1 => match old with
    | some (.join r n) => some (.join r n)
    | _ => (joinBefore s t).map fun r => .join r 1
  | 2 => some (.wakeAt (BitVec.ofNat 64 (readWord s.mem lines 22)))
  | 3 => match old with
    | some (.barc d n k) => some (.barc d n k)
    | _ => some (.barc c ((s.cl.bars.get (fin16 c.toNat)).armed.getD 0) true)
  | 4 => match old with
    | some (.barg g) => some (.barg g)
    | _ => some (.barg (openBarg s))
  | 5 => some .settle
  | _ => none
/-- A binding slot of an image; a bounded stream's descriptor is read again (R323), and where it can no longer be read the stream has
no element. A `.pop` or `.push` slot whose descriptor words are zero is unbounded unless the record says otherwise (log 22). -/
def imageBind (s : State) (space : BitVec 16) (lines : List Nat) (k : Nat) (old : Binding) : Binding :=
  let m := s.mem
  let x := readWord m lines (32 + 4 * k)
  let ring : RingN := BitVec.ofNat 5 (field x 8 5)
  let d : Word × BitVec 16 := (BitVec.ofNat 64 (readWord m lines (33 + 4 * k)), BitVec.ofNat 16 (field (readWord m lines (34 + 4 * k)) 0 16))
  let bd : BindDesc := match devAddrs s space [permR] (vaOf d.2 d.1) 64 with
    | .ok as => readBind m as
    | _ => ⟨0, 0, 1, 0, 0, [0, 0, 0, 0], [0, 0, 0, 0]⟩
  let mode := field x 0 8
  let kind : BindKind := match mode with
    | 1 => .pop ring | 2 => .push ring | 3 => .rd bd.reach bd.base | 4 => .wr bd.reach bd.base | _ => .unbound
  let free := decide (mode ≤ 2) && decide (d = (0, 0)) && old.desc.isNone
  if kind = .unbound then .idle
  else if free then ⟨kind, none, [], [], readWord m lines (35 + 4 * k), []⟩
  else ⟨kind, some d, bd.used, bd.usedSteps, readWord m lines (35 + 4 * k), []⟩

/-- The thread of an image (R334): what R323 lays out is read from its words, reserved bits of its registers as zero (R3); the
rest stands as it was saved. -/
def imageThread (s : State) (lines : List Nat) (old : Thread) : Thread :=
  let m := s.mem
  let st := readWord m lines 1
  let regs := imageRegs m lines old.regs.win.sizes
  let pc := BitVec.ofNat 64 (readWord m lines 0)
  let w20 := readWord m lines 20
  let space := BitVec.ofNat 16 (field (readWord m lines 29) 0 16)
  let t : Thread := { old with
    pc := pc, from_ := pc, regs := { regs with win := { regs.win with retpc := old.regs.win.retpc } },
    space := space, inc := BitVec.ofNat 4 (field st 4 4), far := [], camp := false, park := none, yield := none,
    check := BitVec.ofNat 32 (field w20 32 32) &&& 0xFFFFFF07, region := BitVec.ofNat 12 (field (readWord m lines 21) 0 12) &&& 0xF1F,
    reg := { old.reg with isOpen := st.testBit 36, n := field st 37 3, fallback := BitVec.ofNat 64 (readWord m lines 2),
                          next := if st.testBit 36 then pc else old.reg.next },
    squash := field st 40 3, solo := false, ended := [], sync := none, pend := [], sent := [], late := none, miss := none,
    landed := [], flight := [], staged := [], await := none,
    binds := ⟨(List.range 4).map fun k => imageBind s space lines k (old.binds.get (fin4 k)), by simp⟩,
    spill := if st.testBit 48 then some (fin32 (field st 43 5)) else none }
  startChunk { t with park := imagePark s lines t old.park } pc
/-- The vector registers of an image. -/
def imageVectors (m : Memory) (lines : List Nat) (a : Nat) : List VReg :=
  (List.range a).map fun v =>
    let ws := (List.range 16).map fun k => readWord m lines (128 + 16 * v + k)
    let lp := field (readWord m lines (48 + v / 2)) (32 * (v % 2)) 32
    let own := maskOf (List.range 32) fun l => poisWord m lines (128 + 16 * v + l / 2)
    ⟨⟨BitVec.ofNat 1024 (packElems 64 ws), BitVec.ofNat 32 (lp ||| own)⟩, 0⟩
/-- Vector registers of slot i from a list. -/
def putVectors (s : State) (i : SlotN) (vs : List VReg) : State :=
  vs.zipIdx.foldl (fun s x => s.putV i (BitVec.ofNat 5 x.2) x.1) s

end Sys2Proof.Machine
end

