-- ==== Sys2Proof/Machine/Journal.lean ====
section
/-! DEFINITION. The journal of the partition (R354 to R357) and a launch's records in it. -/
namespace Sys2Proof.Machine

/-- STATE codes of R354. -/
def jAccepted : Nat := 1
def jStarted : Nat := 2
def jDone : Nat := 3
def jFailed : Nat := 4
def jPartly : Nat := 5
def jCancelled : Nat := 6
def jLate : Nat := 7
def jKilled : Nat := 8

/-- What an entry says besides its SEQ and INDEX (R354). -/
structure JEntry where
  seq    : BitVec 32
  state  : Nat
  cause  : BitVec 8
  detail : Nat
  check  : BitVec 32
  packet : Word
  done   : Nat
  progress : Nat
  recorded : Word
  core   : CoreId
deriving DecidableEq, Repr

/-- The eight words of an entry, the first of them last in place (R354). -/
def jWords (e : JEntry) (index : Nat) (time : Word) : List Nat :=
  [e.seq.toNat + 2 ^ 32 * (index % 2 ^ 32),
   e.state + 2 ^ 8 * e.cause.toNat + 2 ^ 16 * (e.detail % 2 ^ 16) + 2 ^ 32 * e.check.toNat,
   time.toNat, e.packet.toNat, e.done, e.progress, e.recorded.toNat, e.core.toNat]

/-- The space in which the port names its packets and its journal: the first of SPACES (R348, R363). -/
def portSpace (s : State) : BitVec 16 := match s.part.cfg with | some c => c.spaceLo | none => 0
/-- Words written as engine writes through the device's own translation, each where it lands (R248). -/
def devWrite (s : State) (space : BitVec 16) (va : Nat) : List Nat → State
  | [] => s
  | w :: ws =>
    let s1 := match devAddrs s space [permW] va 8 with
      | .ok (a :: _) => { s with mem := s.mem.engineWord a (leBytes 8 w) false }
      | _ => s
    devWrite s1 space (va + 8) ws

/-- Where entry i lies in the journal range. -/
def jOffset (c : PartCfg) (i : Nat) : Nat := i % 2 ^ c.jlog * 64
/-- Does an entry raise the partition's MSI-X vector (R386)? -/
def raisesMsix (st : Nat) : Bool := decide (3 ≤ st) && decide (st ≤ 8)
/-- A message of the vector is sent, unless one is pending (R386). -/
def msix (s : State) : State :=
  if s.part.msix then s else { s with part := { s.part with msix := true } }.send .msix

/-- One entry at HEAD (R354). -/
def append (s : State) (e : JEntry) : State :=
  match s.part.cfg with
  | none => s
  | some c =>
    let r := readTime s
    let i := r.2.part.jhead
    let va := vaOf c.jreach (c.joff + BitVec.ofNat 64 (jOffset c i))
    let ws := jWords e i r.1
    let s1 := devWrite (devWrite r.2 (portSpace s) (va + 8) (ws.drop 1)) (portSpace s) va (ws.take 1)
    let s2 := { s1 with part := { s1.part with jhead := i + 1 } }
    if raisesMsix e.state then msix s2 else s2

/-- HEAD − TAIL, V and the capacity (R357). -/
def jUsed (s : State) : Nat := (BitVec.ofNat 32 s.part.jhead - s.part.jtail).toNat
def jResv (s : State) : Nat := s.part.launches.foldl (fun n l => n + l.resv) 0
def jRoom (s : State) (spare : Nat) : Bool :=
  match s.part.cfg with
  | none => false
  | some c => decide (jUsed s + jResv s + spare ≤ 2 ^ c.jlog)

/-! Launches by SEQ. -/

def findLaunch (s : State) (q : BitVec 32) : Option Launch := s.part.launches.find? fun l => decide (l.seq = q)
def modLaunch (s : State) (q : BitVec 32) (f : Launch → Launch) : State :=
  { s with part := { s.part with launches := s.part.launches.map fun l => if l.seq = q then f l else l } }
def endLaunch (s : State) (q : BitVec 32) : State :=
  { s with part := { s.part with launches := s.part.launches.filter fun l => decide (l.seq ≠ q) } }

/-- Indices of the completed shares (R354, R355). -/
def doneCount (l : Launch) : Nat := l.donesh.foldl (fun n x => n + x.2) 0
def entryOf (l : Launch) (st : Nat) : JEntry := ⟨l.seq, st, 0, 0, 0, l.packet, doneCount l, 0, l.recorded, 0⟩
/-- An entry that uses one of its launch's reservations (R357). -/
def appendOwn (s : State) (l : Launch) (e : JEntry) : State :=
  modLaunch (append s e) l.seq fun x => { x with resv := x.resv - 1 }
/-- An entry beyond the reservation: dropped where no room remains (R357). -/
def appendMore (s : State) (l : Launch) (e : JEntry) : State :=
  if jRoom s 2 then append s e else modLaunch s l.seq fun x => { x with dropped := true }
/-- DETAIL bits of a last entry: entries were dropped (R357), a twin partition differed (R401). -/
def lastBits (l : Launch) : Nat := (if l.dropped then 2 ^ 15 else 0) + (if l.mismatch then 2 ^ 14 else 0)
/-- A launch's last entry: the launch and what it still reserved are gone (R357). -/
def appendLast (s : State) (l : Launch) (e : JEntry) : State :=
  endLaunch (append s { e with detail := e.detail + lastBits ((findLaunch s l.seq).getD l) }) l.seq

/-- The launch's first thread starts (R354). -/
def markStarted (s : State) (q : BitVec 32) : State :=
  match findLaunch s q with
  | none => s
  | some l => if l.started then s else modLaunch (appendOwn s l (entryOf l jStarted)) q fun x => { x with started := true }
/-- A thread of the launch was ended by KILLT (R332, R352). -/
def recordKilled (s : State) (q : BitVec 32) (core : CoreId) (slot : SlotN) : State :=
  match findLaunch s q with
  | none => s
  | some l => appendMore s l { entryOf l jKilled with detail := slot.val, core := core }

/-! The launch-wide barrier (R94). -/

/-- A thread parked in slots or in images is released from a wait that a predicate names. -/
def wakeParked (p : Park → Bool) (s : State) : State :=
  let out (x : Option Park) : Bool := match x with | some k => p k | none => false
  let s1 := allSlots.foldl (fun s i =>
    if (s.slot i).occ && out (s.th i).park then s.modTh i fun t => { t with park := none } else s) s
  let hit := s1.core.images.filter fun m => out m.th.park
  { s1 with
    mem := hit.foldl (fun m g => m.engineWord (imageAt g.lines 184) (leBytes 8 0) false) s1.mem
    core := { s1.core with images := s1.core.images.map fun m => if out m.th.park then { m with th := { m.th with park := none } } else m } }

def isBarg (g : Nat) : Park → Bool
  | .barg n => decide (n = g)
  | _ => false
/-- No thread has arrived at the new generation. -/
def clearBarg (s : State) : State :=
  let s1 := allSlots.foldl (fun s i => s.modTh i fun t => { t with barg := false }) s
  { s1 with core := { s1.core with images := s1.core.images.map fun m => { m with th := { m.th with barg := false } } } }
/-- A generation completes once every index thread has arrived or exited. -/
def bargCheck (s : State) (q : BitVec 32) : State :=
  match findLaunch s q with
  | none => s
  | some l =>
    if l.total ≤ l.bargAt + l.bargOut then
      (clearBarg (wakeParked (isBarg l.bargGen) (modLaunch s q fun x => { x with bargAt := 0, bargGen := x.bargGen + 1 }))).send (.bargWake q)
    else s
/-- Arrivals join the count of the open generation; that of a thread of this core is remembered with it. -/
def bargArrive (s : State) (q : BitVec 32) (who : Option SlotN) (n : Nat) : State :=
  let s1 := match who with
    | some i => if n ≠ 0 then s.modTh i fun t => { t with barg := true } else s
    | none => s
  bargCheck (modLaunch s1 q fun x => { x with bargAt := x.bargAt + n }) q
/-- A thread that has arrived and ends counts as exited, not twice; an arrival still on its way is counted no more. -/
def bargLeave (s : State) (q : BitVec 32) (i : Option SlotN) (t : Thread) : State :=
  let s1 := match i with
    | some j => { s with agenda := s.agenda.filter fun e => match e with | .bargArrival (some k) n => decide (k ≠ j) || decide (n = 0) | _ => true }
    | none => s
  if t.barg then modLaunch s1 q fun x => { x with bargAt := x.bargAt - 1 } else s1
/-- Index threads that have exited, or were killed, count as arrived in every later generation. -/
def bargExit (s : State) (q : BitVec 32) (n : Nat) : State := bargCheck (modLaunch s q fun x => { x with bargOut := x.bargOut + n }) q

end Sys2Proof.Machine
end

