-- ==== Sys2Proof/Machine/Work.lean ====
section
/-! DEFINITION. Threads, tasks and barriers (R66, R70 to R82, R93 to R95): EXIT, FORK, JOIN, BARC, BARG, and the steps that
fill slots, push tasks, count joins and arrivals, spill and read back the task pack. -/
namespace Sys2Proof.Machine

/-! Starting state (R66). -/

/-- SEED of a thread from the launch seed and its index. -/
def seedFor (seed x y z : Word) : Word :=
  let r := seed ^^^ x ^^^ (y <<< 21) ^^^ (z <<< 42)
  if r = 0 then 1 else r
def globalCell (v : SVal) : SCell := ⟨v.v, v.p, false, 0, none⟩
/-- The registers of a thread of the launch in slot i. -/
def startRegs (s : State) (l : LaunchInfo) (i : SlotN) (a1 : SVal) (y z : Word) : RegFile :=
  let g (v : Word) : SCell := globalCell ⟨v, false⟩
  { RegFile.zero with
    g := ⟨[.zero, globalCell a1, g y, g z, g l.param, g (s.core.id.setWidth 64), g (BitVec.ofNat 64 i.val), .zero], rfl⟩
    k := ⟨[l.dreach, l.dreach, l.dreach, 0xFFFF], rfl⟩
    seed := seedFor l.seed a1.v y z
    fpctl := l.fpctl }
/-- A thread takes its slot: a new incarnation, its vector allotment zero (R66, R72). -/
def occupy (s : State) (i : SlotN) (t : Thread) : State :=
  let t1 := { t with inc := (s.th i).inc + 1, seq := freeSeq (drainSeqs s i) 256 t.seq }
  let s1 := s.setSlot i { s.slot i with occ := true, th := t1, trap := none }
  putVectors s1 i (List.replicate (s1.allot i) ⟨⟨0, 0⟩, 0⟩)
/-- The launch's first thread has started. -/
def threadStarted (s : State) (l : LaunchInfo) : State := markStarted s l.seq

/-- The next index of the share starts (R71). -/
def startIndex (s : State) (l : CoreLaunch) (i : SlotN) : State :=
  let f := l.sh.info
  let j := l.next
  let w (n : Nat) : Word := BitVec.ofNat 64 n
  let r := startRegs s f i ⟨w (j % f.x), false⟩ (w (j / f.x % f.y)) (w (j / (f.x * f.y)))
  let s1 := { s with core := { s.core with launch := some { l with next := j + 1 } } }
  threadStarted (occupy s1 i (Thread.start .index f.entry f.space f.creach r 0)) f
/-- A task starts: its argument is s1 (R66, R74). -/
def startTask (s : State) (l : CoreLaunch) (i : SlotN) (t : Task) : State :=
  let f := l.sh.info
  threadStarted (occupy s i (Thread.start (.task t.join) t.pc f.space f.creach (startRegs s f i t.arg 0 0) 0)) f
/-- A settled guest keeps what its hiker brought; the rest is as R66 (R69), with an index of zero in SEED's formula: DESIGN CHOICE
(log 85). -/
def startSettled (s : State) (l : CoreLaunch) (i j : SlotN) : State :=
  let f := l.sh.info
  let g := s.th j
  let r := { startRegs s f i ⟨0, false⟩ 0 0 with g := g.regs.g, k := g.regs.k, q := g.regs.q, w := g.regs.w }
  let t := { Thread.start .settled g.pc g.space g.creach r 0 with from_ := g.from_ }
  occupy (freeArrival (vacate s j) g) i t
/-- A saved waiter comes back: its JOIN is passed, its synchronising instruction is tried again (R82, R238). -/
def startWaiter (s : State) (m : Image) (i : SlotN) : State :=
  let t := imageThread s m.lines m.th
  let s1 := occupy { s with core := { s.core with images := s.core.images.filter fun x => decide (x.id ≠ m.id) } } i
    { t with park := none }
  mqMove (putVectors s1 i (imageVectors s.mem m.lines m.a)) (.image m.id) (.slot i)

/-! What a free slot takes (R70). -/

/-- Does the core run a launch of a space (R88)? -/
def runsSpace (s : State) (sp : BitVec 16) : Bool :=
  match s.core.launch with
  | some l => !l.reported && !l.stopped && decide (l.sh.info.space = sp)
  | none => false
/-- The guests that wait in SETTLE for a slot of the launch. -/
def settlers (s : State) : List SlotN :=
  allSlots.filter fun j => isGuest j && (s.slot j).occ && !(s.slot j).stop && decide ((s.th j).park = some .settle) && runsSpace s (s.th j).space
/-- One that owes and expects nothing more. -/
def settleReady (s : State) (j : SlotN) : Bool := decide ((s.th j).far = []) && !uncommitted (s.th j) && savable (s.th j)
/-- A resumed waiter whose values have all landed. -/
def resumedImage (s : State) : Option Image :=
  s.core.images.find? fun m => m.resumed && decide (m.owed = []) && m.frame.isSome
/-- Is a resident slot free for the launch, with no store of its last thread still on its way? -/
def slotFree (s : State) (i : SlotN) : Bool :=
  !(s.slot i).occ && !(s.slot i).stop && !(s.slot i).stopped && isResident i && decide (i.val < s.threads) && !s.core.halted &&
    !s.core.contained && decide ((s.th i).pend = []) && decide ((s.th i).sent = [])
/-- The pack yields no entry while it is frozen (R76; log 24). -/
def packItem (s : State) : Option (Task × List Task) :=
  if s.core.priv.packFrozen then none
  else match s.core.pack.reverse with
    | [] => none
    | t :: rest => some (t, rest.reverse)
/-- The pack is empty and a block of it is still to be read back, before the next take (R70, R76). -/
def packAway (s : State) : Bool := decide (s.core.pack = []) && decide (s.core.priv.packBlocks ≠ 0) && !s.core.priv.packFrozen
/-- Slots that the guests waiting in SETTLE have first claim to, lowest first, and that no such guest can take yet (R70, R88;
log 84). -/
def heldFor (s : State) (i : SlotN) : Bool :=
  decide ((allSlots.filter fun j => slotFree s j && decide (j.val < i.val)).length < (settlers s).length)

/-! Stealing (R77, R78). -/

/-- The level of the smallest unit that holds two cores: cluster, site, die, package. -/
def unitLevel (a b : CoreId) : Nat :=
  if a.toNat / 8 = b.toNat / 8 then 0 else if a.toNat / 512 = b.toNat / 512 then 1 else if a.toNat / 4096 = b.toNat / 4096 then 2 else 3
/-- This core's hint bit at a level: the top of its pack is eligible there. -/
def hintBit (s : State) (lvl : Nat) : Bool :=
  !s.core.priv.packFrozen && (match s.core.pack.head? with | some t => decide (lvl ≤ t.level.toNat) | none => false)
/-- May a thief that runs launch seq take a victim's top entry? -/
def mayTop (me : CoreId) (seq : BitVec 32) (v : Victim) : Option Task :=
  match v.top with
  | some t => if v.seq = seq ∧ unitLevel me v.core ≤ t.level.toNat then some t else none
  | none => none
/-- Members in rotation, from the one after `last`. -/
def turnIns (last : CoreId) (v : Victim) : List Victim → List Victim
  | [] => [v]
  | w :: ws => if (v.core - last - 1).toNat ≤ (w.core - last - 1).toNat then v :: w :: ws else w :: turnIns last v ws
def inTurn (last : CoreId) (vs : List Victim) : List Victim := vs.foldr (turnIns last) []
/-- Attempts one after another, each remembered; one that finds nothing eligible fails. -/
def attempts (me : CoreId) (seq : BitVec 32) (lvl : Fin 4) : List Victim → Bank CoreId 4 → Option (CoreId × Task) × Bank CoreId 4
  | [], b => (none, b)
  | v :: vs, b => match mayTop me seq v with
    | some t => (some (v.core, t), b.set lvl v.core)
    | none => attempts me seq lvl vs (b.set lvl v.core)
/-- The search: cluster, site, die, package, among the members whose hint bits are set. -/
def search (me : CoreId) (seq : BitVec 32) (vs : List Victim) : List (Fin 4) → Bank CoreId 4 → Option (CoreId × Task) × Bank CoreId 4
  | [], b => (none, b)
  | lvl :: ls, b =>
    let here := vs.filter fun v => v.hint && decide (v.core ≠ me) && decide (unitLevel me v.core = lvl.val)
    match attempts me seq lvl (inTurn (b.get lvl) here) b with
    | (some r, b1) => (some r, b1)
    | (none, b1) => search me seq vs ls b1
/-- A resident slot steals: the victim is told, the task runs under this core's launch. -/
def steal (s : State) (l : CoreLaunch) (slot : SlotN) (around : List Victim) : State :=
  let r := search s.core.id l.sh.info.seq around [0, 1, 2, 3] s.core.tried
  let s1 := { s with core := { s.core with tried := r.2 } }
  match r.1 with
  | some (c, t) => startTask (s1.send (.steal c)) l slot t
  | none => s1
/-- Would a free slot of this core take the bottom entry now? -/
def ownTakes (s : State) : Bool :=
  (allSlots.any fun i => slotFree s i && !heldFor s i) && (resumedImage s).isNone && (packItem s).isSome
/-- A thief tries the top of this core's pack: the owner's own take of a last entry comes first. -/
def giveTop (s : State) (thief : CoreId) (seq : BitVec 32) : State :=
  let mine := match s.core.launch with | some l => decide (l.sh.info.seq = seq) | none => false
  if mine && hintBit s (unitLevel thief s.core.id) && !(decide (s.core.pack.length = 1) && ownTakes s) then
    { s with core := { s.core with pack := s.core.pack.drop 1 } }.send (.stolen thief s.core.pack.head?)
  else s.send (.stolen thief none)

/-- Is anything of this core's own there for a free slot? -/
def fillable (s : State) : Bool :=
  match s.core.launch with
  | none => false
  | some l => l.started && !l.stopped && ((settlers s).any (settleReady s) || (resumedImage s).isSome || (packItem s).isSome ||
      (!packAway s && decide (l.next < l.sh.hi)))
/-- What a free slot takes below a settling guest: the first item there is (R70). -/
def fillFrom (s : State) (l : CoreLaunch) (slot : SlotN) (around : List Victim) : State :=
  match resumedImage s with
  | some m => startWaiter s m slot
  | none => match packItem s with
    | some (t, rest) => startTask { s with core := { s.core with pack := rest } } l slot t
    | none =>
      if packAway s then s
      else if l.next < l.sh.hi then startIndex s l slot
      else steal s l slot around
/-- SLOT_FILL (R70, R77, R78): a free slot takes the first item that is available, no thread of a launch before its start (R351);
or a thief's attempt reaches this core. `around` are the cores that the slot may steal from. -/
def execSlotFill (f : Fill) (around : List Victim) (s : State) : Host.Outcome State Fault Refusal :=
  match f with
  | .thief core seq => .next (giveTop s core seq)
  | .own slot => match s.core.launch with
    | none => .next s
    | some l =>
      if !slotFree s slot || l.stopped || !l.started then .next s
      else match (settlers s).find? (settleReady s) with
        | some j => .next (startSettled s l slot j)
        | none => .next (if heldFor s slot then s else fillFrom s l slot around)

/-! A thread's end. -/

/-- CHECK of a thread of the launch, or of a command applied after its thread's exit, joins the launch's (R64, R352). -/
def mergeIntoLaunch (s : State) (c : BitVec 32) : State :=
  match s.core.launch with
  | none => s
  | some l =>
    if l.reported then modLaunch s l.sh.info.seq fun x => { x with check := mergeCheck x.check c }
    else { s with core := { s.core with launch := some { l with check := mergeCheck l.check c } } }
/-- Binding slots become unbound and their rings free for another stream (R57, R267). -/
def unbindAll (s : State) (i : SlotN) : State :=
  (List.finRange 4).foldl (fun s k =>
    let s1 := match ((s.th i).binds.get k).kind with
      | .pop r => setRing s r { getRing s r with popb := false }
      | .push r => setRing s r { getRing s r with pushb := false }
      | _ => s
    s1.modTh i fun t => { t with binds := t.binds.set k .idle }) (unprefetch s i)
/-- The window spill area is free again (R315). -/
def freeSpill (s : State) (t : Thread) : State :=
  match t.spill with
  | none => s
  | some a => { s with core := { s.core with spills := s.core.spills &&& ~~~((1 : BitVec 32) <<< a.val) } }
/-- Is a thread one of the launch's index threads under PERSIST (R94)? -/
def persists (s : State) (t : Thread) : Option (BitVec 32) :=
  match s.core.launch with
  | some l => if t.kind = .index ∧ l.sh.info.flags.getLsbD 0 then some l.sh.info.seq else none
  | none => none
/-- Everything a thread holds is given back; its slot is free (R72, R86, R169). -/
def release (s : State) (i : SlotN) : State :=
  let t := s.th i
  let s1 := freeSpill (unbindAll s i) t
  freeArrival (vacate (mqMove s1 (.slot i) .gone) i) t
/-- A thread has ended: by EXIT, or by KILLT. -/
def threadEnds (s : State) (i : SlotN) : State :=
  let t := s.th i
  let s1 := release s i
  let s2 := match t.kind with
    | .guest _ _ => s1
    | .ranger => s1
    | _ => mergeIntoLaunch s1 t.check
  match persists s t with
  | some q => bargExit (bargLeave s2 q (some i) t) q 1
  | none => s2

/-- EXIT (R80, R169): older chunks and owed values first; a task's join word counts down. -/
def execExit (h : Hdr) (s : State) : Host.Outcome State Fault Refusal :=
  runPacket h { Names.empty with noRanger := true } false
    (fun s => ender s h (fun _ => none) fun s =>
      if s.me.far ≠ [] then .replay s (.owed false)
      else
        let s1 := match s.me.kind with
          | .task j => s.later [.joinDecrement j s.ctl.cur]
          | _ => s
        .gone (threadEnds s1 s.ctl.cur)) s

/-! Join words (R79 to R82). -/

/-- The physical address of a join word at its home. -/
inductive Home where
  | at_ (a : Nat)
  | wait (s : List Instr)
  | lost
deriving DecidableEq, Repr
def homeOf (s : State) (r : WordRef) : Home :=
  match devAddrs s r.space [permA] r.va 8 with
  | .ok as => .at_ (as.headD 0)
  | .miss _ => .wait []
  | .padMiss l => .wait [.padLineFill l]
  | .bad _ _ => .lost
def joinCount (w : Nat) : Nat := w % 2 ^ 32
def joinWaited (w : Nat) : Bool := decide (2 ^ 63 ≤ w)
/-- The word with COUNT replaced. -/
def setCount (w n : Nat) : Nat := w / 2 ^ 32 * 2 ^ 32 + n % 2 ^ 32
/-- The waiter fields. -/
def joinWaiter (core : CoreId) (slot : SlotN) : Nat := 2 ^ 63 + 2 ^ 46 * slot.val + 2 ^ 32 * core.toNat
/-- An atomic write of a word at home (R280). -/
def homeWrite (s : State) (a w : Nat) : State :=
  markWrite { s with mem := s.mem.store a (leBytes 8 w) (s.mem.pois a) } none (linesOf a 8)

/-- The atomic subtract of R80. -/
def joinDown (s : State) (a : Nat) (slot : SlotN) : State :=
  let w := s.mem.nat a 8
  let v := setCount w (joinCount w + 2 ^ 32 - 1)
  if joinCount v = 0 ∧ joinWaited v then
    waitedWord (homeWrite s a (v - 2 ^ 63 - 2 ^ 32 * field v 32 18)) (.slot slot) a (BitVec.ofNat 14 (field v 32 14)) (fin16 (field v 46 4))
  else homeWrite s a v

/-- JOIN_DECREMENT (R80); a word that no longer translates is left alone (log 23). -/
def execJoinDecrement (ref : WordRef) (slot : SlotN) (s : State) : Host.Outcome State Fault Refusal :=
  match homeOf s ref with
  | .at_ a => .next (joinDown s a slot)
  | .wait es => .next (s.later (es ++ [.joinDecrement ref slot]))
  | .lost => .next s

/-- The checks of FORK and JOIN on a join word at k0 : S(r) (R172, R173). -/
def joinChecks (s : State) (r : SReg) (more : List SReg) : List (Option PRes) :=
  let off := (s.s r).v
  [causeIf ((r :: more).any fun x => (s.s x).p) (trapOf cPoison),
   causeIf (decide (off.toNat % 8 ≠ 0)) ⟨cMisaligned, off, auxOf (s.k 0) none⟩,
   match translated s (s.k 0) off 8 [permA] none with | .stop p => some p | .ok _ => none]
/-- Check 15 of R320 on the word. -/
def joinBreak (s : State) (r : SReg) : Option PRes := breakAt s (s.k 0) (s.s r).v 8 true true none
def joinRef (s : State) (r : SReg) : WordRef := ⟨s.me.space, s.k 0, (s.s r).v⟩

/-- FORK (R75, R172): the task is pushed after the word has counted it. -/
def execFork (h : Hdr) (a b c : SReg) (lvl : BitVec 2) (s : State) : Host.Outcome State Fault Refusal :=
  runPacket h { NF [a, b, c] with noRanger := true } false
    (fun s => ender s h
      (fun s => causes (joinChecks s c [a] ++
        [causeIf (isGuest s.ctl.cur && !runsSpace s s.me.space) (trapOf cHike), joinBreak s c]))
      fun s => .own ((useRegs s [a, b, c]).later [.taskPush ⟨⟨(s.s a).v, s.s b, joinRef s c, lvl, s.core.id⟩, false⟩]) none) s

/-! The task pack (R74, R76, R313). -/

/-- The 32 bytes of a spilled entry. -/
def taskBytes (t : Task) : List Byte :=
  leBytes 8 t.pc.toNat ++ leBytes 8 t.arg.v.toNat ++ leBytes 8 t.join.off.toNat ++ leBytes 2 t.join.reach.toNat ++
    leBytes 1 (t.level.toNat + (if t.arg.p then 128 else 0)) ++ leBytes 1 0 ++ leBytes 2 t.core.toNat ++ leBytes 2 t.join.space.toNat
/-- The entry that 32 bytes hold; a poisoned word poisons its argument. -/
def taskOf (bs : List Byte) (p : Bool) : Task :=
  let f (o n : Nat) : Nat := leNat ((bs.drop o).take n)
  ⟨BitVec.ofNat 64 (f 0 8), ⟨BitVec.ofNat 64 (f 8 8), p || decide (128 ≤ f 26 1)⟩,
    ⟨BitVec.ofNat 16 (f 30 2), BitVec.ofNat 16 (f 24 2), BitVec.ofNat 64 (f 16 8)⟩, BitVec.ofNat 2 (f 26 1), BitVec.ofNat 14 (f 28 2)⟩
/-- Block b of the spill area: reach and offset. -/
def packReach (s : State) : BitVec 16 := s.core.priv.packspill.extractLsb' 0 16
def packOff (s : State) (b : Nat) : Word := ((s.core.priv.packspill >>> 16) <<< 16) + BitVec.ofNat 64 (1024 * b)
/-- The space of the core's launch, in which its pack spills (log 24). -/
def packSpace (s : State) : BitVec 16 := match s.core.launch with | some l => l.sh.info.space | none => portSpace s
/-- Spill Fault of the pack: an event, and the pack is frozen. -/
def packFault (s : State) (off : Word) : State :=
  (s.modPriv fun p => { p with packFrozen := true }).later [.eventEnqueue ⟨cSpill, 15, off, (packReach s).setWidth 64⟩]
/-- The 128 words of a block at their places, unpoisoned. -/
def packMem (m : Memory) (as : List Nat) (bs : List Byte) : Memory :=
  (List.range 128).foldl (fun m k => m.setPois (as.getD (8 * k) 0) false) ((as.zip bs).foldl (fun m x => m.setByte x.1 x.2) m)
/-- The 32 oldest entries leave as block BLOCKS; a walk that waits, or a pad line that is not filled, is no fault. -/
def packSpill (s : State) : State :=
  let b := s.core.priv.packBlocks
  let off := packOff s b
  if s.core.priv.packLimit.toNat ≤ b then packFault s off
  else match devAddrs s (packSpace s) [permW] (vaOf (packReach s) off) 1024 with
    | .ok as =>
      let s1 := { s with mem := packMem s.mem as ((s.core.pack.take 32).flatMap taskBytes) }
      { s1 with core := { s1.core with pack := s1.core.pack.drop 32, priv := { s1.core.priv with packBlocks := b + 1 } } }
    | .miss _ => s
    | .padMiss l => s.later [.padLineFill l]
    | .bad _ _ => packFault s off
/-- The youngest block comes back. -/
def packReadback (s : State) : State :=
  let b := s.core.priv.packBlocks - 1
  let off := packOff s b
  match devAddrs s (packSpace s) [permR] (vaOf (packReach s) off) 1024 with
  | .ok as =>
    let ts := (List.range 32).map fun k =>
      let a := (as.drop (32 * k)).take 32
      taskOf (s.mem.gather a) (s.mem.gatherP a)
    { s with core := { s.core with pack := ts ++ s.core.pack, priv := { s.core.priv with packBlocks := b } } }
  | .miss _ => s
  | .padMiss l => s.later [.padLineFill l]
  | .bad _ _ => packFault s off

/-- PACK_READBACK (R76). -/
def execPackReadback (s : State) : Host.Outcome State Fault Refusal :=
  if s.core.pack = [] ∧ s.core.priv.packBlocks ≠ 0 ∧ ¬ s.core.priv.packFrozen then .next (packReadback s) else .next s
/-- The spill or the read-back that failed is tried again (R313). -/
def packRetry (s : State) : State :=
  if s.core.pack.length = 64 then packSpill s
  else if s.core.pack = [] ∧ s.core.priv.packBlocks ≠ 0 then packReadback s
  else s
/-- PACK_SPILL_RETRY (R313). -/
def execPackSpillRetry (s : State) : Host.Outcome State Fault Refusal :=
  if s.core.priv.packFrozen then .next s else .next (packRetry s)

/-- A push that waits stays first among those on their way. -/
def pushAgain (s : State) (task : Task) (counted : Bool) : State := { s with agenda := .taskPush ⟨task, counted⟩ :: s.agenda }
/-- An entry that its word has counted goes to the bottom of the pack; the pack being full, its oldest half leaves first, and
while it is frozen the push waits (R76). -/
def pushTask (s : State) (task : Task) : State :=
  if s.core.priv.packFrozen then pushAgain s task true
  else if s.core.pack.length ≥ 64 then pushAgain (packSpill s) task true
  else { s with core := { s.core with pack := s.core.pack ++ [task] } }
/-- TASK_PUSH (R75, R76): COUNT goes up at the word's home, then the entry is pushed. A word that no longer translates counts
nothing, and the entry waits until it does: DESIGN CHOICE (log 23). -/
def execTaskPush (push : Pushed) (s : State) : Host.Outcome State Fault Refusal :=
  if push.counted then .next (pushTask s push.task)
  else match homeOf s push.task.join with
    | .wait es => .next (pushAgain (s.later es) push.task false)
    | .lost => .next (s.later [.taskPush push])
    | .at_ a =>
      let w := s.mem.nat a 8
      .next (pushTask (homeWrite s a (setCount w (joinCount w + 1))) push.task)
/-- Is a FORK's add to a word still on its way to the word's home (R75)? -/
def adding (s : State) (r : WordRef) : Bool :=
  s.agenda.any fun e => match e with | .taskPush p => !p.counted && decide (p.task.join = r) | _ => false

/-! JOIN. -/

/-- JOIN (R81, R173): the first read at home, behind the adds of the FORKs before it (R75); a count that is not zero parks the
slot. -/
def execJoin (h : Hdr) (a : SReg) (s : State) : Host.Outcome State Fault Refusal :=
  runPacket h { NF [a] with noRanger := true } false
    (fun s => ender s h (fun s => causes (joinChecks s a [] ++ [joinBreak s a]))
      fun s => match translated s (s.k 0) (s.s a).v 8 [permA] none with
        | .stop p => p
        | .ok as =>
          if adding s (joinRef s a) then .hold (passTurn s)
          else
          let n := joinCount (s.mem.nat (as.headD 0) 8)
          let s1 := useRegs s [a]
          .own (if n = 0 then s1 else s1.modMe fun t => { t with park := some (.join (joinRef s a) 1) }) none) s

/-- May a waiting thread be saved to the bedroll area: a resident one, no index thread of a PERSIST launch (R95), one that an image
can hold (log 82)? -/
def mayLeave (s : State) (i : SlotN) : Bool := isResident i && (persists s (s.th i)).isNone && savable (s.th i)
/-- JOIN_RETRY (R81): the next home read; the one with n = 16 marks the word and saves the thread where a run of frames is
free, in the same step. A word that no longer translates keeps the thread polling: DESIGN CHOICE (log 23). -/
def execJoinRetry (slot : SlotN) (s : State) : Host.Outcome State Fault Refusal :=
  match (s.th slot).park with
  | some (.join ref n) =>
    let again (s : State) : State := s.modTh slot fun t => { t with park := some (.join ref (min 16 (n + 1))) }
    match homeOf s ref with
    | .wait es => .next (s.later es)
    | .lost => .next (again s)
    | .at_ a =>
      let w := s.mem.nat a 8
      let k := framesFor (s.allot slot)
      if joinCount w = 0 then .next (s.modTh slot fun t => { t with park := none })
      else if n < 16 then .next (again s)
      else match freeRun s k with
        | none => .next s
        | some f =>
          if joinWaited w ∨ ¬ mayLeave s slot then .next s
          else .next (saveThread (homeWrite s a (w % 2 ^ 32 + joinWaiter s.core.id slot)) slot (frameLines s f k) (some f) false false)
  | _ => .next s

/-! Barriers. -/

def barOf (s : State) (c : BarN) : Barrier := s.cl.bars.get (fin16 c.toNat)
def setBar (s : State) (c : BarN) (b : Barrier) : State := { s with cl := { s.cl with bars := s.cl.bars.set (fin16 c.toNat) b } }
def isBarc (c : BarN) : Park → Bool
  | .barc d _ k => decide (d = c) && k
  | _ => false

/-- BARC (R93, R177). -/
def execBarc (h : Hdr) (d : BarN) (a : SReg) (s : State) : Host.Outcome State Fault Refusal :=
  runPacket h { NF [a] with noGuest := true, noRanger := true } false
    (fun s => ender s h
      (fun s => causes [
        causeIf (s.s a).p (trapOf cPoison),
        causeIf (decide ((s.s a).v.toNat = 0) || decide (128 < (s.s a).v.toNat)) (trapOf cIllegal),
        causeIf (match (barOf s d).armed with | some n => decide (n ≠ (s.s a).v.toNat) | none => false) (trapOf cLaunch)])
      fun s =>
        let n := (s.s a).v.toNat
        .own (((useRegs s [a]).modMe fun t => { t with park := some (.barc d n false) }).later
          [.barrierArrival ⟨s.core.id, s.ctl.cur⟩ d n]) none) s

/-- The parked thread of an arrival counts from now on, whether it still stands in its slot or in an image. -/
def countWaiter (s : State) (who : Waiter) (c : BarN) : State :=
  let mark (p : Option Park) : Option Park := match p with
    | some (.barc d n false) => if d = c then some (.barc d n true) else p
    | _ => p
  if who.core ≠ s.core.id then { s with cl := { s.cl with barWait := s.cl.barWait ++ [(c, who)] } }
  else if (s.slot who.slot).occ && decide (mark (s.th who.slot).park ≠ (s.th who.slot).park) then
    s.modTh who.slot fun t => { t with park := mark t.park }
  else { s with core := { s.core with images := s.core.images.map fun m =>
    if m.slot = who.slot then { m with th := { m.th with park := mark m.th.park } } else m } }
/-- A generation of counter c is complete: every waiter wakes (R93). -/
def barWake (s : State) (c : BarN) : State :=
  let far := s.cl.barWait.filter fun x => decide (x.1 = c)
  let s1 := wakeParked (isBarc c) (setBar s c ⟨none, 0⟩)
  { s1 with
    cl := { s1.cl with barWait := s1.cl.barWait.filter fun x => decide (x.1 ≠ c) }
    out := s1.out ++ far.map fun x => .barrierWake c x.2 }
/-- The Launch Fault of a late mismatch (R93): the thread that waits at this BARC takes it there; a thread of another core is told, by
a message that the spec does not name: DESIGN CHOICE (log 83). -/
def barFault (s : State) (who : Waiter) (c : BarN) : State :=
  if who.core ≠ s.core.id then s.send (.barrierFault c who)
  else match (s.slot who.slot).occ, (s.th who.slot).park with
    | true, some (.barc d _ false) =>
      if d = c then s.modTh who.slot fun t => { t with park := none, late := some (trapOf cLaunch, t.from_) } else s
    | _, _ => s
/-- BARRIER_ARRIVAL (R93): counted, or a Launch Fault at the BARC where the count differs from the armed one. -/
def execBarrierArrival (who : Waiter) (ctr : BarN) (count : Nat) (s : State) : Host.Outcome State Fault Refusal :=
  let b := barOf s ctr
  if b.armed.any (· ≠ count) then .next (barFault s who ctr)
  else
    let s1 := countWaiter (setBar s ctr ⟨some count, b.arrived + 1⟩) who ctr
    .next (if count ≤ b.arrived + 1 then barWake s1 ctr else s1)

/-- BARG (R94, R177). -/
def execBarg (h : Hdr) (s : State) : Host.Outcome State Fault Refusal :=
  runPacket h { Names.empty with noGuest := true, noRanger := true, far := .scalar } false
    (fun s => ender s h
      (fun s => causes [causeIf (match s.core.launch with | some l => !l.sh.info.flags.getLsbD 0 | none => true) (trapOf cLaunch)])
      fun s => .own ((s.modMe fun t => { t with park := some (.barg (openBarg s)) }).later
          [.bargArrival (some s.ctl.cur) (if s.me.kind = .index then 1 else 0)]) none) s
/-- BARG_ARRIVAL (R94): arrivals of this core, or of others, join the count of the open generation. -/
def execBargArrival (who : Option SlotN) (n : Nat) (s : State) : Host.Outcome State Fault Refusal :=
  match s.core.launch with
  | none => .next s
  | some l => .next (bargArrive s l.sh.info.seq who n)

end Sys2Proof.Machine
end

