-- ==== Sys2Proof/Machine/Hikers.lean ====
section
/-! DEFINITION. Hikers and guests (R67 to R69, R83 to R88, R174 to R176, R325, R378): HIKE, POST, SETTLE, arrivals, and the
start of a guest. -/
namespace Sys2Proof.Machine

/-! Where a hiker goes (R8, R13, R14, R83). -/

def dieOf (a : Nat) : Nat := a % 2 ^ 40 / 0x3000000000
/-- The home slice within its die (R13). -/
def sliceOf (a : Nat) : Nat := (field a 6 6) ^^^ (field a 12 6) ^^^ (field a 18 6)
/-- Is site k of the package in the partition (R342; log 4)? -/
def siteIn (s : State) (k : Nat) : Bool :=
  match s.part.cfg with
  | none => decide (k = s.core.id.toNat / 512)
  | some c => c.sites.getLsbD k
/-- The core beside a home, none where the partition has no site on the home die. -/
def besideHome (s : State) (a : Nat) : Option CoreId :=
  let d := dieOf a
  let n := sliceOf a
  let col := n % 32
  let top := decide (n < 32)
  let cand := (List.range 8).filter fun k => siteIn s (8 * d + k)
  let near := cand.filter fun k => k % 4 = col / 8
  let site := (near.find? fun k => decide (k < 4) = top).or (near.head?.or cand.head?)
  site.map fun k => BitVec.ofNat 14 (4096 * d + 512 * k + 8 * ((if top then 0 else 56) + col % 8) + n % 8)

/-- Hike Refused, naming a destination or none (R318). -/
def refused (dest : Option CoreId) : PRes := .trap ⟨cHike, match dest with | some d => d.setWidth 64 | none => 0, 0⟩
/-- The destination of HIKE and POST, or how the packet ends. -/
inductive Dest where
  | ok (c : CoreId) (s : State)
  | stop (r : PRes)

/-- The destination that an address chooses: its core, none that the rule names (a pad word; log 25), or a home that refuses. -/
inductive Chosen where
  | core (c : CoreId)
  | ownCluster
  | refused
def chosenBy (s : State) (pa : Nat) : Chosen :=
  if isPad pa then .ownCluster
  else if isHost pa || isRemote s pa then .refused
  else match besideHome s pa with
    | none => .refused
    | some c => .core c
/-- S(a) as a CORE value or as an address in k0, with the refusals of R83 that its destination meets; `more` are the refusals
of the instruction that come after the translation. The address counts as a load and a store of one byte for a data breakpoint,
which is looked for after every refusal (R320): DESIGN CHOICE (log 61). -/
def destOf (s : State) (a : SReg) (core : Bool) (more : Bool) : Dest :=
  let v := (s.s a).v
  if core then
    let c := v.extractLsb' 0 14
    if v.extractLsb' 14 50 ≠ 0 ∨ ¬ inPartition s c then .stop (refused (if v.extractLsb' 14 50 = 0 then some c else none))
    else if more then .stop (refused (some c)) else .ok c s
  else match translated s (s.k 0) v 1 [] none with
    | .stop r => .stop r
    | .ok as =>
      let go (c : CoreId) (s1 : State) : Dest := match breakAt s (s.k 0) v 1 true true none with
        | some r => .stop r
        | none => .ok c s1
      match chosenBy s (as.headD 0) with
      | .refused => .stop (refused none)
      | .core c => if more then .stop (refused (some c)) else go c s
      | .ownCluster =>
        let f := s.fresh
        if more then .stop (refused none) else go (s.core.id.extractLsb' 3 11 ++ f.1.extractLsb' 0 3) f.2

/-- Is the thread a reply-class guest (R87)? -/
def replyGuest (t : Thread) : Bool := match t.kind with | .guest _ r => r | _ => false
/-- A bound stream keeps a thread from hiking and from posting (R83, R85). -/
def streamBound (s : State) : Bool := s.me.binds.items.any fun b => decide (b.kind ≠ .unbound)
/-- What keeps a thread from hiking: its class, a bound stream, a resident thread's window (R83). -/
def cannotHike (s : State) : Bool :=
  let w := s.me.regs.win
  replyGuest s.me || streamBound s || (isResident s.ctl.cur && (decide (w.depth ≠ 1) || decide (8 < w.size.toNat)))

/-! The context of a hiker (R67). -/

/-- Register s(j + 1) of the thread, zero where the name is not valid. -/
def carried (s : State) (j : Nat) : SVal :=
  let r : SReg := BitVec.ofNat 5 (j + 1)
  if nameOk s s.ctl.cur r then s.s r else ⟨0, false⟩
/-- The hiker of a HIKE (R84). -/
def hikeContext (s : State) (dest : CoreId) : Hiker :=
  let t := s.me
  let q (f : QCell → Bool) : BitVec 8 := BitVec.ofNat 8 (maskOf [1, 2, 3, 4, 5, 6, 7] fun k => f (t.regs.q.get (fin8 k)))
  ⟨s.next, ⟨(List.range 15).map (carried s), by simp⟩, t.regs.k, q fun c => c.m.getLsbD 0, q fun c => c.p, t.space, t.creach,
    dest, false, true, s.core.id, none⟩
/-- The hiker of a POST (R85). -/
def postContext (s : State) (b c : SReg) (n : Nat) (dest : CoreId) (reply : Bool) : Hiker :=
  let t := s.me
  ⟨(s.s b).v, ⟨(List.range 15).map fun j => if j < n then s.s (c + BitVec.ofNat 5 j) else ⟨0, false⟩, by simp⟩, t.regs.k, 0, 0,
    t.space, t.creach, dest, reply, false, s.core.id, none⟩
/-- The 192 bytes of a hiker's context (R67). -/
def hikerBytes (k : Hiker) : List Byte :=
  let s (j : Nat) : SVal := k.s.items.getD j ⟨0, false⟩
  leBytes 8 k.pc.toNat ++ (List.range 15).flatMap (fun j => leBytes 8 (s j).v.toNat) ++ k.k.items.flatMap (fun x => leBytes 2 x.toNat) ++
    [k.q &&& 0xFE, k.qp &&& 0xFE] ++ leBytes 2 (maskOf (List.range 15) (fun j => (s j).p) * 2) ++ leBytes 2 k.space.toNat ++
    leBytes 2 k.dest.toNat ++ leBytes 1 (bit k.reply 0 + bit k.hiked 1) ++ List.replicate 47 0
/-- Is a reserved byte of a context, or a reserved bit of bytes 136 to 144, not zero (R67)? -/
def hikerResv (bs : List Byte) : Bool :=
  let b (k : Nat) : Nat := (bs.getD k 0).toNat
  decide (b 136 % 2 ≠ 0) || decide (b 137 % 2 ≠ 0) || decide (b 138 % 2 ≠ 0) || decide (4 ≤ b 144) ||
    (List.range 47).any fun j => decide (b (145 + j) ≠ 0)
/-- Every register poisoned (R67, R378). -/
def poisonAll (k : Hiker) : Hiker := { k with s := k.s.map fun v => { v with p := true }, qp := 0xFE }
/-- The hiker that an arriving message holds (R67). -/
def hikerOf (m : HikerMsg) : Hiker :=
  let f (o n : Nat) : Nat := leNat ((m.bytes.drop o).take n)
  let k : Hiker := ⟨BitVec.ofNat 64 (f 0 8),
    ⟨(List.range 15).map fun j => ⟨BitVec.ofNat 64 (f (8 + 8 * j) 8), (f 138 2).testBit (j + 1)⟩, by simp⟩,
    ⟨(List.range 4).map fun j => BitVec.ofNat 16 (f (128 + 2 * j) 2), by simp⟩,
    BitVec.ofNat 8 (f 136 1), BitVec.ofNat 8 (f 137 1), BitVec.ofNat 16 (f 140 2), m.creach, BitVec.ofNat 14 (f 142 2),
    (f 144 1).testBit 0, (f 144 1).testBit 1, m.src, m.mark⟩
  if hikerResv m.bytes then poisonAll k else k
def hikerMsg (k : Hiker) : HikerMsg := ⟨hikerBytes k, k.creach, k.src, k.mark⟩
/-- A hiker leaves (R90). -/
def launchHiker (s : State) (k : Hiker) : State :=
  if k.dest = s.core.id then s.later [.hikerArrival (hikerMsg k)] else s.send (.hiker (hikerMsg k))

/-- HIKE (R83, R84, R174). -/
def execHike (h : Hdr) (a : SReg) (m : Bool) (s : State) : Host.Outcome State Fault Refusal :=
  runPacket h { NF [a] with noRanger := true } false
    (fun s => farGuard s h fun s =>
      if (s.s a).p then .trap (trapOf cPoison)
      else match destOf s a m (cannotHike s) with
        | .stop r => r
        | .ok dest s1 => commitWait s1 fun s =>
          if s.me.far ≠ [] then .replay s (.owed false)
          else if dest = s.core.id then .own (useRegs s [a]) none
          else withCredit s dest false fun s =>
            .gone (release (launchHiker s (hikeContext s dest)) s.ctl.cur)) s

/-- POST (R85, R175). -/
def execPost (h : Hdr) (a b c : SReg) (n : BitVec 4) (core reply : Bool) (s : State) : Host.Outcome State Fault Refusal :=
  runPacket h (NF ([a, b] ++ (if payloadOk s c n.toNat then payload c n.toNat else []))) false
    (fun s => farGuard s h fun s =>
      if !payloadOk s c n.toNat then .trap (trapOf cIllegal)
      else if (s.s a).p || (s.s b).p then .trap (trapOf cPoison)
      else if replyGuest s.me then refused none
      else match destOf s a core (streamBound s) with
        | .stop r => r
        | .ok dest s1 => commitWait s1 fun s => withCredit s dest reply fun s =>
          .own (launchHiker (useRegs s ([a, b] ++ payload c n.toNat)) (postContext s b c n.toNat dest reply)) none) s

/-- SETTLE (R88, R176). -/
def execSettle (h : Hdr) (s : State) : Host.Outcome State Fault Refusal :=
  runPacket h { Names.empty with noRanger := true, far := .scalar } false
    (fun s => ender s h
      (fun s => causes [
        causeIf (isResident s.ctl.cur) (trapOf cIllegal),
        if replyGuest s.me || !runsSpace s s.me.space then some (refused none) else none])
      fun s => .own (s.modMe fun t => { t with park := some .settle }) none) s

/-! Arrivals. -/

/-- The error hiker that a sealed core returns (R378). -/
def errorHiker (s : State) (k : Hiker) : Hiker :=
  { poisonAll k with dest := k.src, reply := true, hiked := false, src := s.core.id, mark := none }
/-- The promise that an arrival uses up. -/
def usePromise (s : State) (k : Hiker) : State :=
  let t := ticketsOf s k.reply
  setTickets s k.reply { t with promised := t.promised.erase k.src }
def sendBack (s : State) (k : Hiker) : State :=
  if k.src = s.core.id then s else s.send (.hiker (hikerMsg (errorHiker s k)))

/-- SEALED_ARRIVAL (R378). -/
def execSealedArrival (hk : HikerMsg) (s : State) : Host.Outcome State Fault Refusal :=
  let k := hikerOf hk
  .next (sendBack (usePromise s k) k)
/-- HIKER_ARRIVAL (R67, R86, R90): an entry is held; a sealed core sends the hiker back. -/
def execHikerArrival (hk : HikerMsg) (s : State) : Host.Outcome State Fault Refusal :=
  let k := hikerOf hk
  let s1 := usePromise s k
  if s.core.sealed then .next (sendBack s1 k)
  else
    .next { s1 with core := { s1.core with arrivals := s1.core.arrivals ++ [⟨s1.core.nextArr, k, false⟩], nextArr := s1.core.nextArr + 1 } }
/-- POISONED_TAIL (R325): the message is discarded, its entry free; an event names the sender. -/
def execPoisonedTail (src : CoreId) (reply : Bool) (s : State) : Host.Outcome State Fault Refusal :=
  let t := ticketsOf s reply
  .next ((keepEntries (setTickets s reply { t with promised := t.promised.erase src })).later
    [.eventEnqueue ⟨cPoison, 15, src.setWidth 64, 0⟩])

/-- The registers of a guest (R68). -/
def guestRegs (k : Hiker) : RegFile :=
  let v (j : Nat) : SCell := globalCell (k.s.items.getD j ⟨0, false⟩)
  { RegFile.zero with
    g := ⟨[.zero, v 0, v 1, v 2, v 3, v 4, v 5, v 6], rfl⟩
    w := ⟨(List.range 64).map fun j => if j < 8 then v (7 + j) else .zero, by simp⟩
    q := ⟨(List.range 8).map fun j =>
      if j = 0 then .zero else ⟨if k.q.getLsbD j then 1 else 0, k.qp.getLsbD j, false, 0⟩, by simp⟩
    k := k.k }
/-- Has a hiker brought a poisoned value (R64, R378; log 26)? -/
def bringsPoison (k : Hiker) : Bool := k.s.items.any (·.p) || decide (k.qp ≠ 0)

/-- The entry that an empty guest slot takes (R86). -/
def nextArrival (s : State) : Option Arrival :=
  (s.core.arrivals.find? fun a => !a.running && a.hk.reply).or (s.core.arrivals.find? fun a => !a.running)
/-- Is a guest slot empty and free to start? -/
def guestFree (s : State) (i : SlotN) : Bool :=
  isGuest i && !(s.slot i).occ && !(s.slot i).stop && !(s.slot i).stopped && !s.core.halted && !s.core.contained &&
    decide ((s.th i).pend = []) && decide ((s.th i).sent = [])
/-- GUEST_START (R68, R86). -/
def execGuestStart (slot : SlotN) (s : State) : Host.Outcome State Fault Refusal :=
  match nextArrival s with
  | none => .next s
  | some a =>
    if !guestFree s slot then .next s
    else
      let k := a.hk
      let t := Thread.start (.guest a.id k.reply) k.pc k.space k.creach (guestRegs k) 0
      let s1 := { s with core := { s.core with arrivals := s.core.arrivals.map fun x => if x.id = a.id then { x with running := true } else x } }
      .next (occupy s1 slot { t with origin := k.src, check := if bringsPoison k then CheckUpd.apply 0 .loaded else 0 })

end Sys2Proof.Machine
end

