-- ==== Sys2Proof/Machine/ScalarFp.lean ====
section
/-! DEFINITION. Group 2, scalar floating point (R196 to R208). -/
namespace Sys2Proof.Machine

/-- The format of a scalar float type. -/
def FTy.fmt (t : FTy) : FFmt := match t with | .f32 => fmtF32 | .f64 => fmtF64 | .f16 => fmtF16 | .bf16 => fmtBF16
/-- The operand of a type in a register (R196). -/
def fpArg (t : FTy) (v : Word) : Nat := v.toNat % 2 ^ (FTy.fmt t).width
def fpVal (t : FTy) (v : Word) : FVal := (FTy.fmt t).decode (fpArg t v)

/-- A near scalar FP packet that rounds once (R138: one step). -/
def runFp (h : Hdr) (d : SReg) (srcs : List SReg) (rm : Rm) (f : State → RMode → Nat → FRes) (s : State) :
    Host.Outcome State Fault Refusal :=
  runPacket h ⟨srcs, [d], [], [], [], false, false, .near⟩ false
    (fun s =>
      let mode := effMode s rm
      let r := f s mode (draw1 s h mode)
      finFp s h d srcs mode 1 ⟨BitVec.ofNat 64 r.bits, srcs.any fun x => (s.s x).p⟩ r.fl) s
/-- A near scalar FP packet that does not round. -/
def runFpExact (h : Hdr) (d : SReg) (srcs : List SReg) (f : State → FRes) (s : State) : Host.Outcome State Fault Refusal :=
  runPacket h ⟨srcs, [d], [], [], [], false, false, .near⟩ false
    (fun s =>
      let r := f s
      finFp s h d srcs .rne 0 ⟨BitVec.ofNat 64 r.bits, srcs.any fun x => (s.s x).p⟩ r.fl) s
/-- A far scalar FP packet (R200). -/
def runFarFp (h : Hdr) (d : SReg) (srcs : List SReg) (rm : Rm) (f : State → RMode → Nat → FRes) (i : Instr) (s : State) :
    Host.Outcome State Fault Refusal :=
  runPacket h ⟨srcs, [d], [], [], [], false, false, .scalar⟩ false
    (fun s =>
      let mode := effMode s rm
      let r := f s mode (draw1 s h mode)
      let p := srcs.any fun x => (s.s x).p
      finFarS s h d srcs mode 1 ⟨BitVec.ofNat 64 r.bits, p⟩ (if p then 0 else r.fl) i) s

/-- FADD (R202). -/
def execFadd (h : Hdr) (d a b : SReg) (t : FTy) (rm : Rm) (s : State) : Host.Outcome State Fault Refusal :=
  runFp h d [a, b] rm (fun s m r => fAdd (FTy.fmt t) m r (fpVal t (s.s a).v) (fpVal t (s.s b).v)) s
/-- FSUB (R202). -/
def execFsub (h : Hdr) (d a b : SReg) (t : FTy) (rm : Rm) (s : State) : Host.Outcome State Fault Refusal :=
  runFp h d [a, b] rm (fun s m r => fAdd (FTy.fmt t) m r (fpVal t (s.s a).v) (fpVal t (s.s b).v).negate) s
/-- FMUL (R202). -/
def execFmul (h : Hdr) (d a b : SReg) (t : FTy) (rm : Rm) (s : State) : Host.Outcome State Fault Refusal :=
  runFp h d [a, b] rm (fun s m r => fMul (FTy.fmt t) m .arith r (fpVal t (s.s a).v) (fpVal t (s.s b).v)) s
/-- FFMA (R202). -/
def execFfma (h : Hdr) (d a b c : SReg) (t : FTy) (rm : Rm) (s : State) : Host.Outcome State Fault Refusal :=
  runFp h d [a, b, c] rm
    (fun s m r => fFma (FTy.fmt t) m r (fpVal t (s.s a).v) (fpVal t (s.s b).v) (fpVal t (s.s c).v)) s
/-- FDIV (R202). -/
def execFdiv (h : Hdr) (d a b : SReg) (t : FTy) (rm : Rm) (s : State) : Host.Outcome State Fault Refusal :=
  runFarFp h d [a, b] rm (fun s m r => fDiv (FTy.fmt t) m r (fpVal t (s.s a).v) (fpVal t (s.s b).v)) (.fdiv h d a b t rm) s
/-- FSQRT (R202). -/
def execFsqrt (h : Hdr) (d a : SReg) (t : FTy) (rm : Rm) (s : State) : Host.Outcome State Fault Refusal :=
  runFarFp h d [a] rm (fun s m r => fSqrt (FTy.fmt t) m r (fpVal t (s.s a).v)) (.fsqrt h d a t rm) s
/-- FMIN (R203). -/
def execFmin (h : Hdr) (d a b : SReg) (t : FTy) (s : State) : Host.Outcome State Fault Refusal :=
  runFpExact h d [a, b] (fun s => fMinMax (FTy.fmt t) false (fpArg t (s.s a).v) (fpArg t (s.s b).v)) s
/-- FMAX (R203). -/
def execFmax (h : Hdr) (d a b : SReg) (t : FTy) (s : State) : Host.Outcome State Fault Refusal :=
  runFpExact h d [a, b] (fun s => fMinMax (FTy.fmt t) true (fpArg t (s.s a).v) (fpArg t (s.s b).v)) s
/-- FSGN (R204): `.abs` does not read B. -/
def execFsgn (h : Hdr) (d a b : SReg) (t : FTy) (op : SignOp) (s : State) : Host.Outcome State Fault Refusal :=
  runFpExact h d (if op = .abs then [a] else [a, b])
    (fun s => ⟨fSgn (FTy.fmt t) op (fpArg t (s.s a).v) (fpArg t (s.s b).v), 0⟩) s

/-- The float format of a conversion type; the width and signedness of an integer one (R205). -/
def CvtTy.fmt (t : CvtTy) : Option FFmt :=
  match t with
  | .f32 => some fmtF32 | .f64 => some fmtF64 | .f16 => some fmtF16 | .bf16 => some fmtBF16 | .e4m3 => some fmtE4M3
  | .e5m2 => some fmtE5M2 | _ => none
def CvtTy.intWidth (t : CvtTy) : Nat := match t with | .i32 => 32 | .n32 => 32 | _ => 64
def CvtTy.intSigned (t : CvtTy) : Bool := match t with | .i32 => true | .i64 => true | _ => false
/-- FCVT's result bits in the destination register (R196, R205, R139, R141). -/
def fcvt (dt sty : CvtTy) (inf : Bool) (mode : RMode) (rnd : Nat) (v : Word) : Word × Flags :=
  match CvtTy.fmt dt, CvtTy.fmt sty with
  | some D, some S =>
    let r := fToF D mode (if inf || D.holds S then .arith else .saturate) rnd (S.decode v.toNat)
    (BitVec.ofNat 64 r.bits, r.fl)
  | some D, none =>
    let r := iToF D mode (if inf then .arith else .saturate) rnd (codeInt (CvtTy.intSigned sty) (CvtTy.intWidth sty) v.toNat)
    (BitVec.ofNat 64 r.bits, r.fl)
  | none, some S =>
    let r := fToI (CvtTy.intSigned dt) (CvtTy.intWidth dt) mode rnd (S.decode v.toNat)
    (BitVec.ofInt 64 (codeInt (CvtTy.intSigned dt) (CvtTy.intWidth dt) r.bits), r.fl)
  | none, none => (v, 0)
/-- FCVT (R205). -/
def execFcvt (h : Hdr) (d a : SReg) (dt sty : CvtTy) (rm : Rm) (inf : Bool) (s : State) : Host.Outcome State Fault Refusal :=
  runFp h d [a] rm (fun s m r => let x := fcvt dt sty inf m r (s.s a).v; ⟨x.1.toNat, x.2⟩) s
/-- FRND (R206). -/
def execFrnd (h : Hdr) (d a : SReg) (t : FTy) (rm : Rm) (s : State) : Host.Outcome State Fault Refusal :=
  runFp h d [a] rm (fun s m r => fRnd (FTy.fmt t) m r (fpArg t (s.s a).v)) s
/-- FCLS (R207). -/
def execFcls (h : Hdr) (d a : SReg) (t : FTy) (s : State) : Host.Outcome State Fault Refusal :=
  runFpExact h d [a] (fun s => ⟨fCls (FTy.fmt t) (fpArg t (s.s a).v), 0⟩) s
/-- FXF (R208). -/
def execFxf (h : Hdr) (d a : SReg) (t : FTy) (rm : Rm) (fn : Fun) (s : State) : Host.Outcome State Fault Refusal :=
  runFarFp h d [a] rm (fun s m r => fXf (FTy.fmt t) fn m r (fpArg t (s.s a).v)) (.fxf h d a t rm fn) s

end Sys2Proof.Machine
end

