-- ==== Sys2Proof/Machine/Progress.lean ====
section
/-! DEFINITION. Steps of the pipe, of chunks, of homes: far arrivals (R36 to R38), the crown and the kill (R32, R45), line fills
(R113), commits and solo grants (R295, R298), singletons that wait (R237, R280, R285), stores that leave (R283, R286). -/
namespace Sys2Proof.Machine

/-! FAR_ARRIVAL. -/

/-- A scalar cell that its far value reaches. -/
def landCell (seq : BitVec 8) (x : SVal) (tag : Tag) (c : SCell) : SCell :=
  if c.far ∧ c.wseq = seq then { c with val := x.v, p := x.p, far := false, tag := if x.p then none else tag } else c
/-- Registers that a value reaches; a tag lives in its own chunk alone (R291). -/
def landRegs (e : FarEntry) (v : FarVal) (own : Bool) (f : RegFile) : RegFile :=
  match v with
  | .scalar x tag =>
    let g := landCell e.seq x (if own then tag else none)
    { f with g := f.g.map g, w := f.w.map g }
  | _ => f
/-- The flags that travel with a value, recorded where its packet is older (R198). -/
def landFlags (e : FarEntry) (on : Bool) (f : RegFile) : RegFile := if on then { f with fpflags := f.fpflags ||| e.fl } else f
/-- A vector saved for a squash (R38). -/
def landSave (e : FarEntry) (x : VVal) (vs : List (VNum × VReg)) : List (VNum × VReg) :=
  vs.map fun y => if e.dest.vec? = some y.1 ∧ y.2.wseq = e.seq then (y.1, { y.2 with v := x }) else y
/-- A checkpoint that the value reaches; `own` says whether the chunk before it is the entry's. -/
def landChunk (e : FarEntry) (v : FarVal) (own : Bool) (c : Chunk) : Chunk :=
  { c with
    ckpt := landFlags e (decide (e.chunk < c.no)) (landRegs e v own c.ckpt)
    vsave := match v with | .vec x => landSave e x c.vsave | _ => c.vsave }
/-- The chunks of a thread in order, each told whether the one before it is the entry's. -/
def landChunks (e : FarEntry) (v : FarVal) : Bool → List Chunk → List Chunk
  | _, [] => []
  | prev, c :: cs => landChunk e v prev c :: landChunks e v (decide (c.no = e.chunk)) cs
/-- The sealed planes that stand behind the seal entries on their way; `past` says that the entry's own seal lies before (R36). -/
def landSeals (e : FarEntry) (v : FarVal) : Bool → List Seal → List Seal
  | _, [] => []
  | past, x :: xs =>
    { x with before := landFlags e past (landRegs e v (decide (x.chunk = e.chunk)) x.before) } ::
      landSeals e v (past || decide (x.seq = e.seq)) xs
/-- The entry with a number. -/
def farEntry (t : Thread) (seq : BitVec 8) : Option FarEntry := t.far.find? fun e => decide (e.seq = seq)
/-- Does the seal entry of a far packet still stand in flight (R36)? -/
def awaitsSeal (t : Thread) (e : FarEntry) : Bool := t.flight.any fun x => decide (x.seq = e.seq)

/-- The value of an entry lands in the planes of registers (R36, R37, R198); the entry is freed, or held until its seal entry. -/
def landThread (t : Thread) (e : FarEntry) (v : FarVal) : Thread :=
  let lastOwn := match t.ended.getLast? with | some c => decide (c.no = e.chunk) | none => false
  let waits := awaitsSeal t e
  let far := t.far.filter fun x => decide (x.seq ≠ e.seq)
  { t with
    regs := landFlags e true (landRegs e v (decide (t.cur.no = e.chunk)) t.regs)
    ended := landChunks e v false t.ended
    cur := landChunk e v lastOwn t.cur
    flight := landSeals e v (!waits) t.flight
    far := far
    landed := if waits then t.landed ++ [e] else t.landed
    camp := t.camp && decide (far ≠ []) }
/-- The value of an entry lands; a vector's goes to the pool once its seal entry has been applied, where the register's sealed
writer is still its packet (R38). -/
def land (s : State) (i : SlotN) (e : FarEntry) (v : FarVal) : State :=
  match v, e.dest.vec? with
  | .vec x, some d =>
    if awaitsSeal (s.th i) e then s
    else
      let s1 := s.setTh i (landThread (s.th i) e v)
      let old := s1.core.pool.get (s1.vent i d)
      if old.wseq = e.seq then s1.putV i d { old with v := x } else s1
  | _, _ => s.setTh i (landThread (s.th i) e v)
/-- Does a slot run a thread of a PAIRED launch, whose chunks the comparator sees first (R383)? -/
def paired (s : State) (i : SlotN) : Bool :=
  isResident i && (match s.core.launch with | some l => l.sh.info.flags.getLsbD 1 | none => false)
/-- What reaches a leader goes to its trailer too, through a queue of 64 (R382); the trailer takes entries in time (log 38). -/
def passOn (s : State) (i : SlotN) (v : FarVal) : State :=
  if paired s i then { s with core := { s.core with lvq := (s.core.lvq ++ [v]).drop (s.core.lvq.length + 1 - 64) } } else s
/-- The packet that waits for its value is decided (R28, R167, R200): JTAB, and far floating point under a trap enable. -/
def rerun (s : State) : Instr → Host.Outcome State Fault Refusal
  | .jtab h a b x => execJtab h a b x s
  | .fdiv h d a b t rm => execFdiv h d a b t rm s
  | .fsqrt h d a t rm => execFsqrt h d a t rm s
  | .fxf h d a t rm fn => execFxf h d a t rm fn s
  | .vdiv h d a b t rm sb => execVdiv h d a b t rm sb s
  | .vxf h d a t rm fn => execVxf h d a t rm fn s
  | _ => .next s
/-- The state in which the waiting packet of slot i has its value in hand: its entry is free. -/
def valueCame (s : State) (i : SlotN) (n : Nat) : State :=
  let s1 := s.modTh i fun t => { t with
    await := none, far := t.far.filter fun e => decide (e.seq ≠ t.seq), park := if t.park = some Park.value then none else t.park }
  { s1 with ctl := ⟨i, n, [], s.ctl.free, true, false, false⟩ }
def notCame (s : State) : State := { s with ctl := { s.ctl with came := false } }
/-- The packet in slot i that waits for its value goes on. -/
def goOn (s : State) (i : SlotN) (ins : Instr) (n : Nat) : Host.Outcome State Fault Refusal :=
  match rerun (valueCame s i n) ins with
  | .next s1 => .next (notCame s1)
  | r => r
/-- FAR_ARRIVAL (R31, R36). -/
def execFarArrival (slot : SlotN) (seq : BitVec 8) (s : State) : Host.Outcome State Fault Refusal :=
  match farEntry (s.th slot) seq with
  | none => .next s
  | some e => match e.value with
    | none => .next s
    | some v => match (s.th slot).await with
      | some (ins, n) => if seq = (s.th slot).seq then goOn s slot ins n else .next (passOn (land s slot e v) slot v)
      | none => .next (passOn (land s slot e v) slot v)

/-! The crown, the kill, replays. -/

/-- CROWN_TRAP (R45, R93, R178): a fault found after its packet was accepted is taken at that packet. -/
def execCrownTrap (slot : SlotN) (s : State) : Host.Outcome State Fault Refusal :=
  match (s.th slot).late with
  | none => .next s
  | some (t, pc) => .next (takeTrap (s.modTh slot fun x => { x with pc := pc, cur := { x.cur with pc := pc } }) slot t)
/-- KILL_APPLY (R45, R46). -/
def execKillApply (slot : SlotN) (s : State) : Host.Outcome State Fault Refusal :=
  .next (if (s.slot slot).occ then killFoot s slot else s)
/-- CROWN_REPLAY (R32): the packet is killed, its slot parked. -/
def execCrownReplay (slot : SlotN) (why : Park) (s : State) : Host.Outcome State Fault Refusal :=
  .next (if runnable s slot then sendKill (parkAt (s.modTh slot fun t => { t with inc := t.inc + 1 }) slot why) slot else s)

/-- Is a translation of a space under way, or a pad line's fill? -/
def walking (s : State) (space : BitVec 16) : Bool :=
  s.agenda.any fun e => match e with
    | .rangeWalk p _ => decide (p = space) | .rangeFill p _ _ => decide (p = space) | .rangeWalkRetry p _ => decide (p = space)
    | .padLineFill _ => true | _ => false
/-- Has a ring what a packet waits for (R263, R264)? -/
def ringReady (g : Ring) : RingWait → Bool
  | .push => decide (g.room ≠ 0)
  | .pop => decide (g.avail ≠ 0)
  | .defn => g.pendDef.isNone
/-- Has a bound stream an element, or room for one (R268)? -/
def streamReady (s : State) (b : Binding) : Bool :=
  match b.kind with
  | .pop _ => decide (b.buf ≠ [])
  | .rd _ _ => decide (b.buf ≠ [])
  | .push r => decide ((getRing s r).room ≠ 0)
  | _ => true
/-- Has a siding room again (R251, R269, R334)? -/
def queueReady (s : State) : QueueWait → Bool
  | .matrix => decide (s.core.mq.length < 8)
  | .engine => decide (s.cl.engq.length < 16)
  | .entry r => entryFree s r
/-- Is what a parked packet waited for there (R32, R39, R89, R183)? -/
def parkOver (s : State) (i : SlotN) (p : Park) : Bool :=
  let t := s.th i
  !killing s i && match p with
  | .commit => !uncommitted t
  | .walk => !walking s t.space
  | .fill => !s.agenda.any fun e => match e with | .lineFill j => decide (j = i) | _ => false
  | .ring r why => ringReady (getRing s r) why
  | .stream k => streamReady s (t.binds.get k)
  | .credit dest reply => decide ((creditOf s dest reply).held ≠ 0)
  | .queue q => queueReady s q
  | .owed flags => if flags then !flagsOwed t else decide (t.far = [])
  | .fence sc tok => fenceDone s i sc tok
  | .solo => !s.pkg.soloQueue.contains i
  | _ => false
/-- REPLAY_WAKE (R32): the packet issues again and looks again. -/
def execReplayWake (slot : SlotN) (s : State) : Host.Outcome State Fault Refusal :=
  match (s.th slot).park with
  | none => .next s
  | some p => if parkOver s slot p then .next (s.modTh slot fun t => { t with park := none }) else .next s
/-- LINE_FILL (R113 to R116). -/
def execLineFill (slot : SlotN) (s : State) : Host.Outcome State Fault Refusal :=
  if !(s.slot slot).occ then .next s
  else .next ((doLineFill s slot).modTh slot fun t => { t with park := if t.park = some Park.fill then none else t.park })
/-- WAKEAT_EXPIRY (R171): the timebase has reached the wake time. -/
def execWakeatExpiry (slot : SlotN) (s : State) : Host.Outcome State Fault Refusal :=
  match (s.th slot).park with
  | some (.wakeAt t) =>
    let s1 := s.modTh slot fun x => { x with park := none }
    .next { s1 with pkg := { s1.pkg with timeb := if s1.pkg.timeb.toNat < t.toNat then t else s1.pkg.timeb } }
  | _ => .next s

/-! Commits. -/

/-- The arbiter takes the oldest ended chunk; lines that the host or another package may hold are asked back first. -/
def tryCommit (s : State) (i : SlotN) : State :=
  if (s.th i).ended = [] then s
  else if commitReady s i then (commitChunk s i).1
  else if (s.th i).sync.isNone then askOut s (writeLines s i (oldest (s.th i))) else s
/-- What another core's chunk writes here: its stores, its elements at the tails of rings. -/
def otherLines (s : State) (stores : List OutStore) (pushes : List (RingN × List (List Byte × Bool))) : List Nat :=
  stores.flatMap (fun o => linesOf o.addr o.data.length) ++
    pushes.flatMap fun x => let g := getRing s x.1; elemLines s g g.tail.toNat (8 * x.2.length)
/-- A store takes its place at its home: bytes, poison, conflicts (R152, R279, R289). -/
def homeStore (s : State) (o : OutStore) : State :=
  markWrite { s with mem := s.mem.store o.addr o.data o.p } none (linesOf o.addr o.data.length)
/-- CHUNK_COMMIT (R279, R295): a chunk of this core goes to the arbiter; another core's takes its place here once its lines, the room
and the elements of its rings are there. -/
def execChunkCommit (who : Committer) (s : State) : Host.Outcome State Fault Refusal :=
  match who with
  | .own slot => .next (if !(s.slot slot).occ || paired s slot then s else tryCommit s slot)
  | .other stores pushes pops =>
    let ls := otherLines s stores pushes
    if stores.any fun o => !hasMemory o.addr then .fault .noMemory
    else if !linesFree s none ls || pushes.any (fun x => decide ((getRing s x.1).room = 0)) || pops.any (fun r => decide ((getRing s r).avail = 0)) then
      .next ((askOut s ls).later [.chunkCommit who])
    else
      let s1 := stores.foldl homeStore s
      let s2 := pops.foldl popHead s1
      .next (pushes.foldl (fun s x => pushElem s x.1 x.2 false false) s2)
/-- SOLO_GRANT (R298): the grant goes to the request that has waited longest. -/
def execSoloGrant (slot : SlotN) (s : State) : Host.Outcome State Fault Refusal :=
  if s.pkg.soloHolder.isNone && decide (s.pkg.soloQueue.head? = some slot) then
    .next ({ s with pkg := { s.pkg with soloHolder := some slot, soloQueue := s.pkg.soloQueue.drop 1 } }.modTh slot fun t =>
      { t with solo := true, park := if t.park = some Park.solo then none else t.park })
  else .next s

/-! CHECK of a thread after its chunk (R64). -/

/-- The committed CHECK of the thread that owns a reference, in its slot or in its image. -/
def checkOwner (s : State) (r : FarRef) (u : CheckUpd) : State :=
  let t := s.th r.slot
  if (s.slot r.slot).occ && t.far.any (fun e => e.seq = r.seq ∧ e.inc = r.inc) then checkNow s r.slot u
  else
    let mine (m : Image) : Bool := decide (m.slot = r.slot) && m.owed.any fun e => decide (e.1.seq = r.seq) && decide (e.1.inc = r.inc)
    let put (mem : Memory) (m : Image) : Memory :=
      let w := readWord mem m.lines 20
      mem.engineWord (imageAt m.lines 160) (leBytes 8 (w % 2 ^ 32 + 2 ^ 32 * (CheckUpd.apply (BitVec.ofNat 32 (w / 2 ^ 32)) u).toNat)) false
    { s with mem := (s.core.images.filter mine).foldl put s.mem }

/-! Singletons that wait. -/

/-- A waiting singleton of slot i has been performed with value v: its value is owed no longer, and what its packet consumed commits
with it. -/
def syncEnds (s : State) (i : SlotN) (w : SyncWait) (v : SVal) (stored : Bool) : State :=
  let s1 := opCheck s i v stored
  let s2 := match w.ref with | some r => s1.deliver r (.scalar v none) | none => s1
  (settleOwn s2 i w.chunk).modTh i fun t => { t with sync := none }
/-- A waiting singleton is performed at its home. -/
def syncDone (s : State) (i : SlotN) (w : SyncWait) : State :=
  syncEnds (performHome s (.slot i) w.op) i w (homeValue s.mem w.op) (opStored s.mem w.op)
/-- SINGLETON_PERFORM (R280): of a thread of this core, or of another core of the package. -/
def execSingletonPerform (who : Performer) (s : State) : Host.Outcome State Fault Refusal :=
  match who with
  | .own slot => match (s.th slot).sync with
    | none => .next s
    | some w =>
      if isRemote s w.op.addr || !opReady s.mem w.op then .next s
      else if opFree s slot w.op then .next (syncDone s slot w)
      else .next (askOut s (opLines w.op))
  | .other w op =>
    if !hasMemory op.addr then .fault .noMemory
    else if !opReady s.mem op then .next s
    else if linesFree s none (opLines op) then .next (performHome s (.core w) op)
    else .next ((askOut s (opLines op)).later [.singletonPerform who])
/-- The state that a waiting operation needs. -/
def needsFull : HomeKind → Bool
  | .ldf => true | .ldfe => true | _ => false
/-- The waiter table that serves a word: the pad's, or a slice's; how many entries it has (R237). -/
def homeTable (a : Nat) : Nat := if isPad a then 0 else 1 + 64 * (a / 0x3000000000) + (field a 6 6 ^^^ field a 12 6 ^^^ field a 18 6)
def tableRoom (s : State) (a : Nat) : Bool :=
  decide ((s.cl.waiters.filter fun w => homeTable w.addr = homeTable a).length < (if isPad a then 16 else 32))
/-- May a waiter be recorded for a word: none is yet, and its home's table has room? -/
def mayMark (s : State) (word : Nat) : Bool := !s.cl.waiters.any (fun x => decide (x.addr = word)) && tableRoom s word
def addWaiter (s : State) (w : WaitEntry) : State := { s with cl := { s.cl with waiters := s.cl.waiters ++ [w] } }
/-- SYNC_RETRY (R237): a try that finds the word not ready; the one with n = 64 enters the waiter table and saves the thread. -/
def execSyncRetry (slot : SlotN) (s : State) : Host.Outcome State Fault Refusal :=
  match (s.th slot).sync with
  | none => .next s
  | some w =>
    let word := w.op.addr / 8 * 8
    if isRemote s w.op.addr || opReady s.mem w.op || !w.op.fe then .next s
    else if w.n < 64 then .next (s.modTh slot fun t => { t with sync := some { w with n := w.n + 1 } })
    else
      let k := framesFor (s.allot slot)
      let s1 := dropSync s slot
      match freeRun s k with
      | none => .next s
      | some f =>
        if !mayMark s word || !mayLeave s1 slot then .next s
        else .next (saveThread (addWaiter s1 ⟨word, s.core.id, slot, needsFull w.op.kind, some s.core.nextArr⟩) slot
          (frameLines s f k) (some f) false true)

/-! Operations at a home in another package (R285). -/

/-- Has a thread no store on its way to a package? -/
def ackedBy (t : Thread) (p : BitVec 8) : Bool := !(t.pend ++ t.sent).any fun o => !isHost o.addr && decide (packageOf o.addr = p)
/-- The request of slot i leaves for the home; the one with n = 64 may mark the word where a run of frames can be reserved (R237). -/
def askHome (s : State) (i : SlotN) (w : SyncWait) : State :=
  let k := framesFor (s.allot i)
  let run := if w.n < 64 ∨ ¬ mayLeave (dropSync s i) i then none else (freeRun s k).map fun f => (f, k)
  sendE2E (s.modTh i fun t => { t with sync := some { w with asked := true, run := run } }) (packageOf w.op.addr) 0
    (.atomic w.op ⟨s.core.id, i⟩ run.isSome)
/-- Memory as the reply shows it: the value that stood at the home, in the state that the operation found ready, then its effect. -/
def replyMem (m : Memory) (op : HomeOp) (v : SVal) : Memory :=
  let m1 := match op.kind with
    | .ldf => (m.store op.addr (leBytes (opSize op) v.v.toNat) v.p).setFull op.addr true
    | .ldfe => (m.store op.addr (leBytes (opSize op) v.v.toNat) v.p).setFull op.addr true
    | .atom _ _ => m.store op.addr (leBytes (opSize op) v.v.toNat) v.p
    | .cas _ => m.store op.addr (leBytes (opSize op) v.v.toNat) v.p
    | _ => m
  homeMem m1 op
/-- The home's reply reaches slot i (R237, R285); a thread that stops meanwhile, or whose space is being invalidated, goes back to
its singleton where it was not performed (R287, R321). -/
def homeReplies (s : State) (i : SlotN) (r : HomeReply) : State :=
  match (s.th i).sync with
  | none => s
  | some w => match r with
    | .done v =>
      let s1 := markWrite { s with mem := replyMem s.mem w.op v } none (opLines w.op)
      syncEnds s1 i w v (opStored s.mem w.op)
    | .notYet =>
      let s1 := s.modTh i fun t => { t with sync := some { w with n := min 64 (w.n + 1), asked := false, run := none } }
      if (s.slot i).stopped || (s.slot i).halting || s.pkg.invals.contains (s.th i).space then dropSync s1 i else s1
    | .marked => match w.run with
      | some (f, k) => saveThread (dropSync s i) i (frameLines s f k) (some f) false true
      | none => s.modTh i fun t => { t with sync := some { w with asked := false } }
/-- An operation of another package's thread at its home here: performed, or answered that it is not ready, or recorded as the
word's waiter (R237, R285). -/
def awayOp (s : State) (src : BitVec 8) (who : Waiter) (op : HomeOp) (mark : Bool) : State :=
  let word := op.addr / 8 * 8
  if opReady s.mem op then
    if linesFree s none (opLines op) then
      sendE2E (performHome s (.away src who) op) src 1 (.reply who (.done (homeValue s.mem op)))
    else (askOut s (opLines op)).later [.remoteAtomicPerform (.other src who mark) op]
  else if mark && mayMark s word then
    sendE2E (addWaiter s ⟨word, who.core, who.slot, needsFull op.kind, none⟩) src 1 (.reply who .marked)
  else sendE2E s src 1 (.reply who .notYet)
/-- REMOTE_ATOMIC_PERFORM (R285): a thread's operation leaves for its home once the home has acknowledged the thread's earlier stores;
one of another package is performed here as at any home. -/
def execRemoteAtomicPerform (who : RemoteOp) (op : HomeOp) (s : State) : Host.Outcome State Fault Refusal :=
  match who with
  | .own i => match (s.th i).sync with
    | none => .next s
    | some w =>
      if decide (w.op ≠ op) || !isRemote s op.addr || w.asked || (s.slot i).stopped || (s.slot i).halting || !ackedBy (s.th i) (packageOf op.addr) then .next s else .next (askHome s i w)
  | .other src w mark => if !hasMemory op.addr then .fault .noMemory else .next (awayOp s src w op mark)

/-- GATHER_RETURN (R242): each lane as its word stands now. -/
def execGatherReturn (gat : Gather) (s : State) : Host.Outcome State Fault Refusal :=
  let lane (e : Nat) : Nat × Bool := match gat.lanes.getD e none with
    | some a => (s.mem.nat a 4, s.mem.pois a)
    | none => (velt 32 gat.old.bits e, gat.old.poison.getLsbD e)
  let bits := packElems 32 ((List.range 32).map fun e => (lane e).1)
  let pois := packElems 1 ((List.range 32).map fun e => if (lane e).2 then 1 else 0)
  let bad := (List.range 32).any fun e => (gat.lanes.getD e none).isSome && (lane e).2
  let s1 := if bad then checkOwner s gat.ref .loaded else s
  .next (s1.deliver gat.ref (.vec ⟨BitVec.ofNat 1024 bits, BitVec.ofNat 32 pois⟩))

/-- TABLE_LOAD_COMPLETE (R64, R144, R260): the table is replaced whole, GEN advances, the token is written. -/
def execTableLoadComplete (ld : TableLoad) (s : State) : Host.Outcome State Fault Refusal :=
  let word (k : Nat) : Nat := ld.lines.getD (k / 16) 0 + 4 * (k % 16)
  let es : Bank TEntry 256 := ⟨(List.range 256).map fun k =>
    ⟨BitVec.ofNat 19 (s.mem.nat (word k) 4 / 2 ^ 13), s.mem.pois (word k)⟩, by simp⟩
  let p := es.items.any (·.p)
  let s1 := { s with core := { s.core with table := es, tabValid := true, tabBusy := s.core.tabBusy - 1, tabGen := s.core.tabGen + 1 } }
  let s2 := if p then checkOwner s1 ld.ref .loaded else s1
  .next (s2.deliverToken ld.ref 1024 0 p)

/-! Stores that leave the package (R283, R286). -/

/-- HOST_STORE_SEND (R283, R286): the oldest pending store of a slot leaves, toward the host or another package. -/
def execHostStoreSend (slot : SlotN) (s : State) : Host.Outcome State Fault Refusal :=
  match (s.th slot).pend with
  | [] => .next s
  | o :: rest =>
    let s1 := s.modTh slot fun t => { t with pend := rest, sent := t.sent ++ [o] }
    .next (if isHost o.addr then (s1.send (.hostStore o)).later [.remoteAck ⟨slot, none⟩]
      else sendE2E s1 (packageOf o.addr) 0 (.store o ⟨s.core.id, slot⟩))
/-- Is a sent store one that a destination acknowledges: the host, or a package? -/
def sentTo (dest : Option (BitVec 8)) (o : OutStore) : Bool :=
  match dest with
  | none => isHost o.addr
  | some p => !isHost o.addr && decide (packageOf o.addr = p)
/-- REMOTE_ACK (R283, R286): the destination has performed the oldest store that the slot sent to it (log 8). -/
def execRemoteAck (ack : AckFrom) (s : State) : Host.Outcome State Fault Refusal :=
  match (s.th ack.slot).sent.find? (sentTo ack.dest) with
  | none => .next s
  | some o => .next (homeStore (s.modTh ack.slot fun t => { t with sent := t.sent.eraseP (sentTo ack.dest) }) o)
/-- A store of another package's thread: none while a solo execution or a copy elsewhere holds its lines; else it is performed, and
acknowledged (R283, R284). -/
def awayStore (s : State) (src : BitVec 8) (who : Waiter) (st : OutStore) : Option State :=
  if linesFree s none (linesOf st.addr st.data.length) then some (sendE2E (homeStore s st) src 1 (.ack who)) else none
/-- REMOTE_STORE_PERFORM (R283). -/
def execRemoteStorePerform (away : AwayStore) (s : State) : Host.Outcome State Fault Refusal :=
  if !hasMemory away.st.addr then .fault .noMemory
  else match awayStore s away.src away.who away.st with
    | some s1 => .next s1
    | none => .next ((askOut s (linesOf away.st.addr away.st.data.length)).later [.remoteStorePerform away])

/-! Copies in other packages (R284). -/

/-- The lines of a 512-byte block. -/
def blockLines (b : Nat) : List Nat := (List.range 8).map (8 * b + ·)
/-- Every holder of a block that has not been asked is asked to give its copy up. -/
def recallBlock (s : State) (b : Nat) : State :=
  let new := s.pkg.remoteCopies.filter fun x => decide (x.2.1 = b) && !x.2.2
  let s1 := { s with pkg := { s.pkg with remoteCopies := s.pkg.remoteCopies.map fun x => if x.2.1 = b then (x.1, x.2.1, true) else x } }
  new.foldl (fun s x => sendE2E s x.1 0 (.invalidate b)) s1
/-- A block of another package is given up here: chunks that read it conflict, and the home is told, once no solo execution holds a
line of it (R298). -/
def giveUp (s : State) (b : Nat) : Option State :=
  if soloHolds s none (blockLines b) then none
  else some (sendE2E (markWrite s none (blockLines b)) (packageOf (512 * b)) 1 (.invalAck b))
/-- A holder has given its copy up. -/
def copyGone (s : State) (p : BitVec 8) (b : Nat) : State :=
  { s with pkg := { s.pkg with remoteCopies := s.pkg.remoteCopies.filter fun x => !(decide (x.1 = p) && decide (x.2.1 = b)) } }
/-- REMOTE_INVALIDATE (R284): the copies of an own line's block are called back; that of another package's line is given up. -/
def execRemoteInvalidate (line : Nat) (s : State) : Host.Outcome State Fault Refusal :=
  if isRemote s (64 * line) then
    match giveUp s (line / 8) with
    | some s1 => .next s1
    | none => .next (s.later [.remoteInvalidate line])
  else .next (recallBlock s (line / 8))

end Sys2Proof.Machine
end

