-- ==== Sys2Proof/Machine/Rings.lean ====
section
/-! DEFINITION. Group 7, rings and streams (R261 to R268), and RQUERY (R275). -/
namespace Sys2Proof.Machine

/-- Ring Fault of a ring (R318). -/
def ringFault (r : RingN) : TrapInfo := ⟨cRing, r.setWidth 64, 0⟩

/-! RDEF. -/

/-- The format of window n (R154). -/
def fmtOf (s : State) (n : Nat) : Option WFmt := WFmt.ofCode (s.cl.wfmt.get (fin8 n))
/-- Bytes of an element of a kind, in a window's format (R154, R261). -/
def strideOf (f : Option WFmt) (kind : Nat) : Nat :=
  match kind with | 0 => 8 | 1 => 128 | _ => (f.map WFmt.tileBytes).getD 0
/-- Does an accepted command that has not finished name the ring (R263)? -/
def ringInUse (s : State) (r : RingN) : Bool :=
  (s.core.mq.any fun c => match c.op with | .mma _ a b _ _ => decide (a = r) || decide (b = r) | _ => false) ||
    s.cl.engq.any fun c => match c.op with
      | .copy _ _ x _ _ => decide (x = some r) | .mcast _ x _ _ _ _ => decide (x = some r)
/-- The operands of RDEF that give Ring Fault (R263). -/
def rdefBad (s : State) (r : RingN) (a b : Word) : Bool :=
  let w := (a.extractLsb' 20 3).toNat
  let base := (a.extractLsb' 0 19).toNat
  let kind := (b.extractLsb' 0 2).toNat
  let lg := (b.extractLsb' 8 4).toNat
  let st := strideOf (fmtOf s w) kind
  a.getLsbD 19 || decide (a.extractLsb' 23 41 ≠ 0) || decide (b &&& ~~~(0xF03 : Word) ≠ 0) || decide (kind = 3) || decide (12 < lg) ||
    (decide (kind = 2) && (fmtOf s w).isNone) || decide (base % st ≠ 0) || decide (padSize < base + 2 ^ lg * st) ||
    (getRing s r).popb || (getRing s r).pushb || ringInUse s r
/-- The definition of RDEF's operands: empty, unmarked, unbroken. -/
def rdefRing (s : State) (a b : Word) : Ring :=
  let w := (a.extractLsb' 20 3).toNat
  let kind := (b.extractLsb' 0 2).toNat
  ⟨true, BitVec.ofNat 3 w, (a.extractLsb' 0 19).toNat, BitVec.ofNat 2 kind, b.extractLsb' 8 4, strideOf (fmtOf s w) kind, 0, 0,
    0, 0, false, false, false, [], [], none⟩
/-- The definition is performed once nothing is reserved. -/
def rdefNow (s : State) (r : RingN) : State :=
  let g := getRing s r
  match g.pendDef with
  | some (a, b) => if g.resvPush = 0 ∧ g.resvPop = 0 then setRing s r (rdefRing s a b) else s
  | none => s
/-- RDEF (R263). -/
def execRdef (h : Hdr) (d : RingN) (a b : SReg) (s : State) : Host.Outcome State Fault Refusal :=
  runPacket h { NF [a, b] with noGuest := true } false
    (fun s => ender s h
      (fun s => causes [
        causeIf ((s.s a).p || (s.s b).p) (trapOf cPoison),
        causeIf (rdefBad s d (s.s a).v (s.s b).v) (ringFault d)])
      fun s =>
        let s1 := useRegs s [a, b]
        .own (rdefNow (setRing s1 d { getRing s1 d with pendDef := some ((s.s a).v, (s.s b).v) }) d) none) s
/-- RDEF_PERFORM (R263): a definition that waited for reservations. -/
def execRdefPerform (ring : RingN) (s : State) : Host.Outcome State Fault Refusal := .next (rdefNow s ring)

/-! RPUSH, RPOP, RSTAT. -/

/-- The conditions of RPUSH and RPOP (R264): Ring Fault; a window of a reserved format makes the element illegal (R65); element n
may lie in memory that refuses the slot (R314). -/
def ringBad (s : State) (r : RingN) (vec bound : Bool) (n : Nat) (ps : List Nat) : Option PRes :=
  let g := getRing s r
  causes [
    causeIf (!g.defd || decide (g.kind = 2) || decide (g.kind.toNat ≠ (if vec then 1 else 0)) || bound) (ringFault r),
    causeIf (badWindow s r) (trapOf cIllegal),
    (elemBad s s.ctl.cur g n (if vec then 128 else 8) ps).map .trap]
/-- A ring packet at the crown (R32, R263, R264, R301): while an RDEF is pending it replays; then its causes; then it replays while
the ring has no room or element for it; in an open region the region takes its fallback instead. -/
def ringGate (s : State) (r : RingN) (bad : Option PRes) (why : RingWait) (k : State → PRes) : PRes :=
  if (getRing s r).pendDef.isSome then regionStop s (.replay s (.ring r .defn))
  else match bad with
    | some q => q
    | none => regionStop s (if ringReady (getRing s r) why then k s else .replay s (.ring r why))
/-- The packet's own chunk begins: the one before it ends (R230); a region's chunk stands until its fate is decided. -/
def ownChunk (s : State) : State := if s.me.reg.isOpen then s else s.setMe (endChunk s.me)
/-- What the chunk in hand does at its commit. -/
def setAct (s : State) (a : ChunkAct) : State := modCur s fun c => { c with act := some a }
/-- One push or pop more is accepted (R261 RESV). -/
def reservePush (s : State) (r : RingN) : State := setRing s r { getRing s r with resvPush := (getRing s r).resvPush + 1 }
def reservePop (s : State) (r : RingN) : State := setRing s r { getRing s r with resvPop := (getRing s r).resvPop + 1 }
/-- A pushed element: a word or 16 of them. -/
def elemWords (s : State) (a : VNum) (vec : Bool) : List (List Byte × Bool) :=
  if vec then vecWords (s.v a) else [(leBytes 8 (s.s a).v.toNat, (s.s a).p)]
/-- Does a ring packet act: a vector's guard governs a lane of 32 bits, a scalar's bit 0 is set (R53, R158; log 87)? -/
def ringActs (s : State) (h : Hdr) (vec : Bool) : Bool := if vec then gany s h 32 else gbit s h
/-- RPUSH (R264): a place is reserved at the crown; the element enters at the chunk's commit. -/
def execRpush (h : Hdr) (d : RingN) (a : VNum) (vec : Bool) (s : State) : Host.Outcome State Fault Refusal :=
  let n : Names := if vec then { NV [a] [] [] [] with far := .vec 32 none } else NF [a]
  runPacket h { n with noGuest := true } false
    (fun s0 => if gpois s0 h then .trap (trapOf cPoison) else withStreams h (if vec then [a] else []) none (fun s =>
      if !ringActs s h vec then .done s none
      else
        let g := getRing s d
        ringGate s d (ringBad s d vec g.pushb (g.tail.toNat + g.resvPush) [permW]) .push fun s =>
          let bad := if vec then decide ((s.v a).poison ≠ 0) else (s.s a).p
          .ends (checkIf (setAct (reservePush (if vec then s else useRegs s [a]) d) (.push d (elemWords s a vec))) bad .stored) none)
      (ownChunk s0)) s
/-- A pop whose destination is a bound stream: its value is appended in seal order, so it acts after its thread's last chunk. -/
def popToStream (s : State) (h : Hdr) (d : VNum) (a : RingN) : PRes :=
  commitWait s fun s =>
    let g := getRing s a
    let x := readVec s g g.head.toNat
    let m := gmask s h
    let v : VVal := (assemble 32 m false (s.old d) fun e => ⟨velt 32 x.bits e, vpois 32 x e, 0⟩).val
    let bad := (List.range 32).any fun e => govBit 32 m e && vpois 32 x e
    let s1 := (checkIf (popHead s a) bad .loaded).farVb h d v 0
    .own (settleOwn s1 s.ctl.cur s1.me.cur) none
/-- RPOP (R264): an element is reserved at the crown; its value is delivered at the chunk's commit; a vector is governed by 32-bit
lane. -/
def execRpop (h : Hdr) (d : VNum) (a : RingN) (vec : Bool) (s : State) : Host.Outcome State Fault Refusal :=
  let n : Names := if vec then { NV [d] [] [] [] with far := .vec 32 (some d) } else ⟨[], [d], [], [], [], false, false, .scalar⟩
  runPacket h { n with noGuest := true } false
    (fun s0 => if gpois s0 h then .trap (trapOf cPoison) else withStreams h [] (if vec then some d else none) (fun s =>
      if !ringActs s h vec then .done (if vec then s.wvb h d (s.old d) else s) none
      else
        let g := getRing s a
        ringGate s a (ringBad s a vec g.popb (g.head.toNat + g.resvPop) [permR]) .pop fun s =>
          if !vec then .ends ((setAct (reservePop s a) (.pop a s.ref none)).farS d none 0 false) none
          else if appends s d then popToStream s h d a
          else .ends ((setAct (reservePop s a) (.pop a s.ref (some (gmask s h, s.v d)))).farV d none 0) none)
      (if appends s0 d && vec then s0 else ownChunk s0)) s

/-- The word of R265. -/
def rstatWord (g : Ring) : Word :=
  if !g.defd then 0
  else BitVec.ofNat 64 (g.occ + bit true 13 + bit g.popb 14 + bit g.pushb 15 + 2 ^ 16 * g.kind.toNat + 2 ^ 18 * g.log2n.toNat +
    2 ^ 22 * g.win.toNat + bit g.broken 25 + 2 ^ 32 * g.head.toNat)
/-- RSTAT (R265). -/
def execRstat (h : Hdr) (d : SReg) (a : RingN) (s : State) : Host.Outcome State Fault Refusal :=
  runPacket h ⟨[], [d], [], [], [], true, false, .scalar⟩ false
    (fun s => ender s h (fun _ => none) fun s =>
      .own (s.farS d (some (.scalar ⟨rstatWord (getRing s a), false⟩ none)) 0 false) none) s

/-! BIND, UNBIND. -/

/-- The fields of a descriptor that give Stream Fault (R266). -/
def descBad (d : BindDesc) (mem : Bool) : Bool :=
  let n := d.used.foldl (· * ·) 1
  decide (d.resv ≠ 0) || decide (d.levels = 0) || decide (4 < d.levels) || d.used.any (· = 0) || (d.counts.drop d.levels).any (· ≠ 0) ||
    decide (2 ^ 48 ≤ n) ||
    (if mem then decide (d.ring ≠ 0) || decide (d.base.toNat % 4 ≠ 0) || d.steps.any (fun x => x % 4 ≠ 0)
     else decide (d.base ≠ 0) || decide (d.reach ≠ 0) || d.steps.any (· ≠ 0) || decide (32 ≤ d.ring))
/-- Does a mode use a ring? -/
def ringMode : BindMode → Bool
  | .pop => true | .push => true | _ => false
/-- Causes 2 to 4 and the descriptor they lead to (R266). -/
inductive BindRead where
  | none
  | ok (off : Word) (reach : BitVec 16) (d : BindDesc)
  | stop (r : PRes)
def bindRead (s : State) (a : SReg) (r : BitVec 16) (desc : Bool) : BindRead :=
  let off := (s.s a).v
  if !desc then .none
  else if (s.s a).p then .stop (.trap (trapOf cPoison))
  else if off.toNat % 64 ≠ 0 then .stop (.trap ⟨cMisaligned, off, auxOf r none⟩)
  else match translated s r off 64 [permR] none with
    | .stop q => .stop q
    | .ok as => .ok off r (readBind (viewMem s s.ctl.cur) as)
/-- The stream is bound (R57, R266). -/
def bindNow (s : State) (k : Fin 4) (mode : BindMode) (ring : RingN) (x : Option (Word × BitVec 16 × BindDesc)) : State :=
  let (reach, base) : BitVec 16 × Word := match x with | some (_, _, d) => (d.reach, d.base) | none => (0, 0)
  let kind : BindKind := match mode with
    | .pop => .pop ring | .push => .push ring | .rd => .rd reach base | .wr => .wr reach base
  let s1 := match mode with
    | .pop => setRing s ring { getRing s ring with popb := true }
    | .push => setRing s ring { getRing s ring with pushb := true }
    | _ => s
  s1.setBinding k ⟨kind, x.map fun y => (y.1, y.2.1), (x.map fun y => y.2.2.used).getD [], (x.map fun y => y.2.2.usedSteps).getD [], 0, []⟩
/-- BIND (R52, R266): what is wrong with its fields alone is found whatever its guard (R106). -/
def execBind (h : Hdr) (d a : VNum) (mode : BindMode) (dsc : Bool) (k : KReg) (s : State) :
    Host.Outcome State Fault Refusal :=
  runPacket h { (if dsc then NF [a] else Names.empty.farS) with vec := [d], noGuest := true } false
    (fun s => if d.toNat < 28 ∨ (dsc = false ∧ ringMode mode = false) then .trap (trapOf cIllegal) else farGuard s h fun s => match bindIdx s d with
      | none => .trap (trapOf cIllegal)
      | some i =>
        let go (ring : RingN) (x : Option (Word × BitVec 16 × BindDesc)) : PRes :=
          let g := getRing s ring
          match causes [
            causeIf (match x with | some y => descBad y.2.2 (!ringMode mode) | none => false) (streamFault d 0),
            causeIf (decide ((s.binding i).kind ≠ .unbound)) (streamFault d 0)] with
          | some r => r
          | none =>
            if ringMode mode && g.pendDef.isSome then regionStop s (.replay s (.ring ring .defn))
            else match causes [
              causeIf (ringMode mode && (!g.defd || decide (g.kind ≠ 1) || (if mode = .pop then g.popb else g.pushb))) (ringFault ring),
              match x with | some y => breakAt s y.2.1 y.1 64 true false none | none => none] with
            | some r => r
            | none => commitWait s fun s => .own (bindNow (if dsc then useRegs s [a] else s) i mode ring x) none
        match bindRead s a (s.k k) dsc with
        | .stop r => r
        | .none => go a none
        | .ok off r y => go (BitVec.ofNat 5 y.ring) (some (off, r, y))) s
/-- The stream in binding slot i ends; what it has fetched ahead stays in its ring (R267). -/
def unbindNow (s : State) (i : Fin 4) : State :=
  let b := s.binding i
  let s1 := match b.kind with
    | .pop r => let g := getRing s r
                setRing s r { g with popb := false, resvPop := g.resvPop - b.buf.length }
    | .push r => setRing s r { getRing s r with pushb := false }
    | _ => s
  s1.setBinding i .idle
/-- UNBIND (R106, R267). -/
def execUnbind (h : Hdr) (d : VNum) (s : State) : Host.Outcome State Fault Refusal :=
  runPacket h { Names.empty.farS with vec := [d], noGuest := true } false
    (fun s => if d.toNat < 28 then .trap (trapOf cIllegal) else ender s h (fun _ => none) fun s => match bindIdx s d with
      | none => .own s none
      | some i => .own (unbindNow s i) none) s

/-- May a stream fetch one more element ahead (R268)? -/
def canFetch (s : State) (i : SlotN) (k : Fin 4) : Bool :=
  let b := (s.th i).binds.get k
  let inside := match b.len with | some n => decide (b.pos + b.buf.length < n) | none => true
  (s.slot i).occ && inside && decide (b.buf.length < 2) && (match b.kind with
    | .pop r => decide ((getRing s r).avail ≠ 0)
    | .rd _ _ => true
    | _ => false)
/-- STREAM_PREFETCH (R268): the next element of a ring, or leave for the packet to load the next of an affine stream. -/
def execStreamPrefetch (slot : SlotN) (b : Fin 4) (s : State) : Host.Outcome State Fault Refusal :=
  if !canFetch s slot b then .next s
  else
    let x := (s.th slot).binds.get b
    let add (s : State) (v : VVal) (e g : Bool) : State :=
      s.modTh slot fun t => { t with binds := t.binds.set b { x with buf := x.buf ++ [(v, e, g, none)] } }
    match x.kind with
    | .pop r =>
      let g := getRing s r
      let n := g.head.toNat + g.resvPop
      let k := g.slotOf n
      .next (setRing (add s (readVec s g n) (setHas g.ends k) (setHas g.engs k)) r { g with resvPop := g.resvPop + 1 })
    | _ => .next (add s ⟨0, 0⟩ false false)

/-! RQUERY. -/

/-- The word of R275 for a pad byte: a stashed line without W lacks it; the bedroll area is the ranger's alone (R314). -/
def padQuery (s : State) (i : SlotN) (p : Nat) : Word :=
  let ro : Bool := match spanAt s p with
    | none => false
    | some sp => match sp.filled.find? fun x => decide (x.1 = p / 64) with
      | some x => !x.2.2
      | none => decide (memByte s sp.global.space (sp.behind p) [permW] = .bad cPermission)
  let perm : Nat := if i ≠ ranger ∧ inBedroll s p then 0 else if ro then 0x19 else 0x1B
  BitVec.ofNat 64 (1 + 2 * perm + 2 ^ 8 + 2 ^ 16 * (padSize - p))
/-- The word for an address of a range. -/
def rangeQuery (d : RangeDesc) (va : Nat) : Word :=
  let res := decide (va < d.wmark)
  let n := if res then min (d.wmark - va) (2 ^ 48 - 1) else 0
  BitVec.ofNat 64 (1 + 2 * (d.perm.toNat % 32) + bit d.sync 6 + bit d.stashOk 7 + bit res 8 + 2 ^ 16 * n)
/-- RQUERY (R275). -/
def execRquery (h : Hdr) (d a : SReg) (k : KReg) (s : State) : Host.Outcome State Fault Refusal :=
  runPacket h { N1 d a with noGuest := true, far := .scalar } false
    (fun s => farGuard s h fun s =>
      if (s.s a).p then .trap (trapOf cPoison)
      else
        let i := s.ctl.cur
        let va := vaOf (s.k k) (s.s a).v
        let give (w : Word) : PRes := .done ((useRegs s [a]).farS d (some (.scalar ⟨w, false⟩ none)) 0 false) none
        if s.k k = localReach then
          match padOff (s.s a).v with
          | some (p, _) => give (padQuery s i p)
          | none => give 0
        else match rcFind s.core.rcache s.me.space va with
          | some x => give (rangeQuery x va)
          | none => if s.me.miss = some va then give 0 else missRes s s.me.space va) s

end Sys2Proof.Machine
end

