-- ==== Sys2Proof/Machine/Matrix.lean ====
section
/-! DEFINITION. The matrix unit (R56, R146, R147, R154, R269 to R274): its arithmetic, its queue, MMA, MZERO, MFILL, MDRAIN,
tile operations, and the restart of a halted queue (R313). -/
namespace Sys2Proof.Machine

/-! Arithmetic (R146, R147). -/

/-- An operand element decoded into F19. -/
def toF19 (f : WFmt) (tab : List TEntry) (c : Nat) : FVal :=
  match f with
  | .f32 => fmtF19.decode (fToF fmtF19 .rne .arith 0 (fmtF32.decode c)).bits
  | .t8 => tval tab c
  | _ => (f.ffmt.getD fmtF16).decode c
/-- One product with its block scales, 0xFF and 0 × ∞ giving NaN. -/
def mProd (a b : FVal) (sa sb : Nat) : FVal :=
  if sa = 255 ∨ sb = 255 then .nan false
  else match prodVal a b with
    | none => .nan false
    | some v => scaleVal ((sa : Int) + sb - 254) v
def isNegZero : FVal → Bool
  | .fin n m _ => n && decide (m = 0)
  | _ => false
/-- The exact sum of a group of four. -/
def groupSum (ps : List FVal) : FVal :=
  if ps.any (·.isNaN) then .nan false
  else
    let infs := ps.filter fun p => match p with | .inf _ => true | _ => false
    if infs.any (·.isNeg) && infs.any (fun p => !p.isNeg) then .nan false
    else match infs with
      | p :: _ => p
      | [] =>
        let x0 := ps.foldl (fun m p => match p with | .fin _ _ x => min m x | _ => m) (0 : Int)
        let z := ps.foldl (fun z p => match p with | .fin n m x => z + signedAt n m x x0 | _ => z) (0 : Int)
        if z = 0 then .fin (ps.all isNegZero) 0 0 else .fin (decide (z < 0)) z.natAbs x0
/-- One step of an accumulator. -/
def accStep (acc : Nat) (ps : List FVal) : Nat := (fAdd fmtF32 .rne 0 (fmtF32.decode acc) (groupSum ps)).bits

/-- An operand tile: elements, block scales (127 where the format has none), poison of each. -/
structure MTile where
  el  : List FVal
  elP : List Bool
  sc  : List Nat
  scP : List Bool
deriving DecidableEq, Repr
/-- The tile whose bytes stand at locations `at_`, in a format (R154); no element lies across two lines. -/
def readTile (m : Memory) (f : WFmt) (tab : List TEntry) (at_ : Nat → Nat) : MTile :=
  let w := f.bitsOf
  let code (n : Nat) : Nat := if w = 4 then m.nat (at_ (n / 2)) 1 / (if n % 2 = 0 then 1 else 16) % 16 else m.nat (at_ (n * w / 8)) (w / 8)
  let mx := decide (f = .e2m1)
  ⟨(List.range 1024).map fun n => toF19 f tab (code n),
   (List.range 1024).map fun n => m.pois (at_ (n * w / 8)) || (decide (f = .t8) && tpoi tab (code n)),
   (List.range 32).map fun j => if mx then m.nat (at_ (512 + j)) 1 else 127,
   (List.range 32).map fun j => mx && m.pois (at_ (512 + j))⟩
/-- Where byte j of the element at a ring's HEAD stands, stashed lines followed (R277). -/
def headByte (s : State) (g : Ring) (j : Nat) : Nat := padLoc s (g.off g.head.toNat + j)

/-- Element n of a tile. -/
def Tile.elt (t : Tile) (n : Nat) : Nat := (t.bits.extractLsb' (32 * n) 32).toNat
/-- A tile of 1,024 elements with their poison. -/
def mkTile (es : List (Nat × Bool)) (valid : Bool) : Tile :=
  ⟨BitVec.ofNat 32768 (packElems 32 (es.map (·.1))), BitVec.ofNat 1024 (packElems 1 (es.map fun e => if e.2 then 1 else 0)), valid⟩
/-- The products of element n for k from 4g on. -/
def groupOf (a b : MTile) (n g : Nat) : List FVal :=
  (List.range 4).map fun j =>
    let k := 4 * g + j
    mProd (a.el.getD (32 * (n / 32) + k) (.nan false)) (b.el.getD (32 * (n % 32) + k) (.nan false)) (a.sc.getD (n / 32) 127) (b.sc.getD (n % 32) 127)
/-- One tile pair accumulated. -/
def mmaPair (t : Tile) (a b : MTile) : Tile :=
  mkTile ((List.range 1024).map fun n =>
    let i := n / 32
    let j := n % 32
    let bad := (List.range 32).any fun k => a.elP.getD (32 * i + k) false || b.elP.getD (32 * j + k) false
    ((List.range 8).foldl (fun acc g => accStep acc (groupOf a b n g)) (t.elt n),
      t.poison.getLsbD n || bad || a.scP.getD i false || b.scP.getD j false)) true
def anyPoison (a b : MTile) : Bool := a.elP.any id || b.elP.any id || a.scP.any id || b.scP.any id

/-! The census (R400). -/

/-- Is an exact sum of two finite values not zero? -/
def sumNonzero : FVal → FVal → Bool
  | .fin n m x, .fin n' m' x' => decide (signedAt n m x (min x x') + signedAt n' m' x' (min x x') ≠ 0)
  | _, _ => false
/-- Group additions of element n that round a sum other than zero to a subnormal or to zero. -/
def underCount (acc : Nat) (a b : MTile) (n : Nat) : Nat :=
  ((List.range 8).foldl (fun (x : Nat × Nat) g =>
    let ps := groupOf a b n g
    let r := accStep x.1 ps
    (r, if sumNonzero (fmtF32.decode x.1) (groupSum ps) && decide (r / 2 ^ 23 % 256 = 0) then x.2 + 1 else x.2)) (acc, 0)).2
def isInf32 (x : Nat) : Bool := decide (x % 2 ^ 31 = 0x7F800000)
def isNan32 (x : Nat) : Bool := decide (0x7F800000 < x % 2 ^ 31)
/-- F32 operand elements that are finite and decode to Inf. -/
def satCount (m : Memory) (f : WFmt) (at_ : Nat → Nat) : Nat :=
  if f = .f32 then
    ((List.range 1024).filter fun n =>
      let c := m.nat (at_ (4 * n)) 4
      !isInf32 c && !isNan32 c && (match toF19 .f32 [] c with | .inf _ => true | _ => false)).length
  else 0
/-- The four counts of a pair: NAN, INF, SAT, UNDER. -/
def pairCounts (t t1 : Tile) (a b : MTile) (sat : Nat) : List Nat :=
  let es := List.range 1024
  [(es.filter fun n => isNan32 (t1.elt n) && !isNan32 (t.elt n)).length, (es.filter fun n => isInf32 (t1.elt n) && !isInf32 (t.elt n)).length,
   sat, es.foldl (fun x n => x + underCount (t.elt n) a b n) 0]
/-- Entries whose CSITE is the command's PC count; a count saturates. -/
def censusAdd (s : State) (pc : Word) (counts : List Nat) : State :=
  let d := s.cl.dbg
  let add (k : Fin 64) (row : Bank Nat 4) : Bank Nat 4 :=
    if d.csite.get k = pc then ⟨(List.range 4).map fun j => min (2 ^ 32 - 1) ((row.get (fin4 j)) + counts.getD j 0), by simp⟩ else row
  { s with cl := { s.cl with dbg := { d with census := ⟨(List.finRange 64).map fun k => add k (d.census.get k), by simp⟩ } } }
def watchedSite (s : State) (pc : Word) : Bool := s.cl.dbg.csite.items.contains pc

/-! The packets. -/

def fin2 (n : Nat) : Fin 2 := ⟨n % 2, Nat.mod_lt _ (by decide)⟩
/-- A command takes its place in the queue as its packet retires; it is eligible once its chunk has committed (R269). -/
def enqueue (s : State) (i : Instr) (op : MOp) : State :=
  let w := (encode i).getD (0, 0)
  let c : MCmd := ⟨op, s.ctl.cur, .slot s.ctl.cur, w.1, w.2.setWidth 32, false, s.me.pc, some s.me.cur.no⟩
  { s with core := { s.core with mq := s.core.mq ++ [c] } }.modMe fun t => { t with mtx := true }
/-- A matrix packet (R262, R269, R301): its causes; in an open region the region's fallback; room in the queue; then its chunk ends
with it, and the thread goes on. -/
def runMatrix (h : Hdr) (n : Names) (checks : State → List (Option PRes)) (act : State → State) (s : State) :
    Host.Outcome State Fault Refusal :=
  runPacket h { n with noGuest := true, far := .scalar } false
    (fun s => farGuard s h fun s => match causes (checks s) with
      | some r => r
      | none => regionStop s (if 8 ≤ s.core.mq.length then .replay s (.queue .matrix) else .ends (act s) none)) s
/-- The Ring Fault conditions of MMA (R271). -/
def tileRingBad (s : State) (r : RingN) : Bool :=
  let g := getRing s r
  !g.defd || decide (g.kind ≠ 2) || g.popb
/-- Why the thread's slot may not have the first n tiles of a ring read: their bytes lie in the bedroll area, or in stashed lines that
refuse (R314; log 86). -/
def tilesBad (s : State) (r : RingN) (n : Nat) : Option PRes :=
  let g := getRing s r
  ((List.range (min n g.cap)).findSome? fun k => elemBad s s.ctl.cur g (g.head.toNat + k) g.stride [permR]).map .trap
/-- MMA (R271). -/
def execMma (h : Hdr) (d : TileN) (a b : RingN) (n : BitVec 6) (s : State) : Host.Outcome State Fault Refusal :=
  runMatrix h .empty
    (fun s => [causeIf (tileRingBad s a) (ringFault a), causeIf (tileRingBad s b || decide (a = b)) (ringFault b),
      tilesBad s a (n.toNat + 1), tilesBad s b (n.toNat + 1)])
    (fun s => enqueue s (.mma h d a b n) (.mma d a b (n.toNat + 1) 0)) s
/-- MZERO (R272). -/
def execMzero (h : Hdr) (d : TileN) (s : State) : Host.Outcome State Fault Refusal :=
  runMatrix h .empty (fun _ => []) (fun s => enqueue s (.mzero h d) (.mzero d)) s
/-- The causes of MFILL and MDRAIN in R228's order (R272). -/
def tileChecks (s : State) (a : SReg) (r : BitVec 16) (ps : List Nat) (store : Bool) : List (Option PRes) :=
  let off := (s.s a).v
  [causeIf (s.s a).p (trapOf cPoison),
   causeIf (decide (off.toNat % 64 ≠ 0)) ⟨cMisaligned, off, auxOf r none⟩,
   spanBad s r off 4096 ps,
   breakAt s r off 4096 (!store) store none]
/-- MFILL (R272). -/
def execMfill (h : Hdr) (d : TileN) (a : SReg) (k : KReg) (s : State) : Host.Outcome State Fault Refusal :=
  runMatrix h (NS [a]) (fun s => tileChecks s a (s.k k) [permR] false)
    (fun s => enqueue (useRegs s [a]) (.mfill h d a k) (.mfill d ⟨s.me.space, s.k k, (s.s a).v⟩)) s
/-- MDRAIN (R272): the token goes to c. -/
def execMdrain (h : Hdr) (d : TileN) (a c : SReg) (k : KReg) (s : State) : Host.Outcome State Fault Refusal :=
  runMatrix h { NS [a] with dst := [c] } (fun s => tileChecks s a (s.k k) [permW] true)
    (fun s => (enqueue (useRegs s [a]) (.mdrain h d a c k) (.mdrain d ⟨s.me.space, s.k k, (s.s a).v⟩ s.ref)).farS c none 0 true) s

/-! Tile operations (R270 to R274). -/

def getTile (s : State) (d : TileN) : Tile := s.core.tiles.get (fin2 d.toNat)
def setTile (s : State) (d : TileN) (t : Tile) : State := { s with core := { s.core with tiles := s.core.tiles.set (fin2 d.toNat) t } }
/-- The head command has been applied. -/
def dropHead (s : State) : State := { s with core := { s.core with mq := s.core.mq.drop 1 } }
def modHead (s : State) (f : MCmd → MCmd) : State :=
  { s with core := { s.core with mq := match s.core.mq with | c :: cs => f c :: cs | [] => [] } }
/-- A poisoned input touches an element: the owner's CHECK counts the command once (R64). -/
def noteMatrix (s : State) (c : MCmd) : State :=
  if c.noted then s
  else
    let s1 := modHead s fun c => { c with noted := true }
    match c.owner with
    | .slot i => checkNow s1 i .matrix
    | .gone => mergeIntoLaunch s1 (CheckUpd.apply 0 .matrix)
    | .image n =>
      let put (m : Memory) (g : Image) : Memory :=
        let w := readWord m g.lines 20
        m.engineWord (imageAt g.lines 160) (leBytes 8 (w % 2 ^ 32 + 2 ^ 32 * (CheckUpd.apply (BitVec.ofNat 32 (w / 2 ^ 32)) .matrix).toNat)) false
      { s1 with mem := (s1.core.images.filter fun g => decide (g.id = n)).foldl put s1.mem }
/-- May the unit read a tile of the ring through its window as it stands (R271)? -/
def tileFmt (s : State) (g : Ring) : Option WFmt :=
  match fmtOf s g.win.toNat with
  | none => none
  | some f => if (f = .i8 ∨ f = .i16 ∨ f = .i32) ∨ f.tileBytes ≠ g.stride then none else some f
/-- Matrix Format Fault (R274, R318): the tile is invalid, the queue halted, an event names the command. -/
def formatFault (s : State) (c : MCmd) (d : TileN) (r : RingN) (pair : Nat) : State :=
  let g := getRing s r
  let aux := 2 ^ 3 * (pair % 64) + 2 ^ 9 * r.toNat + 2 ^ 14 * g.win.toNat + 2 ^ 17 * (s.cl.wfmt.get (fin8 g.win.toNat)).toNat + 2 ^ 21 * d.toNat
  let s1 := setTile s d { getTile s d with valid := false }
  { s1 with core := { s1.core with mqHalted := true } }.later [.eventEnqueue ⟨cMatrix, BitVec.ofNat 4 c.slot.val, 0, BitVec.ofNat 64 aux⟩]
/-- One pair of an MMA whose rings both hold an element. -/
def runPair (s : State) (c : MCmd) (d : TileN) (a b : RingN) (count done : Nat) : State :=
  let ga := getRing s a
  let gb := getRing s b
  match tileFmt s ga, tileFmt s gb with
  | none, _ => formatFault s c d a done
  | _, none => formatFault s c d b done
  | some fa, some fb =>
    let tab := s.core.table.items
    let ta := readTile s.mem fa tab (headByte s ga)
    let tb := readTile s.mem fb tab (headByte s gb)
    let t := getTile s d
    let s1 := if t.valid then
        let t1 := mmaPair t ta tb
        let sat := satCount s.mem fa (headByte s ga) + satCount s.mem fb (headByte s gb)
        let s2 := setTile s d t1
        let s3 := if watchedSite s c.pc then censusAdd s2 c.pc (pairCounts t t1 ta tb sat) else s2
        if anyPoison ta tb then noteMatrix s3 c else s3
      else s
    let s3 := popHead (popHead s1 a) b
    if done + 1 = count then dropHead s3 else modHead s3 fun c => { c with op := .mma d a b count (done + 1) }
/-- The words of a tile in memory order, two elements to a word (R272). -/
def tileWords (t : Tile) : List (List Byte × Bool) :=
  (List.range 512).map fun k =>
    (leBytes 8 (t.elt (2 * k) + 2 ^ 32 * t.elt (2 * k + 1)), t.poison.getLsbD (2 * k) || t.poison.getLsbD (2 * k + 1))
/-- Where the 512 words of a tile stand in memory; a translation that is under way or gone. The command translates once, at
its start, in one range, and does not start while an invalidation of its space is pending (R370; log 75). -/
def tileHome (s : State) (r : WordRef) (ps : List Nat) : XRes :=
  if invalPending s r.space then .miss r.va
  else if vaReach r.va = localReach then devAddrs s r.space ps r.va 4096
  else match devSpan s r.space ps r.va 4096 with
    | .wait => .miss r.va
    | .bad => .bad 0 (vaOff r.va)
    | .ok _ => devAddrs s r.space ps r.va 4096
/-- Engine writes of words, each at its own address, with the wakes that they cause (R238, R248); they are no conflicts
(R282). -/
def landWords (s : State) (by_ : Issuer) : List (Nat × List Byte × Bool) → State
  | [] => s
  | (a, d, p) :: ws =>
    let s1 := { s with mem := s.mem.engineWord a d p }
    landWords (wakeWaiter s1 by_ a) by_ ws
/-- The lines of words, and whether the host and other packages hold no copy of them (R284, R388). -/
def wordLines (ws : List (Nat × List Byte × Bool)) : List Nat :=
  ws.foldl (fun l x => if l.contains (x.1 / 64) then l else (x.1 / 64) :: l) []
def copiesGone (s : State) (ls : List Nat) : Bool := (heldByHost s ls).isEmpty && (heldAbroad s ls).isEmpty
/-- The first command of the queue, as far as one tile operation takes it. -/
def tileOp (s : State) (c : MCmd) : State :=
  match c.op with
  | .mzero d => dropHead (setTile s d ⟨0, 0, true⟩)
  | .mma d a b count done =>
    if (getRing s a).occ = 0 ∨ (getRing s b).occ = 0 then s else runPair s c d a b count done
  | .mfill d r => match tileHome s r [permR] with
    | .ok as =>
      let at_ (n : Nat) : Nat := as.getD (4 * n) 0
      let es := (List.range 1024).map fun n => (s.mem.nat (at_ n) 4, s.mem.pois (at_ n))
      let s1 := if es.any (·.2) then noteMatrix s c else s
      dropHead (setTile s1 d (mkTile es true))
    | .padMiss l => s.later [.padLineFill l]
    | .miss _ => s
    | .bad _ _ => dropHead s
  | .mdrain d r tok =>
    let t := getTile s d
    if !t.valid then dropHead (s.deliverToken tok 0 5 false)
    else match tileHome s r [permW] with
      | .ok as =>
        let ws := (List.range 512).zip (tileWords t) |>.map fun x => (as.getD (8 * x.1) 0, x.2.1, x.2.2)
        if copiesGone s (wordLines ws) then dropHead ((landWords s (.slot c.slot) ws).deliverToken tok 4096 0 (decide (t.poison ≠ 0)))
        else askOut s (wordLines ws)
      | .padMiss l => s.later [.padLineFill l]
      | .miss _ => s
      | .bad _ _ => dropHead (s.deliverToken tok 0 1 false)
/-- Does the queue stand: halted by a fault or with its core, or its partition swapped out (R274, R353, R398)? -/
def mqStands (s : State) : Bool := s.core.mqHalted || s.core.halted || s.core.contained || decide (s.part.swap = .out)
/-- MATRIX_TILE_OP (R269, R270): a head that is not eligible waits for its chunk. -/
def execMatrixTileOp (s : State) : Host.Outcome State Fault Refusal :=
  match s.core.mq with
  | [] => .next s
  | c :: _ => .next (if mqStands s || c.wait.isSome then s else tileOp s c)
/-- SKIP (R313): the faulting command goes, and the queue restarts. -/
def execSkip (s : State) : Host.Outcome State Fault Refusal :=
  if s.core.mqHalted then .next (dropHead { s with core := { s.core with mqHalted := false } }) else .next s
/-- RETRY (R313): the queue restarts with the faulting command at its head. -/
def execRetry (s : State) : Host.Outcome State Fault Refusal :=
  .next { s with core := { s.core with mqHalted := false } }

end Sys2Proof.Machine
end

