-- ==== Sys2Proof/Machine/Engines.lean ====
section
/-! DEFINITION. Stashed pad lines, the copy engine and the walkers (R244 to R251, R282, R314, R370, R371, R373, R379). -/
namespace Sys2Proof.Machine

/-! STASH, UNSTASH, FLUSH. -/

/-- Is a pad line of n bytes from p mapped by a span? -/
def stashed (s : State) (p n : Nat) : Bool := s.cl.spans.any fun x => decide (x.pad < p + n) && decide (p < x.pad + x.len)
/-- A cause at a pad offset. -/
def padCause (c : BitVec 8) (off : Word) : TrapInfo := ⟨c, off, auxOf localReach none⟩
/-- Causes 1 to 3 of R244: misalignment is named by the first operand that has it. -/
def stashEarly (a b c : SVal) (k0 : BitVec 16) : List (Option PRes) :=
  [causeIf (a.p || b.p || c.p) (trapOf cPoison),
   causeIf (decide (a.v.toNat % 64 ≠ 0)) (padCause cMisaligned a.v),
   causeIf (decide (b.v.toNat % 64 ≠ 0)) ⟨cMisaligned, b.v, auxOf k0 none⟩,
   causeIf (decide (c.v.toNat % 64 ≠ 0)) (padCause cMisaligned c.v),
   causeIf (decide (padSize < a.v.toNat + c.v.toNat)) (padCause cNoRange (if padSize ≤ a.v.toNat then a.v else 0x80000))]
/-- Does a pad span meet the bedroll area, which is closed to slots 0 to 14 (R314)? -/
def meetsBedroll (s : State) (p n : Nat) : Bool :=
  decide (s.ctl.cur ≠ ranger) && decide (bedrollFrames s ≠ 0) && decide (p < bedrollBase s + 1024 * bedrollFrames s) &&
    decide (bedrollBase s < p + n)
/-- Causes 4 and 5; an S(C) of 0 does nothing. -/
def stashLate (s : State) (a b c : SVal) : List (Option PRes) :=
  let n := c.v.toNat
  let p := a.v.toNat
  let k0 := s.k 0
  let okRange : Bool := match xSpan s s.ctl.cur s.me.space [permR] (vaOf k0 b.v) n with
    | .ok (some d) => d.stashOk
    | _ => false
  if n = 0 then []
  else [
    if b.v = 0 then none else spanBad s k0 b.v n [permR],
    causeIf (decide (b.v ≠ 0) && !okRange) ⟨cPermission, b.v, auxOf k0 none⟩,
    causeIf (meetsBedroll s p n) (padCause cPermission a.v),
    causeIf (stashed s p n || (decide (b.v ≠ 0) && decide (64 ≤ s.cl.spans.length))) (padCause cPermission a.v),
    if b.v = 0 then none else breakAt s k0 b.v n true true none]
/-- The map changes, or the lines become scratch again (R244). -/
def stashNow (s : State) (p : Nat) (g : WordRef) (n : Nat) : State :=
  if n = 0 then s
  else if g.off = 0 then { s with mem := s.mem.clear (padBase + p) (n / 8) }
  else { s with cl := { s.cl with spans := s.cl.spans ++ [⟨p, n, g, []⟩] } }
/-- STASH (R244). -/
def execStash (h : Hdr) (a b c : SReg) (s : State) : Host.Outcome State Fault Refusal :=
  runPacket h (NF [a, b, c]) false
    (fun s => ender s h (fun s => causes (stashEarly (s.s a) (s.s b) (s.s c) (s.k 0) ++ stashLate s (s.s a) (s.s b) (s.s c)))
      fun s => .own (stashNow (useRegs s [a, b, c]) (s.s a).v.toNat ⟨s.me.space, s.k 0, (s.s b).v⟩ (s.s c).v.toNat) none) s

/-- The span that begins at a pad offset. -/
def spanFrom (s : State) (off : Word) : Option Span := s.cl.spans.find? fun x => decide (x.pad = off.toNat)
/-- UNSTASH (R245): the lines are anonymous, zero and full from here on; the pad's walker writes the token. -/
def execUnstash (h : Hdr) (d a : SReg) (s : State) : Host.Outcome State Fault Refusal :=
  runPacket h { N1 d a with far := .scalar } false
    (fun s => ender s h
      (fun s => causes [
        causeIf (s.s a).p (trapOf cPoison),
        causeIf (match spanFrom s (s.s a).v with | some x => meetsBedroll s x.pad x.len | none => true) (padCause cPermission (s.s a).v)])
      fun s => match spanFrom s (s.s a).v with
        | none => .own s none
        | some sp =>
          let s1 := useRegs s [a]
          let s2 := { s1 with
            mem := s1.mem.clear (padBase + sp.pad) (sp.len / 8)
            cl := { s1.cl with spans := s1.cl.spans.filter fun x => decide (x.pad ≠ sp.pad) } }
          .own ((s2.later [.walkerRun (.unstash s.ref sp.global sp.len)]).farS d none 0 true) none) s
/-- FLUSH (R246). -/
def execFlush (h : Hdr) (d a b : SReg) (k : KReg) (s : State) : Host.Outcome State Fault Refusal :=
  runPacket h { N2 d a b with far := .scalar } false
    (fun s => ender s h
      (fun s => causes [
        causeIf ((s.s a).p || (s.s b).p) (trapOf cPoison),
        spanAccess s (s.k k) (s.s a).v (s.s b).v.toNat [permR]])
      fun s => .own (((useRegs s [a, b]).later
        [.walkerRun (.flush s.ref ⟨s.me.space, s.k k, (s.s a).v⟩ (s.s b).v.toNat)]).farS d none 0 true) none) s
/-- The offset in a range that an address has under a physical base: Place of R362 turned round. -/
def unplace (d : RangeDesc) (p a : Nat) : Nat :=
  match d.place with
  | 1 =>
    let y := a % 2 ^ 40 % 0x3000000000 - p % 2 ^ 40
    4096 * (4 * (y / 4096) + a % 2 ^ 40 / 0x3000000000) + y % 4096
  | 2 => a - hostBase - p
  | _ => a - p
/-- Does a range place one of the addresses from lo to hi − 1 at a physical one? -/
def spanHolds (d : RangeDesc) (lo hi a : Nat) : Bool :=
  [d.phys, d.newPhys].any fun p =>
    let va := d.base + unplace d p a
    decide (lo ≤ va) && decide (va < hi) && decide (placeAddr d va = a)
/-- Does a walker's span hold the memory at an address: through a range, or the stashed lines behind a span of the pad (R246)? -/
def walkCovers (s : State) (r : WordRef) (n a : Nat) : Bool :=
  if r.reach = localReach then
    let p := ((padOff r.off).map (·.1)).getD 0
    s.cl.spans.any fun x => x.filled.any fun f =>
      decide (f.2.1 = a / 64) && decide (64 * f.1 < p + n) && decide (p < 64 * f.1 + 64)
  else match walk s r.space r.va with
    | .found d _ => spanHolds d r.va (r.va + n) a
    | _ => false
/-- Is a committed store to a span's memory still on its way to the host or to another package (R245, R246)? -/
def storesOut (s : State) (r : WordRef) (n : Nat) : Bool :=
  allSlots.any fun i => ((s.th i).pend ++ (s.th i).sent).any fun o => walkCovers s r n o.addr
/-- The walk of a span: what was stored before it has reached its memory, then the token. Which lines were dirty is not told (log 7),
so where a word is poisoned a free value says whether it was among those written back (R247). -/
def walkSpan (s : State) (cmd : WalkCmd) (tok : FarRef) (r : WordRef) (n : Nat) : State :=
  if storesOut s r n then s.later [.walkerRun cmd]
  else if s.mem.poison.any fun w => walkCovers s r n (8 * w) then
    let f := s.fresh
    f.2.deliverToken tok n 0 (f.1.getLsbD 0)
  else s.deliverToken tok n 0 false
/-- A walker's command (R245, R246, R370). -/
def walkerDone (s : State) (cmd : WalkCmd) (tok : FarRef) (base : WordRef) (n : Nat) : State :=
  if n = 0 then s.deliverToken tok 0 0 false
  else if invalPending s base.space then s.later [.walkerRun cmd]
  else match devSpan s base.space [permR] base.va n with
    | .ok _ => walkSpan s cmd tok base n
    | .wait => s.later [.walkerRun cmd]
    | .bad => s.deliverToken tok 0 1 false
/-- WALKER_RUN (R245, R246, R370). -/
def execWalkerRun (cmd : WalkCmd) (s : State) : Host.Outcome State Fault Refusal :=
  match cmd with
  | .unstash tok base n => .next (walkerDone s cmd tok base n)
  | .flush tok base n => .next (walkerDone s cmd tok base n)
/-- The words of a line become full (R236). -/
def fullLine (m : Memory) (line : Nat) : Memory := (List.range 8).foldl (fun m k => m.setFull (64 * line + 8 * k) true) m
/-- A pad line fills from a global line, with W or without; its words take the state of the global words, or are full where the range
has no SYNC (R236, R244). -/
def fillPad (s : State) (sp : Span) (line g : Nat) (w sync : Bool) : State :=
  { s with
    mem := if sync then s.mem else fullLine s.mem g
    cl := { s.cl with spans := s.cl.spans.map fun x =>
      if x.pad = sp.pad then { x with filled := (line, g, w) :: x.filled.filter fun y => decide (y.1 ≠ line) } else x } }
/-- PAD_LINE_FILL (R244, R371): the line fills through the table as it stands, W with it. -/
def execPadLineFill (line : Nat) (s : State) : Host.Outcome State Fault Refusal :=
  match spanAt s (64 * line) with
  | none => .next s
  | some sp =>
    let va := sp.behind (64 * line)
    if invalPending s sp.global.space then .next (s.later [.padLineFill line])
    else match memByte s sp.global.space va [permR] with
      | .ok a sync => .next (fillPad s sp line (a / 64) (match memByte s sp.global.space va [permW] with | .ok _ _ => true | _ => false) sync)
      | .bad _ => .next s
      | _ => .next (s.later [.padLineFill line])

/-! COPY and MCAST. -/

/-- A command just accepted. -/
def engNew (op : EngOp) (ref : FarRef) : EngCmd := ⟨op, ref, 0, false, false, false, none, (0, 0), [], none, 0, false⟩
/-- The queue takes a command, and its token is owed (R247, R251). -/
def engAccept (s : State) (d : SReg) (op : EngOp) : State :=
  { s with cl := { s.cl with engq := s.cl.engq ++ [engNew op s.ref] } }.farS d none 0 true
/-- A COPY descriptor: row length, rows, steps; does it keep the limits of R249? -/
def copyDesc (m : Memory) (as : List Nat) (ring : Bool) : (Nat × Nat × Int × Int) × Bool :=
  let f (k : Nat) : Nat := leNat (m.gather ((as.drop (8 * k)).take 8))
  let rl := f 0
  let n := f 1
  (⟨rl, n, (BitVec.ofNat 64 (f 2)).toInt, (BitVec.ofNat 64 (f 3)).toInt⟩,
    decide (rl ≠ 0) && decide (rl % 8 = 0) && decide (1 ≤ n) && decide (n ≤ 2 ^ 32) && decide (f 2 % 8 = 0) &&
      (ring || decide (f 3 % 8 = 0)) && decide (rl * n < 2 ^ 40) && !m.gatherP as)
/-- The row length that checks 3 and 4 of a COPY use: none where the descriptor breaks its limits. -/
inductive RowLen where
  | ok (n : Option Nat)
  | stop (r : PRes)
def rowLen (s : State) (c : SVal) (desc ring : Bool) : RowLen :=
  if !desc then .ok (some c.v.toNat)
  else match spanBad s (s.k 0) c.v 32 [permR] with
    | some r => .stop r
    | none => match translated s (s.k 0) c.v 32 [permR] none with
      | .stop r => .stop r
      | .ok as =>
        let d := copyDesc (viewMem s s.ctl.cur) as ring
        .ok (if d.2 then some d.1.1 else none)
/-- Check 4 of COPY: the ring is defined, and the length is a multiple of its element, one tile of the window's format as it stands
for a tile ring (R249). -/
def copyRingBad (s : State) (r : RingN) (n : Nat) : Bool :=
  let g := getRing s r
  let e := strideOf (fmtOf s g.win.toNat) g.kind.toNat
  !g.defd || decide (e = 0) || decide (n % e ≠ 0)
/-- Does the engine refuse a length for its ring: no whole number of the slots that the ring was defined with (log 52)? -/
def ringLenBad (s : State) (ring : Option RingN) (n : Nat) : Bool :=
  match ring with
  | some r => !(getRing s r).defd || decide (n % (getRing s r).stride ≠ 0)
  | none => false
/-- A check of a span of rows that may be unknown. -/
def spanIf (s : State) (r : BitVec 16) (off : Word) (n : Option Nat) (ps : List Nat) : Option PRes :=
  match n with | some k => spanBad s r off k ps | none => none
def breakIf (s : State) (r : BitVec 16) (off : Word) (n : Option Nat) : Option PRes :=
  match n with | some k => breakAt s r off k true true none | none => none
/-- The checks of COPY in their order (R249), data breakpoints last. -/
def copyChecks (s : State) (a : SReg) (b : SReg) (c : SReg) (desc ring : Bool) : Option PRes :=
  let A := (s.s a).v
  let B := (s.s b).v
  let C := (s.s c).v
  match causes [
    causeIf ((s.s a).p || (!ring && (s.s b).p) || (s.s c).p) (trapOf cPoison),
    causeIf (decide (A.toNat % 8 ≠ 0)) ⟨cMisaligned, A, auxOf (s.k 0) none⟩,
    causeIf (!ring && decide (B.toNat % 8 ≠ 0)) ⟨cMisaligned, B, auxOf (s.k 1) none⟩,
    causeIf (decide (C.toNat % (if desc then 32 else 8) ≠ 0)) ⟨cMisaligned, C, auxOf (s.k 0) none⟩] with
  | some r => some r
  | none => match rowLen s (s.s c) desc ring with
    | .stop r => some r
    | .ok n => causes [
        spanIf s (s.k 0) A n [permR, permE],
        if ring then none else spanIf s (s.k 1) B n [permW, permE],
        causeIf (ring && copyRingBad s b (n.getD 0)) (ringFault b),
        if desc then breakAt s (s.k 0) C 32 true true none else none,
        breakIf s (s.k 0) A n,
        if ring then none else breakIf s (s.k 1) B n]
/-- COPY (R249, R251). -/
def execCopy (h : Hdr) (d a b c : SReg) (desc ring : Bool) (s : State) : Host.Outcome State Fault Refusal :=
  let used : List SReg := if ring then [a, c] else [a, b, c]
  runPacket h { NF used with dst := [d] } false
    (fun s => farGuard s h fun s => match copyChecks s a b c desc ring with
      | some r => r
      | none =>
        regionStop s (if 16 ≤ s.cl.engq.length then .replay s (.queue .engine) else commitWait s fun s =>
          let w (r : SReg) (k : KReg) : WordRef := ⟨s.me.space, s.k k, (s.s r).v⟩
          .own (engAccept (useRegs s used) d (.copy (w a 0) (w b 1) (if ring then some b else none)
            (if desc then some (w c 0) else none) (if desc then 0 else (s.s c).v.toNat))) none)) s

/-- Bytes of the unit of an MCAST (R250): a tile of the window of the pad offset, or an element of the ring. -/
def mcastUnit (s : State) (b : SReg) (ring : Bool) : Nat :=
  if ring then (if (getRing s b).defd then (getRing s b).stride else 0)
  else match padOff (s.s b).v with
    | some (_, w) => ((fmtOf s w).map WFmt.tileBytes).getD 0
    | none => 0
/-- A pad span of MCAST: an offset that is none, or a unit that passes 512 KiB (R229, R250). -/
def mcastPad (off : Word) (n : Nat) : Option PRes :=
  match padOff off with
  | none => some (.trap (padCause cNoRange off))
  | some (p, _) => causeIf (decide (padSize < p + n)) (padCause cNoRange (off + BitVec.ofNat 64 (padSize - p)))
/-- The checks of MCAST in R228's order. -/
def mcastChecks (s : State) (a b c : SReg) (ring : Bool) : Option PRes :=
  let A := (s.s a).v
  let B := (s.s b).v
  let n := mcastUnit s b ring
  causes [
    causeIf ((s.s a).p || (!ring && (s.s b).p) || (s.s c).p) (trapOf cPoison),
    causeIf (decide (A.toNat % 64 ≠ 0)) ⟨cMisaligned, A, auxOf (s.k 0) none⟩,
    causeIf (!ring && decide (B.toNat % 64 ≠ 0)) (padCause cMisaligned B),
    if ring then none else mcastPad B n,
    spanBad s (s.k 0) A n [permR, permE],
    causeIf (ring && !(getRing s b).defd) (ringFault b),
    causeIf (!ring && decide (n = 0)) (trapOf cIllegal),
    breakAt s (s.k 0) A n true true none]
/-- MCAST (R250, R251). -/
def execMcast (h : Hdr) (d a b c : SReg) (ring : Bool) (s : State) : Host.Outcome State Fault Refusal :=
  let used : List SReg := if ring then [a, c] else [a, b, c]
  runPacket h { NF used with dst := [d] } false
    (fun s => farGuard s h fun s => match mcastChecks s a b c ring with
      | some r => r
      | none =>
        regionStop s (if 16 ≤ s.cl.engq.length then .replay s (.queue .engine) else commitWait s fun s =>
          .own (engAccept (useRegs s used) d (.mcast ⟨s.me.space, s.k 0, (s.s a).v⟩ (if ring then some b else none)
            (((padOff (s.s b).v).map (·.1)).getD 0) (mcastUnit s b ring) (getRing s b).kind (s.s c).v)) none)) s

/-! The engine at work. -/

def modEng (s : State) (f : EngCmd → EngCmd) : State :=
  { s with cl := { s.cl with engq := match s.cl.engq with | c :: cs => f c :: cs | [] => [] } }
/-- The head command ends: its token is written, the next one may start. -/
def engEnd (s : State) (c : EngCmd) (status : Nat) : State :=
  { s with cl := { s.cl with engq := s.cl.engq.drop 1 } }.deliverToken c.ref c.done status c.poison
def EngOp.src : EngOp → WordRef
  | .copy a _ _ _ _ => a
  | .mcast a _ _ _ _ _ => a
/-- Position of the next byte to read. -/
def EngCmd.pos (c : EngCmd) : Nat :=
  match c.op with
  | .copy _ _ _ _ _ => c.done + 8 * c.buf.length
  | .mcast _ _ _ _ _ _ => c.done
/-- Row length, rows and steps; a linear command is one row. -/
def EngCmd.shape (c : EngCmd) : Nat × Nat × Int × Int := c.rows.getD (0, 0, 0, 0)
def EngCmd.total (c : EngCmd) : Nat := c.shape.1 * c.shape.2.1
/-- The address of a byte of a row, rows starting at r with a step. -/
def rowVa (r : WordRef) (step : Int) (row off : Nat) : Nat :=
  vaOf r.reach (r.off + BitVec.ofInt 64 ((row : Int) * step) + BitVec.ofNat 64 off)
/-- Source and destination addresses of a byte of a row; a ring has no destination address. -/
def EngCmd.srcVa (c : EngCmd) (row off : Nat) : Nat := rowVa c.op.src c.shape.2.2.1 row off
def EngCmd.dst (c : EngCmd) : Option WordRef :=
  match c.op with
  | .copy _ b none _ _ => some b
  | _ => none
def EngCmd.dstVa (c : EngCmd) (b : WordRef) (row off : Nat) : Nat := rowVa b c.shape.2.2.2 row off

/-- Pieces of rows with their translations: all in the range that holds the anchor (R249). -/
def piecesIn (s : State) (space : BitVec 16) (ps : List Nat) (anchor : Nat) : List (Nat × Nat) → DSpan
  | [] => .ok 0
  | (va, n) :: rest =>
    match devSpan s space ps va n, devSpan s space ps anchor 1 with
    | .ok a, .ok b => if a = b then piecesIn s space ps anchor rest else .bad
    | .bad, _ => .bad
    | _, .bad => .bad
    | _, _ => .wait
/-- The pieces still to be read or written: the rest of the row, and after a pause the later rows too, of which the next and
the last bound the others. -/
def EngCmd.pieces (c : EngCmd) (all : Bool) (va : Nat → Nat → Nat) : List (Nat × Nat) :=
  let rl := c.shape.1
  let n := c.shape.2.1
  let row := c.pos / rl
  let off := c.pos % rl
  (va row off, rl - off) :: (if all && decide (row + 1 < n) then [(va (row + 1) 0, rl), (va (n - 1) 0, rl)] else [])
/-- The translations of a command as they stand now. -/
def engValid (s : State) (c : EngCmd) (all : Bool) : DSpan :=
  match piecesIn s c.op.src.space [permR, permE] c.anchor.1 (c.pieces all c.srcVa) with
  | .ok _ => (match c.dst with
    | none => .ok 0
    | some b => piecesIn s b.space [permW, permE] c.anchor.2 (c.pieces all (c.dstVa b)))
  | r => r
/-- The anchors are the command's present place. -/
def EngCmd.anchored (c : EngCmd) : EngCmd :=
  let rl := c.shape.1
  let row := c.pos / rl
  let off := c.pos % rl
  { c with anchor := (c.srcVa row off, match c.dst with | some b => c.dstVa b row off | none => 0) }
/-- What a translation of the head command leads to. -/
def engChecked (s : State) (c : EngCmd) (all : Bool) : State :=
  match engValid s c all with
  | .ok _ => modEng s fun _ => { c with check := false, paused := false }
  | .wait => s
  | .bad => engEnd s c 1

/-- A command is taken up (R249, R250): its length, or its descriptor. -/
def engStart (s : State) (c : EngCmd) (rows : Nat × Nat × Int × Int) : State :=
  modEng s fun _ => { ({ c with rows := some rows } : EngCmd).anchored with check := true }
def engBegin (s : State) (c : EngCmd) : State :=
  match c.op with
  | .mcast _ _ _ n _ mask => if mask = 0 then engEnd s c 0 else engStart s c (n, 1, 0, 0)
  | .copy _ _ ring none n =>
    if decide (2 ^ 40 ≤ n) || ringLenBad s ring n then engEnd s c 4
    else if n = 0 then engEnd s c 0 else engStart s c (n, 1, 0, 0)
  | .copy _ _ ring (some d) _ =>
    match devAddrs s d.space [permR] d.va 32 with
    | .ok as =>
      let x := copyDesc s.mem as ring.isSome
      if !x.2 || ringLenBad s ring x.1.1 then engEnd s c 4 else engStart s c x.1
    | .padMiss l => s.later [.padLineFill l]
    | .miss _ => s
    | .bad _ _ => engEnd s c 1

/-- One word's address for the engine: there, or how the command goes on. -/
inductive EngAt where
  | ok (a : Nat)
  | go (s : State)
def engAddr (s : State) (c : EngCmd) (space : BitVec 16) (va : Nat) (ps : List Nat) : EngAt :=
  match devByte s space va ps with
  | .ok a _ => .ok a
  | .miss => .go s
  | .padMiss l => .go (s.later [.padLineFill l])
  | .bad _ => .go (engEnd s c 1)
/-- The word at an address, with its poison. -/
def wordAt (m : Memory) (a : Nat) : List Byte × Bool := (m.bytes a 8, m.pois a)
/-- A word has moved on to position p: a new row and every 64 KiB are translated again, while bytes are left (R249, R370). -/
def EngCmd.moved (c : EngCmd) (p : Nat) : EngCmd :=
  { c with check := decide (p < c.total) && (decide (p % 65536 = 0) || decide (p % c.shape.1 = 0)) }
/-- The head command has moved; a COPY that has moved everything ends. -/
def engMoved (s : State) (c : EngCmd) : State :=
  if c.done = c.total then engEnd s c 0 else modEng s fun _ => c
/-- The words of an element with the places of a ring's next slot, stashed lines followed (R277). -/
def slotWords (s : State) (g : Ring) (ws : List (List Byte × Bool)) : List (Nat × List Byte × Bool) :=
  (List.range ws.length).zip ws |>.map fun x => (padLoc s (g.off g.tail.toNat + 8 * x.1), x.2.1, x.2.2)
/-- An engine's push (R249, R268, R282): the words land, then the tail advances; ENG is set. -/
def engPush (s : State) (by_ : Issuer) (r : RingN) (ws : List (List Byte × Bool)) (end_ : Bool) : State :=
  let g := getRing s r
  let k := g.slotOf g.tail.toNat
  let s1 := landWords s by_ (slotWords s g ws)
  setRing s1 r { g with tail := g.tail + 1, ends := if end_ then setIns g.ends k else setDel g.ends k, engs := setIns g.engs k }
/-- Is a ring's next slot closed to engines: bytes of the bedroll area, or a stashed line that refuses (R249, R314)? -/
def slotClosed (s : State) (g : Ring) : Bool := (padFirstBad s 0 [permW] (g.off g.tail.toNat) g.stride).isSome
/-- Must a push wait: the ring is full, or its definition is pending? -/
def pushWaits (g : Ring) : Bool := g.pendDef.isSome || decide (g.room = 0)
/-- A full element leaves for its ring, and the command becomes c1. -/
def engElem (s : State) (c c1 : EngCmd) (r : RingN) (end_ : Bool) : State :=
  let g := getRing s r
  let ls := wordLines (slotWords s g c.buf)
  if g.broken then engEnd s c 2
  else if pushWaits g then s
  else if slotClosed s g then engEnd s c 1
  else if !copiesGone s ls then askOut s ls
  else modEng (engPush s (.slot c.ref.slot) r c.buf end_) fun _ => c1
/-- One word of a COPY. -/
def copyWord (s : State) (c : EngCmd) (a b : WordRef) (ring : Option RingN) : State :=
  let rl := c.shape.1
  let row := c.pos / rl
  let off := c.pos % rl
  match engAddr s c a.space (c.srcVa row off) [permR, permE] with
  | .go s1 => s1
  | .ok x =>
    let w := wordAt s.mem x
    match ring with
    | some _ => modEng s fun _ => { c with buf := c.buf ++ [w], poison := c.poison || w.2 }.moved (c.pos + 8)
    | none => match engAddr s c b.space (c.dstVa b row off) [permW, permE] with
      | .go s1 => s1
      | .ok y =>
        if !copiesGone s [y / 64] then askOut s [y / 64]
        else engMoved (landWords s (.slot c.ref.slot) [(y, w.1, w.2)]) ({ c with done := c.done + 8, poison := c.poison || w.2 }.moved (c.pos + 8))
/-- The next word, or the element that is full. -/
def copyRun (s : State) (c : EngCmd) (a b : WordRef) (ring : Option RingN) : State :=
  match ring with
  | some r =>
    let n := (getRing s r).stride
    if 8 * c.buf.length ≠ n then copyWord s c a b ring
    else
      let c1 := { c with done := c.done + n, buf := [] }
      engElem s c c1 r (decide (c1.done = c1.total))
  | none => copyWord s c a b ring

/-- The cluster of this core within its site. -/
def myCluster (s : State) : Nat := s.core.id.toNat / 8 % 64
def maskBits (m : Word) : List Nat := (List.range 64).filter fun i => m.getLsbD i
/-- The first core of cluster i of this core's site. -/
def clusterOf (s : State) (i : Nat) : CoreId := BitVec.ofNat 14 (s.core.id.toNat / 512 * 512 + 8 * i)
/-- The unit reaches the first cluster left (R250): none outside the partition; whether another cluster's ring takes it is its own
matter: a free value decides (log 1). -/
def mcastGive (s : State) (c : EngCmd) (ring : Option RingN) (pad n : Nat) (kind : BitVec 2) (i : Nat) (rest : List Nat) : State :=
  let bytes := c.buf.flatMap (·.1)
  let ps := c.buf.map (·.2)
  let who : Waiter := ⟨s.core.id, c.ref.slot⟩
  let served (c : EngCmd) : EngCmd := { c with left := some rest, at_ := 0 }
  if !inPartition s (clusterOf s i) then modEng s fun _ => served { c with refused := true }
  else if i ≠ myCluster s then
    match ring with
    | none => modEng (s.send (.pad i who pad bytes ps)) fun _ => served c
    | some r =>
      let f := s.fresh
      if f.1.getLsbD 0 then modEng f.2 fun _ => served { c with refused := true }
      else modEng (f.2.send (.ringPush i who r kind bytes ps)) fun _ => served c
  else match ring with
    | none =>
      if 8 * c.at_ = n then modEng s fun _ => served c
      else match engAddr s c 0 (vaOf localReach (BitVec.ofNat 64 (pad + 8 * c.at_))) [permW] with
        | .go s1 => s1
        | .ok y =>
          let w := c.buf.getD c.at_ ([], false)
          if !copiesGone s [y / 64] then askOut s [y / 64]
          else modEng (landWords s (.slot c.ref.slot) [(y, w.1, w.2)]) fun _ => { c with at_ := c.at_ + 1 }
    | some r =>
      if !(getRing s r).defd || decide ((getRing s r).kind ≠ kind) then modEng s fun _ => served { c with refused := true }
      else engElem s c (served c) r false
/-- One word fetched, or one cluster served. -/
def mcastRun (s : State) (c : EngCmd) (a : WordRef) (ring : Option RingN) (pad n : Nat) (kind : BitVec 2) (mask : Word) : State :=
  if c.done < n then
    match engAddr s c a.space (c.srcVa 0 c.done) [permR, permE] with
    | .go s1 => s1
    | .ok x => let w := wordAt s.mem x
               modEng s fun _ => { c with buf := c.buf ++ [w], poison := c.poison || w.2, done := c.done + 8 }
  else match c.left with
    | none => modEng s fun _ => { c with left := some (maskBits mask) }
    | some [] => engEnd s c (if c.refused then 3 else 0)
    | some (i :: rest) => mcastGive s c ring pad n kind i rest

/-- Is the engine frozen: by a cross-trigger, or with its partition swapped out (R353, R398)? -/
def engFrozen (s : State) : Bool := s.cl.dbg.halted || decide (s.part.swap = .out)
/-- The head command, the first accepted, takes one word further; a COPY that has moved everything ends. -/
def engRun (s : State) (c : EngCmd) : State :=
  if engFrozen s || c.check || c.paused then s
  else if invalPending s c.op.src.space then modEng s fun _ => { c with paused := true }
  else if c.rows.isNone then engBegin s c
  else match c.op with
    | .copy a b ring _ _ => if c.done = c.total then engEnd s c 0 else copyRun s c a b ring
    | .mcast a ring pad n kind mask => mcastRun s c a ring pad n kind mask
/-- Bytes and poison of a unit as words. -/
def unitWords (data : List Byte) (p : List Bool) : List (List Byte × Bool) :=
  (List.range (data.length / 8)).map fun k => ((data.drop (8 * k)).take 8, p.getD k false)
/-- A unit that another cluster's engine delivers (R250, R311): into the pad; or into a ring of its kind, where it waits for room. What
this cluster refuses, the sender's STATUS says (log 1). Has it landed, or must it wait? -/
def engArrives (s : State) (arr : EngArrival) : Bool × State :=
  match arr with
  | .pad who off data p =>
    let ws := (List.range (data.length / 8)).zip (unitWords data p) |>.map fun x => (padLoc s (off + 8 * x.1), x.2.1, x.2.2)
    if (padFirstBad s 0 [permW] off data.length).isSome then (true, s)
    else if copiesGone s (wordLines ws) then (true, landWords s (.core who) ws)
    else (false, askOut s (wordLines ws))
  | .ring who r kind data p =>
    let g := getRing s r
    let ws := unitWords data p
    let ls := wordLines (slotWords s g ws)
    if !g.defd || decide (g.kind ≠ kind) || decide (g.stride ≠ data.length) || g.broken then (true, s)
    else if pushWaits g then (false, s)
    else if slotClosed s g then (true, s)
    else if copiesGone s ls then (true, engPush s (.core who) r ws false)
    else (false, askOut s ls)
/-- Do two units go to one place whose order shows: a ring, or the pad? -/
def samePlace : EngArrival → EngArrival → Bool
  | .pad _ _ _ _, .pad _ _ _ _ => true
  | .ring _ r _ _ _, .ring _ q _ _ _ => decide (r = q)
  | _, _ => false
/-- The first unit that can land, behind those that wait; none passes an earlier one of its place. -/
def landUnits (s : State) (waiting : List EngArrival) : List EngArrival → Bool × State
  | [] => (false, s)
  | u :: us =>
    if waiting.any (samePlace u) then landUnits s (waiting ++ [u]) us
    else
      let r := engArrives s u
      if r.1 then (true, { r.2 with cl := { r.2.cl with units := waiting ++ us } }) else landUnits r.2 (waiting ++ [u]) us
/-- ENGINE_COMMAND_RUN (R249 to R251, R311, R373): a unit from another cluster lands, or this cluster's first command goes on. -/
def execEngineCommandRun (s : State) : Host.Outcome State Fault Refusal :=
  let r := landUnits s [] s.cl.units
  .next (if r.1 then r.2 else match r.2.cl.engq with
    | [] => r.2
    | c :: _ => engRun r.2 c)
/-- ENGINE_REVALIDATE (R370). -/
def execEngineRevalidate (s : State) : Host.Outcome State Fault Refusal :=
  match s.cl.engq with
  | [] => .next s
  | c :: _ =>
    if !c.check || c.paused || engFrozen s then .next s
    else if invalPending s c.op.src.space then .next (modEng s fun _ => { c with paused := true })
    else .next (engChecked s c false)
/-- ENGINE_RESUME (R373): the remaining span is translated again. -/
def execEngineResume (s : State) : Host.Outcome State Fault Refusal :=
  match s.cl.engq with
  | [] => .next s
  | c :: _ =>
    if !c.paused || engFrozen s || invalPending s c.op.src.space then .next s
    else if c.rows.isNone then .next (modEng s fun _ => { c with paused := false })
    else if c.left.isSome then .next (modEng s fun _ => { c with paused := false, check := false })
    else .next (engChecked s c.anchored true)

/-- Every command of a failed engine or walker writes STATUS 9 (R379). -/
def walkerTok : WalkCmd → FarRef
  | .unstash t _ _ => t
  | .flush t _ _ => t
def walkCmds (l : List Instr) : List WalkCmd := l.filterMap fun e => match e with | .walkerRun c => some c | _ => none
/-- ENGINE_RESET (R379). -/
def execEngineReset (walker : Bool) (s : State) : Host.Outcome State Fault Refusal :=
  if walker then
    let s1 := (walkCmds s.agenda).foldl (fun (s : State) c => s.deliverToken (walkerTok c) 0 9 false) s
    .next { s1 with agenda := s1.agenda.filter fun e => match e with | .walkerRun _ => false | _ => true }
  else
    .next (s.cl.engq.foldl (fun (s : State) c => s.deliverToken c.ref c.done 9 c.poison) { s with cl := { s.cl with engq := [] } })

end Sys2Proof.Machine
end

