-- ==== Sys2Proof/Machine/System.lean ====
section
/-! DEFINITION. The ranger: how work reaches it (R316 to R319), handler exit (R327, R328), privileged registers (R313, R329,
R330, R304), restarting and ending threads (R331, R332), WAKEF, DBGHALT, CREDSYNC (R339 to R341), and the steps that go with
them. -/
namespace Sys2Proof.Machine

/-! Work for the ranger (R316, R319). -/

/-- IRQPEND: the timer's bit stands while TIMEB ≥ TIMERCMP (R319). -/
def irqPend (s : State) : BitVec 5 :=
  let p := s.core.priv
  (p.irqpend &&& 0x1E) ||| (if p.timercmp.toNat ≤ s.pkg.timeb.toNat then 1 else 0)
/-- Pending and enabled. -/
def irqReady (s : State) (k : Nat) : Bool := (irqPend s &&& s.core.priv.irqmask).getLsbD k
/-- May the trap of a slot be delivered: the chunks before it have committed (R278, R297)? -/
def trapReady (s : State) (i : SlotN) : Bool :=
  (match (s.slot i).trap with | some r => r.fresh | none => false) && decide ((s.th i).ended = []) && (s.th i).sync.isNone && !killing s i

/-- An item of ranger work. -/
inductive Item where
  | irq (k : Nat)
  | trap (i : SlotN) (r : TrapRec)
  | event (e : EventRec)
/-- The item chosen (R316). -/
def pendingItem (s : State) : Option Item :=
  if irqReady s 1 then some (.irq 1)
  else match allSlots.find? (trapReady s) with
    | some i => (s.slot i).trap.map (.trap i)
    | none => match [0, 2, 3, 4].find? (irqReady s) with
      | some k => some (.irq k)
      | none => s.core.events.head?.map .event
/-- TRAPCAUSE (R313). -/
def causeWord (cause : Nat) (slot kind : Nat) : BitVec 14 := BitVec.ofNat 14 (cause + 2 ^ 8 * slot + 2 ^ 12 * kind)
/-- The registers of R316 loaded with an item. -/
def loadItem (s : State) (x : Item) : State :=
  match x with
  | .irq k => s.modPriv fun p => { p with cause := causeWord (0x20 + k) 15 2, pc := 0, fromPc := 0, info := 0, aux := 0, handling := true }
  | .trap i r =>
    let s1 := s.modPriv fun p => { p with
      cause := causeWord r.t.cause.toNat i.val 0, pc := r.pc, fromPc := r.from_, info := r.t.info, aux := r.t.aux, handling := true }
    s1.setSlot i { s1.slot i with trap := some { r with fresh := false } }
  | .event e =>
    let s1 := s.modPriv fun p => { p with
      cause := causeWord e.cause.toNat e.slot.toNat 1, pc := 0, fromPc := 0, info := e.info, aux := e.aux, handling := true }
    { s1 with core := { s1.core with events := s1.core.events.drop 1 } }
def itemCause : Item → Nat
  | .irq k => 0x20 + k
  | .trap _ r => r.t.cause.toNat
  | .event e => e.cause.toNat

/-- The next item with the vector entry that it leads to (R316), or why there is none. -/
inductive Work where
  | none
  | wait
  | fault
  | go (s : State) (pc : Word)
/-- The 64-bit entry at VTAB + 8 × CAUSE in the ranger's code reach, fetched as code (R316, R317). -/
def nextWork (s : State) : Work :=
  match pendingItem s with
  | none => .none
  | some x =>
    let t := s.th ranger
    match devAddrs s t.space [permX] (vaOf t.creach (s.core.priv.vtab + BitVec.ofNat 64 (8 * itemCause x))) 8 with
    | .ok as => if s.mem.gatherP as then .fault else .go (loadItem s x) (BitVec.ofNat 64 (leNat (s.mem.gather as)))
    | .miss _ => .wait
    | _ => .fault

/-- The ranger continues at a handler: a chunk starts there. -/
def enterHandler (s : State) (pc : Word) : State :=
  s.modTh ranger fun t =>
    let t1 := endChunk t
    { t1 with pc := pc, from_ := pc, park := none, cur := { t1.cur with pc := pc, from_ := pc } }
/-- May the core's ranger be given work (R316): it is not handling any, no command of its own must complete first (R341), and no
packet of it stands half done? -/
def rangerFree (s : State) : Bool :=
  let x := s.slot ranger
  !s.core.priv.handling && x.occ && !x.stopped && !x.halting && !s.core.halted && !s.core.contained &&
    decide (x.th.park ≠ some Park.command) && x.th.await.isNone && !x.th.reg.isOpen
/-- RANGER_DISPATCH (R316). -/
def execRangerDispatch (s : State) : Host.Outcome State Fault Refusal :=
  if !rangerFree s then .next s
  else match nextWork s with
    | .none => .next s
    | .wait => .next s
    | .fault => .next (takeTrap s ranger (trapOf cTarget))
    | .go s1 pc => .next (enterHandler s1 pc)

def handlingOff (s : State) : State := s.modPriv fun p => { p with handling := false }
/-- RETT (R327). -/
def execRett (h : Hdr) (s : State) : Host.Outcome State Fault Refusal :=
  privileged s (runPacket h .empty false
    (fun s => ender s h (fun _ => none) fun s => match nextWork s with
      | .none => .own (handlingOff s) none
      | .wait => .hold (passTurn s)
      | .fault => .trap (trapOf cTarget)
      | .go s1 pc => .own s1 (some pc)) s)
/-- IDLE (R328). -/
def execIdle (h : Hdr) (s : State) : Host.Outcome State Fault Refusal :=
  privileged s (runPacket h .empty false
    (fun s => ender s h (fun _ => none) fun s => match nextWork s with
      | .none => .own ((handlingOff s).modMe fun t => { t with park := some .idle }) none
      | .wait => .hold (passTurn s)
      | .fault => .trap (trapOf cTarget)
      | .go s1 pc => .own s1 (some pc)) s)

/-- An event enters the queue, or is refused and comes again (R316). -/
def enqueueEvent (s : State) (e : EventRec) : State :=
  if s.core.events.length < 64 then { s with core := { s.core with events := s.core.events ++ [e] } } else s.later [.eventRetry e]
/-- EVENT_ENQUEUE (R316). -/
def execEventEnqueue (ev : EventRec) (s : State) : Host.Outcome State Fault Refusal := .next (enqueueEvent s ev)
/-- EVENT_RETRY (R316). -/
def execEventRetry (ev : EventRec) (s : State) : Host.Outcome State Fault Refusal := .next (enqueueEvent s ev)
/-- TIMER_INTERRUPT (R319): the timebase has reached TIMERCMP. -/
def execTimerInterrupt (s : State) : Host.Outcome State Fault Refusal :=
  let c := s.core.priv.timercmp
  .next { s with pkg := { s.pkg with timeb := if s.pkg.timeb.toNat < c.toNat then c else s.pkg.timeb } }
/-- PREEMPT_INTERRUPT (R319): the partition scheduler raises it. -/
def execPreemptInterrupt (s : State) : Host.Outcome State Fault Refusal := .next (raiseIrq s 1)
/-- HOST_MESSAGE (R313, R319, R385): the word and its interrupt; another core's message is no matter of this one's. -/
def execHostMessage (core : CoreId) (w : BitVec 64) (s : State) : Host.Outcome State Fault Refusal :=
  .next (if core = s.core.id then raiseIrq (s.modPriv fun p => { p with hostmsg := w }) 4 else s)

/-! Privileged registers. -/

/-- A mask of slots 0 to 14. -/
def slotMask (f : SlotN → Bool) : Nat := maskOf (List.range 15) fun k => f (fin16 k)
def trapped (s : State) (i : SlotN) : Bool := (s.slot i).trap.isSome
/-- What TREG stands for (R304): the named register, or nothing, or an access that is illegal. -/
inductive Treg where
  | reg (i : SlotN) (r : SReg)
  | none
  | illegal
def tregOf (s : State) : Treg :=
  let x := s.core.priv.tsel
  let i := fin16 (x.extractLsb' 0 4).toNat
  let r : SReg := x.extractLsb' 4 5
  if !(s.slot i).occ then .none
  else if i = ranger ∨ ¬ (trapped s i || (s.slot i).stopped) ∨ inFlight s i then .illegal
  else if r = 0 then .none
  else .reg i r
def tregRead (s : State) : Option Word :=
  match tregOf s with
  | .reg i r => some ((s.th i).regs.s r).val
  | .none => some 0
  | .illegal => none
/-- A register of a stopped thread, in its checkpoint too while its chunk is empty (R304). -/
def putTreg (t : Thread) (r : SReg) (v : Word) : Thread :=
  let c : SCell := ⟨v, false, false, 0, none⟩
  { t with regs := t.regs.setS r c, cur := if t.cur.npkts = 0 then { t.cur with ckpt := t.cur.ckpt.setS r c } else t.cur }
def tregWrite (s : State) (v : Word) : State :=
  match tregOf s with
  | .reg i r => s.modTh i fun t => putTreg t r v
  | _ => s
/-- The resume PC of slot TRAPCAUSE.SLOT (R330). -/
def trappcWrite (s : State) (v : Word) : State :=
  let i := fin16 (s.core.priv.cause.extractLsb' 8 4).toNat
  match (s.slot i).trap with
  | some r => if i = ranger then s else s.setSlot i { s.slot i with trap := some { r with resume := v } }
  | none => s
/-- TRAPPC_WRITE (R330). -/
def execTrappcWrite (v : BitVec 64) (s : State) : Host.Outcome State Fault Refusal := .next (trappcWrite s v)
/-- TREG_WRITE (R304). -/
def execTregWrite (v : BitVec 64) (s : State) : Host.Outcome State Fault Refusal := .next (tregWrite s v)

/-- Is a number one of R313's? -/
def isPriv (x : BitVec 12) : Bool :=
  let n := x.toNat
  (decide (0x100 ≤ n) && decide (n ≤ 0x106)) || (decide (0x108 ≤ n) && decide (n ≤ 0x10D)) || (decide (0x110 ≤ n) && decide (n ≤ 0x115))
/-- A privileged register as it reads (R313), TREG apart. PREEMPT.VACANT says of a slot that it holds no thread, so it reads 0x7FFF
after reset where the map's reset column has 0: DESIGN CHOICE (log 88). -/
def privWord (s : State) (x : Nat) : Word :=
  let p := s.core.priv
  match x with
  | 0x100 => p.cause.setWidth 64
  | 0x101 => p.pc
  | 0x102 => p.tsel.setWidth 64
  | 0x103 => (tregRead s).getD 0
  | 0x104 => p.info
  | 0x105 => p.fromPc
  | 0x106 => p.aux
  | 0x108 => p.vtab
  | 0x109 => BitVec.ofNat 64 (bit p.handling 0 + 2 ^ 8 * s.core.events.length + 2 ^ 16 * slotMask (trapped s))
  | 0x10A => (irqPend s).setWidth 64
  | 0x10B => p.irqmask.setWidth 64
  | 0x10C => p.timercmp
  | 0x10D => p.hostmsg
  | 0x110 => BitVec.ofNat 64 (slotMask (fun i => (s.slot i).stop) + 2 ^ 16 * slotMask (fun i => (s.slot i).stopped) +
      2 ^ 32 * slotMask (fun i => !(s.slot i).occ))
  | 0x111 => p.spillctl
  | 0x112 => p.packspill
  | 0x113 => BitVec.ofNat 64 (p.packBlocks + 2 ^ 8 * p.packLimit.toNat + bit p.packFrozen 16)
  | 0x114 => BitVec.ofNat 64 (bit s.core.mqHalted 0)
  | 0x115 => p.bedroll ||| BitVec.ofNat 64 (2 ^ 32 * framesFree s)
  | _ => 0
/-- GETPR (R329): IRQPEND is read at a time of its own (R319). -/
def execGetpr (h : Hdr) (d : SReg) (x : BitVec 12) (s : State) : Host.Outcome State Fault Refusal :=
  privileged s (runPacket h ⟨[], [d], [], [], [], false, false, .near⟩ false
    (fun s =>
      if acts s h && !isPriv x then .trap (trapOf cIllegal)
      else if acts s h && decide (x = 0x103) && (tregRead s).isNone then .trap (trapOf cIllegal)
      else finRead s h d fun s =>
        if x = 0x10A then let r := readTime s; (privWord r.2 0x10A, r.2) else (privWord s x.toNat, s)) s)

/-- A STOP bit that is cleared lets its slot run, or take work (R321). -/
def clearStop (s : State) (i : SlotN) : State :=
  if (s.slot i).stop then s.setSlot i { s.slot i with stop := false, stopped := false, halting := false } else s
/-- The write of PREEMPT.STOP: cleared bits at once, set bits through the crown. -/
def preemptWrite (s : State) (v : Word) : State :=
  let on (i : SlotN) : Bool := v.getLsbD i.val && decide (i ≠ ranger)
  let s1 := allSlots.foldl (fun s i =>
    if on i then s.setSlot i { s.slot i with stop := true } else if i = ranger then s else clearStop s i) s
  let new := allSlots.filter fun i => on i && !(s.slot i).stop
  if new.isEmpty then s1 else s1.later [.preemptStop (BitVec.ofNat 15 (maskOf (new.map (·.val)) fun _ => true))]
/-- PREEMPT_STOP (R321). -/
def execPreemptStop (mask : BitVec 15) (s : State) : Host.Outcome State Fault Refusal :=
  .next (allSlots.foldl (fun s i => if mask.getLsbD i.val && (s.slot i).stop && !(s.slot i).stopped && !(s.slot i).halting then stopSlot s i else s) s)

/-- A write of IRQPEND: written bits go, but for the credit watchdog's while its condition stands (R91, R319). -/
def clearIrq (s : State) (v : BitVec 5) : State :=
  s.modPriv fun p => { p with irqpend := (p.irqpend &&& ~~~v) ||| (if guestsStarved s then p.irqpend &&& 8 else 0) }
/-- The fields of BEDROLL. -/
def bedrollMask : Word := 0x01FF01FF
/-- A write of a privileged register (R313, R329, R2, R3). -/
def setPriv (s : State) (x : Nat) (v : Word) : State :=
  match x with
  | 0x101 => trappcWrite s v
  | 0x102 => s.modPriv fun p => { p with tsel := v.extractLsb' 0 9 }
  | 0x103 => tregWrite s v
  | 0x108 => s.modPriv fun p => { p with vtab := v &&& ~~~(511 : Word) }
  | 0x10A => clearIrq s (v.extractLsb' 0 5)
  | 0x10B => s.modPriv fun p => { p with irqmask := v.extractLsb' 0 5 }
  | 0x10C => s.modPriv fun p => { p with timercmp := v }
  | 0x110 => preemptWrite s v
  | 0x111 => s.modPriv fun p => { p with spillctl := v }
  | 0x112 => s.modPriv fun p => { p with packspill := v }
  | 0x113 =>
    let s1 := s.modPriv fun p => { p with packLimit := v.extractLsb' 8 8 }
    if v.getLsbD 16 then (s1.modPriv fun p => { p with packFrozen := false }).later [.packSpillRetry] else s1
  | 0x114 => s.later ((if v.getLsbD 1 then [.skip] else []) ++ (if v.getLsbD 2 then [.retry] else []))
  | 0x115 => s.modPriv fun p => { p with bedroll := v &&& bedrollMask }
  | _ => s
/-- Does a frame of the bedroll area hold an image (R314)? -/
def bedrollUsed (s : State) : Bool := s.core.images.any fun m => m.frame.isSome
/-- SETPR (R329). -/
def execSetpr (h : Hdr) (a : SReg) (x : BitVec 12) (s : State) : Host.Outcome State Fault Refusal :=
  privileged s (runPacket h (NS [a]) false
    (fun s => ctlGuard s h fun s =>
      if (s.s a).p then .trap (trapOf cPoison)
      else if !isPriv x || (decide (x = 0x103) && (tregRead s).isNone) || (decide (x = 0x115) && bedrollUsed s) then .trap (trapOf cIllegal)
      else .done (setPriv (useRegs s [a]) x.toNat (s.s a).v) none) s)

/-! RESUME (R331). -/

/-- RESUME's operand reaches the core it names. -/
def sendResume (s : State) (w : BitVec 18) : State :=
  let c := w.extractLsb' 0 14
  if c = s.core.id then s.later [.resumeCommand w] else s.send (.resume c w)
/-- RESUME. -/
def execResume (h : Hdr) (a : SReg) (s : State) : Host.Outcome State Fault Refusal :=
  privileged s (runPacket h (NF [a]) false
    (fun s => ender s h
      (fun s => causes [
        causeIf (s.s a).p (trapOf cPoison),
        causeIf (decide ((s.s a).v.extractLsb' 18 46 ≠ 0)) (trapOf cIllegal),
        causeIf (!inPartition s ((s.s a).v.extractLsb' 0 14)) (trapOf cPermission)])
      fun s => .own (sendResume (useRegs s [a]) ((s.s a).v.extractLsb' 0 18)) none) s)
/-- The trapped slot rejoins rotation at its resume PC. -/
def resumeTrap (s : State) (i : SlotN) (r : TrapRec) : State :=
  let s1 := s.setSlot i { s.slot i with trap := none }
  s1.modTh i fun t => { t with pc := r.resume, from_ := r.pc, cur := { t.cur with pc := r.resume, from_ := r.pc } }
/-- Does an image wait for a slot's RESUME? -/
def resumable (i : SlotN) (m : Image) : Bool :=
  m.frame.isSome && decide (m.slot = i) && (m.sync || match m.th.park with | some (.join _ _) => true | _ => false)
/-- Has what an image waits for happened: its entry gone from the home's table, WAITED of its join word clear? -/
def waitOver (s : State) (m : Image) : Bool :=
  match m.th.park with
  | some (.join r _) => (match homeOf s r with | .at_ a => !joinWaited (s.mem.nat a 8) | _ => true)
  | _ => !s.cl.waiters.any fun w => decide (w.img = some m.id)
/-- The image that a RESUME of slot i marks: of several of one slot, one whose wait is over; where none is, the first saved, unless one
has been marked already, whose second RESUME this is (log 42). -/
def waiterOf (s : State) (i : SlotN) : Option Image :=
  let ms := s.core.images.filter (resumable i)
  match ms.find? fun m => !m.resumed && waitOver s m with
  | some m => some m
  | none => if ms.any (·.resumed) then none else ms.head?
/-- An image of a contained core moves to the successor (R377); one whose thread has used the matrix unit is ended instead. -/
def moveImage (s : State) (m : Image) : State :=
  let s1 := { s with core := { s.core with images := s.core.images.filter fun x => decide (x.id ≠ m.id) } }
  if m.th.mtx then
    (match s.core.launch with | some l => recordKilled s1 l.sh.info.seq s.core.id m.slot | none => s1)
  else s1.send (.image m)
/-- RESUME_COMMAND (R331, R377). -/
def execResumeCommand (w : BitVec 18) (s : State) : Host.Outcome State Fault Refusal :=
  let i := fin16 (w.extractLsb' 14 4).toNat
  if killing s i then .next (s.later [.resumeCommand w])
  else if s.core.contained then
    .next (match s.core.images.find? fun m => m.frame.isSome && decide (m.slot = i) with | some m => moveImage s m | none => s)
  else match (s.slot i).trap with
    | some r => .next (resumeTrap s i r)
    | none => .next (match waiterOf s i with
      | some w => { s with core := { s.core with images := s.core.images.map fun m => if m.id = w.id then { m with resumed := true } else m } }
      | none => s)

/-! KILLT (R332). -/

/-- What a KILLT names. -/
inductive Victim where
  | slot (i : SlotN)
  | image (f : Nat)
  | illegal
def victim (s : State) (v : Word) : Victim :=
  if v.getLsbD 8 then
    let f := (v.extractLsb' 9 9).toNat
    if v.extractLsb' 0 8 ≠ 0 ∨ v.extractLsb' 18 46 ≠ 0 ∨ ¬ s.core.images.any (fun m => decide (m.frame = some f)) then .illegal else .image f
  else if v.extractLsb' 4 60 ≠ 0 ∨ v.extractLsb' 0 4 = 15 then .illegal
  else .slot (fin16 (v.extractLsb' 0 4).toNat)
/-- A kill is recorded against the launch of a resident thread (R352). -/
def killRecord (s : State) (t : Thread) (i : SlotN) : State :=
  match t.kind, s.core.launch with
  | .guest _ _, _ => s
  | .ranger, _ => s
  | _, some l => recordKilled s l.sh.info.seq s.core.id i
  | _, none => s
/-- A killed index thread of a PERSIST launch counts as exited (R94, R332); `who` is its slot, none for an image. -/
def killCount (s : State) (who : Option SlotN) (t : Thread) : State :=
  match persists s t with
  | some q => bargExit (bargLeave s q who t) q 1
  | none => s
/-- A running victim is stopped as R321 lays down, its open chunk discarded instead of ended; a HIKE that has retired completes. -/
def haltVictim (s : State) (i : SlotN) : State :=
  let x := s.slot i
  if x.stopped || x.halting || x.trap.isSome then s
  else match x.th.park with
    | some (.hike _) => s
    | _ => stopSlot (squashFrom s i x.th.ended.length) i
/-- Has a stopped thread nothing left in flight, uncommitted or owed? -/
def drained (s : State) (i : SlotN) : Bool :=
  let t := s.th i
  !inFlight s i && decide (t.ended = []) && t.sync.isNone && decide (t.far = []) && decide (t.landed = [])
/-- KILLT of a slot: once its committed work and what it is owed have drained, everything it holds is given back; the ranger
issues nothing until then. -/
def killSlot (s : State) (i : SlotN) : PRes :=
  if !(s.slot i).occ then .own s none
  else
    let s1 := haltVictim s i
    let x := s1.slot i
    if !(x.stopped || x.trap.isSome) || !drained s1 i then .hold (passTurn s1)
    else .own (killCount (killRecord (release s1 i) x.th i) (some i) x.th) none
/-- An image is gone: its frames and its spill area are free, its commands follow no thread. -/
def dropImage (s : State) (m : Image) : State :=
  let s1 := freeSpill (mqMove s (.image m.id) .gone) m.th
  { s1 with core := { s1.core with images := s1.core.images.filter fun x => decide (x.id ≠ m.id) } }
/-- KILLT of an image. -/
def killImage (s : State) (f : Nat) : PRes :=
  match s.core.images.find? fun m => decide (m.frame = some f) with
  | none => .own s none
  | some m =>
    if m.owed ≠ [] then .hold (passTurn s)
    else .own (killCount (killRecord (dropImage s m) m.th m.slot) none m.th) none
/-- KILLT (R332). -/
def execKillt (h : Hdr) (a : SReg) (s : State) : Host.Outcome State Fault Refusal :=
  privileged s (runPacket h (NF [a]) false
    (fun s => farGuard s h fun s =>
      if (s.s a).p then .trap (trapOf cPoison)
      else match victim s (s.s a).v with
        | .illegal => .trap (trapOf cIllegal)
        | .slot i => commitWait s fun s => killSlot (useRegs s [a]) i
        | .image f => commitWait s fun s => killImage (useRegs s [a]) f) s)

/-! WAKEF, DBGHALT, CREDSYNC. -/

/-- Does WAKEF end a park (R339): a WAKEAT's, or one after which the packet issues again and looks again? -/
def wakefEnds : Park → Bool
  | .wakeAt _ => true | .ring _ _ => true | .stream _ => true | .credit _ _ => true | .walk => true | .fill => true | .queue _ => true
  | .commit => true | .owed _ => true | .fence _ _ => true | _ => false
/-- The park of slot i ends; a JOIN's next home read is made at once, n unchanged (R339). A synchronising singleton's is made in
its own step whenever its word is ready. -/
def wakePark (s : State) (i : SlotN) : State :=
  let off (s : State) : State := s.modTh i fun t => { t with park := none }
  match (s.th i).park with
  | none => s
  | some (.join r _) => match homeOf s r with
    | .at_ a => if joinCount (s.mem.nat a 8) = 0 then off s else s
    | .wait es => s.later es
    | .lost => s
  | some p => if wakefEnds p then off s else s
/-- WAKEF (R339): near. -/
def execWakef (h : Hdr) (a : SReg) (s : State) : Host.Outcome State Fault Refusal :=
  privileged s (runPacket h (NS [a]) false
    (fun s => ctlGuard s h fun s =>
      let v := (s.s a).v
      let i := fin16 (v.extractLsb' 0 4).toNat
      if (s.s a).p then .trap (trapOf cPoison)
      else if v.extractLsb' 4 60 ≠ 0 ∨ i = ranger then .trap (trapOf cIllegal)
      else .done (wakePark (useRegs s [a]) i) none) s)
/-- DBGHALT (R340). -/
def execDbghalt (h : Hdr) (a : SReg) (s : State) : Host.Outcome State Fault Refusal :=
  privileged s (runPacket h (NS [a]) false
    (fun s => ender s h
      (fun s => causes [
        causeIf (s.s a).p (trapOf cPoison),
        causeIf (decide ((s.s a).v.extractLsb' 1 63 ≠ 0)) (trapOf cIllegal)])
      fun s => .own (if (s.s a).v.getLsbD 0 then crossTrigger (useRegs s [a]) else haltCore (useRegs s [a])) none) s)

/-- Is credit state held with a core? -/
def creditState (s : State) (c : CoreId) : Bool :=
  s.core.credits.any (fun x => decide (x.peer = c) && (decide (x.held ≠ 0) || x.ticket.isSome || x.asked)) ||
    s.core.ticketsO.promised.contains c || s.core.ticketsR.promised.contains c || s.core.creditFault.contains c
/-- The exchange of R341: with itself the core knows both sides; another core is told what is held toward it, and reports. -/
def credSync (s : State) (c : CoreId) : State :=
  let s1 := { s with core := { s.core with credSync := some c } }
  if !creditState s c then s
  else if c = s.core.id then resync s1 c (reportTo s c true)
  else (s1.send (.creditReport c (reportTo s c true))).modMe fun t => { t with park := some .command }
/-- CREDSYNC (R341). -/
def execCredsync (h : Hdr) (a : SReg) (s : State) : Host.Outcome State Fault Refusal :=
  privileged s (runPacket h (NF [a]) false
    (fun s => ender s h
      (fun s => causes [
        causeIf (s.s a).p (trapOf cPoison),
        causeIf (decide ((s.s a).v.extractLsb' 14 50 ≠ 0)) (trapOf cIllegal)])
      fun s => .own (credSync (useRegs s [a]) ((s.s a).v.extractLsb' 0 14)) none) s)

end Sys2Proof.Machine
end

