-- ==== Sys2Proof/Machine/Images.lean ====
section
/-! DEFINITION. CTXSAVE and CTXLOAD (R323, R324, R333, R334) and the core frame (R335). -/
namespace Sys2Proof.Machine

/-! Where an image or a frame lies. -/

/-- The blocks of n × 64 bytes at an offset of k0. -/
inductive Blocks where
  | ok (ls : List Nat)
  | stop (r : PRes)
def blocksAt (s : State) (off : Word) (n : Nat) (ps : List Nat) : Blocks :=
  match translatedAll s (s.k 0) ps ((List.range n).map fun k => (0, off + BitVec.ofNat 64 (64 * k), 1)) with
  | .ok as => .ok (as.map fun a => a.headD 0)
  | .stop r => .stop r
/-- The causes of a span of n bytes at a multiple of 1 KiB in k0 (R228, R333). -/
def kibChecks (s : State) (off : Word) (n : Nat) (ps : List Nat) (load store : Bool) : List (Option PRes) :=
  [causeIf (decide (off.toNat % 1024 ≠ 0)) ⟨cMisaligned, off, auxOf (s.k 0) none⟩, spanBad s (s.k 0) off n ps,
   breakAt s (s.k 0) off n load store none]
/-- A privileged result that is owed. -/
def give (s : State) (d : SReg) (w : Word) : PRes := .own (s.farS d (some (.scalar ⟨w, false⟩ none)) 0 false) none

/-! CTXSAVE of a slot. -/

def imageBytes (a : Nat) : Nat := 1024 + 128 * a
/-- Is a stopped or trapped slot's thread all there: nothing in flight, its chunks committed, its stores performed, its arrivals
counted? -/
def settledSlot (s : State) (i : SlotN) : Bool :=
  let t := s.th i
  decide (t.ended = []) && decide (t.cur.npkts = 0) && t.sync.isNone && savable t && !inFlight s i &&
    !s.agenda.any fun e => match e with
      | .barrierArrival w _ _ => decide (w.core = s.core.id) && decide (w.slot = i)
      | .bargArrival (some j) _ => decide (j = i)
      | _ => false
/-- The thread as its image shows it: a trapped one restarts at its resume PC (R333). -/
def readied (s : State) (i : SlotN) : State :=
  match (s.slot i).trap with
  | some r => s.modTh i fun t => { t with pc := r.resume }
  | none => s
/-- The save itself. -/
def saveSlot (s : State) (i : SlotN) (d : SReg) (b : Word) : PRes :=
  if !settledSlot s i then .hold (passTurn s)
  else
    let a := s.allot i
    let tr := trapped s i
    if b = 0 then
      match freeRun s (framesFor a) with
      | none => give s d (BitVec.allOnes 64)
      | some f => give (saveThread (readied s i) i (frameLines s f (framesFor a)) (some f) tr false) d (BitVec.ofNat 64 (2 ^ 63 + f))
    else match blocksAt s b (imageBytes a / 64) [permW] with
      | .stop r => r
      | .ok ls => give (saveThread (readied s i) i ls none tr false) d b
/-- The slot that CTXSAVE names must hold a thread that has stopped or trapped. -/
def saveIllegal (s : State) (i : SlotN) : Bool := decide (i = ranger) || !(s.slot i).occ || !((s.slot i).stopped || trapped s i)

/-! The core frame (R335). -/

def frameBlocks : Nat := 160
/-- Every slot from 0 to 14 stopped or vacant. -/
def coreQuiet (s : State) : Bool := allSlots.all fun i => decide (i = ranger) || !(s.slot i).occ || (s.slot i).stopped
/-- Register of the token of a command, its memory operand. -/
def cmdTok (c : MCmd) : Nat := match decode c.head (c.tail.setWidth 64) with | .ok (.mdrain _ _ _ t _) => t.toNat | _ => 0
def cmdRef (c : MCmd) : WordRef := match c.op with | .mfill _ r => r | .mdrain _ r _ => r | _ => ⟨0, 0, 0⟩
def cmdDone (c : MCmd) : Nat := match c.op with | .mma _ _ _ _ n => n | _ => 0
def cmdWords (c : MCmd) : List Nat :=
  [c.head.toNat + 2 ^ 16 * c.tail.toNat + 2 ^ 48 * c.slot.val + 2 ^ 56 * cmdDone c, (cmdRef c).off.toNat,
   (cmdRef c).reach.toNat + 2 ^ 16 * cmdTok c + bit c.wait.isNone 24, 0]
/-- The words of the frame, each with its poison. -/
def coreFrame (s : State) : List (Nat × Bool) :=
  let m0 := getTile s 0
  let m1 := getTile s 1
  let tab (c : Nat) : TEntry := s.core.table.items.getD c ⟨0, false⟩
  let plain (l : List Nat) : List (Nat × Bool) := l.map fun x => (x, false)
  plain ((List.range 512).map (fun k => field m0.bits.toNat (64 * k) 64) ++ (List.range 512).map (fun k => field m1.bits.toNat (64 * k) 64) ++
    (List.range 16).map (fun k => field m0.poison.toNat (64 * k) 64) ++ (List.range 16).map (fun k => field m1.poison.toNat (64 * k) 64) ++
    [bit m0.valid 0 + bit m1.valid 1 + bit s.core.mqHalted 2 + 2 ^ 8 * s.core.mq.length + 2 ^ 16 * s.core.tabGen.toNat + bit s.core.tabValid 32] ++
    List.replicate 31 0 ++ ((s.core.mq.flatMap cmdWords) ++ List.replicate 32 0).take 32 ++ List.replicate 32 0) ++
  (List.range 128).map fun k =>
    ((tab (2 * k)).v.toNat * 2 ^ 13 + 2 ^ 32 * ((tab (2 * k + 1)).v.toNat * 2 ^ 13), (tab (2 * k)).p || (tab (2 * k + 1)).p)
/-- Engine writes of words over blocks. -/
def writeBlocks (m : Memory) (ls : List Nat) : Nat → List (Nat × Bool) → Memory
  | _, [] => m
  | k, (w, p) :: ws => writeBlocks (m.engineWord (imageAt ls (8 * k)) (leBytes 8 w) p) ls (k + 1) ws
/-- Must a save of the core frame wait: a command has started and its queue runs, or a command's chunk is not decided (R322, R335)? -/
def framePending (s : State) : Bool :=
  s.core.mq.any fun c => c.wait.isSome || (decide (cmdDone c ≠ 0) && !s.core.mqHalted)
/-- The frame is saved; the queue goes with it (R322). -/
def saveCore (s : State) (d : SReg) (b : Word) : PRes :=
  if framePending s then .hold (passTurn s)
  else match blocksAt s b frameBlocks [permW] with
  | .stop r => r
  | .ok ls =>
    let s1 := { s with
      mem := writeBlocks s.mem ls 0 (coreFrame s)
      core := { s.core with mq := [], frames := (s.core.frames.filter fun x => decide (x.1 ≠ ls.headD 0)) ++ [(ls.headD 0, s.core.mq)] } }
    give s1 d b
/-- CTXSAVE (R333, R335). -/
def execCtxsave (h : Hdr) (d a b : SReg) (s : State) : Host.Outcome State Fault Refusal :=
  privileged s (runPacket h { N2 d a b with far := .scalar } false
    (fun s => ender s h
      (fun s =>
        let x := (s.s a).v
        let off := (s.s b).v
        let i := fin16 (x.extractLsb' 0 4).toNat
        if (s.s a).p || (s.s b).p then some (.trap (trapOf cPoison))
        else if x.getLsbD 4 then
          causes (causeIf (decide (x.extractLsb' 0 4 ≠ 0) || !coreQuiet s) (trapOf cIllegal) :: kibChecks s off 10240 [permW] false true)
        else if saveIllegal s i then some (.trap (trapOf cIllegal))
        else if off = 0 then none
        else causes (kibChecks s off (imageBytes (s.allot i)) [permW] false true))
      fun s =>
        let x := (s.s a).v
        let s1 := useRegs s [a, b]
        if x.getLsbD 4 then saveCore s1 d (s.s b).v else saveSlot s1 (fin16 (x.extractLsb' 0 4).toNat) d (s.s b).v) s)

/-! CTXLOAD of a slot. -/

/-- STATE of the image at blocks: its allotment, its kind, its trapped bit. -/
def stateA (st : Nat) : Nat := field st 28 6
def stateKind (st : Nat) : Nat := field st 34 2
def stateTrapped (st : Nat) : Bool := st.testBit 49
/-- Does the image fit the slot (R334)? -/
def imageFits (s : State) (i : SlotN) (st : Nat) : Bool :=
  if stateKind st = 0 then isResident i && decide (i.val < s.threads) && decide (stateA st = s.allot i)
  else decide (stateKind st ≠ 3) && isGuest i
/-- Where the image stands: its blocks, or how the packet ends. The bedroll form names a frame that begins an image. -/
def imageSource (s : State) (b : Word) : Blocks :=
  if b.getLsbD 63 then
    match s.core.images.find? fun m => decide (m.frame = some (b.extractLsb' 0 9).toNat) with
    | some m => .ok m.lines
    | none => .stop (.trap (trapOf cIllegal))
  else match causes (kibChecks s b 1024 [permR] true false) with
    | some r => .stop r
    | none => match blocksAt s b 16 [permR] with
      | .stop r => .stop r
      | .ok ls =>
        let n := imageBytes (stateA (readWord s.mem ls 1))
        match spanBad s (s.k 0) b n [permR] with
        | some r => .stop r
        | none => blocksAt s b (n / 64) [permR]
/-- What stands for a thread whose image has been moved: the rest of it as a thread of the launch starts (log 22). -/
def plainThread (s : State) : Thread :=
  match s.core.launch with
  | some l => Thread.start .index l.sh.info.entry l.sh.info.space l.sh.info.creach .zero 0
  | none => Thread.start .index 0 0 0 .zero 0
/-- A guest's hiker as its registers stand (R378). -/
def guestHiker (t : Thread) (dest : CoreId) (reply : Bool) : Hiker :=
  let g (j : Nat) : SVal :=
    let c := if j < 7 then t.regs.g.get (fin8 (j + 1)) else t.regs.w.get (fin64 (j - 7))
    ⟨c.val, c.p⟩
  let q (f : QCell → Bool) : BitVec 8 := BitVec.ofNat 8 (maskOf [1, 2, 3, 4, 5, 6, 7] fun k => f (t.regs.q.get (fin8 k)))
  ⟨t.pc, ⟨(List.range 15).map g, by simp⟩, t.regs.k, q fun c => c.m.getLsbD 0, q fun c => c.p, t.space, t.creach, dest, reply, false,
    t.origin, none⟩
/-- An entry of the arrival buffer for a guest that is loaded. -/
def takeEntry (s : State) (t : Thread) (reply : Bool) : State :=
  { s with core := { s.core with
    arrivals := s.core.arrivals ++ [⟨s.core.nextArr, guestHiker t s.core.id reply, true⟩], nextArr := s.core.nextArr + 1 } }
/-- A thread whose count of squashes has reached 4 asks for its solo execution again (R298). -/
def askSolo (s : State) (i : SlotN) : State :=
  if 4 ≤ (s.th i).squash ∧ (s.th i).park = none then
    { parkAt s i .solo with pkg := { s.pkg with soloQueue := s.pkg.soloQueue ++ [i] } }
  else s
/-- The thread of an image enters its slot (R334). -/
def loadSlot (s : State) (i : SlotN) (ls : List Nat) : State :=
  let st := readWord s.mem ls 1
  let rec_ := recordOf s ls
  let old := match rec_ with | some m => m.th | none => plainThread s
  let reply := decide (stateKind st = 2)
  let t0 := imageThread s ls old
  let kind : TKind := if stateKind st = 0 then (match old.kind with | .guest _ _ => .index | k => k) else .guest s.core.nextArr reply
  let t := { t0 with kind := kind, seq := freeSeq (drainSeqs s i) 256 t0.seq, origin := BitVec.ofNat 14 (field (readWord s.mem ls 29) 16 16) }
  let trap : Option TrapRec := if stateTrapped st then some ⟨trapOf 0, t.pc, t.pc, t.pc, false⟩ else none
  let s1 := s.setSlot i { s.slot i with occ := true, th := t, trap := trap, stop := true, stopped := true, halting := false }
  let s2 := putVectors s1 i (imageVectors s.mem ls (stateA st))
  let s3 := if stateKind st = 0 then s2 else takeEntry s2 t reply
  let s4 := match rec_ with
    | some m => { mqMove s3 (.image m.id) (.slot i) with
        core := { (mqMove s3 (.image m.id) (.slot i)).core with images := s3.core.images.filter fun x => decide (x.id ≠ m.id) } }
    | none => s3
  askSolo s4 i
/-- CTXLOAD of a slot: it waits for OWED = 0 and for an arrival entry. -/
def loadImage (s : State) (i : SlotN) (d : SReg) (ls : List Nat) : PRes :=
  let st := readWord s.mem ls 1
  let owed := decide (field (readWord s.mem ls 24) 0 5 ≠ 0) || (match recordOf s ls with | some m => !m.owed.isEmpty | none => false)
  let reply := decide (stateKind st = 2)
  if owed then .hold (passTurn s)
  else if stateKind st ≠ 0 ∧ ¬ entryFree s reply then .replay s (.queue (.entry reply))
  else give (loadSlot s i ls) d (BitVec.ofNat 64 st)

/-! CTXLOAD of a core frame. -/

/-- The token that a slot's thread, in its slot or in an image, is owed in a register (R247, R335). -/
def tokenOwed (s : State) (i : SlotN) (r : SReg) : FarRef :=
  let all := (s.th i).far ++ s.core.images.flatMap fun m => if m.slot = i then m.owed.map (·.1) else []
  match all.find? fun e => e.token && decide (e.dest = .scalar r) with
  | some e => ⟨i, e.seq, e.inc⟩
  | none => ⟨i, 0, 0⟩
/-- A command of a frame that no record keeps (log 22). -/
def cmdOf (s : State) (w0 w1 w2 : Nat) : Option MCmd :=
  let head := BitVec.ofNat 16 (field w0 0 16)
  let tail := BitVec.ofNat 32 (field w0 16 32)
  let slot := fin16 (field w0 48 8)
  let sp := match s.core.launch with | some l => l.sh.info.space | none => 0
  let ref : WordRef := ⟨sp, BitVec.ofNat 16 (field w2 0 16), BitVec.ofNat 64 w1⟩
  let mk (op : MOp) : Option MCmd := some ⟨op, slot, .slot slot, head, tail, false, 0, if w2.testBit 24 then none else some (s.th slot).cur.no⟩
  match decode head (tail.setWidth 64) with
  | .ok (.mma _ t a b n) => mk (.mma t a b (n.toNat + 1) (field w0 56 8))
  | .ok (.mzero _ t) => mk (.mzero t)
  | .ok (.mfill _ t _ _) => mk (.mfill t ref)
  | .ok (.mdrain _ t _ _ _) => mk (.mdrain t ref (tokenOwed s slot (BitVec.ofNat 5 (field w2 16 5))))
  | _ => none
/-- The commands of a frame. -/
def frameCmds (s : State) (ls : List Nat) : List MCmd :=
  let n := field (readWord s.mem ls 1056) 8 8
  match s.core.frames.find? fun x => decide (x.1 = ls.headD 0) && decide (x.2.length = n) with
  | some x => x.2
  | none => (List.range (min n 8)).filterMap fun k =>
      cmdOf s (readWord s.mem ls (1088 + 4 * k)) (readWord s.mem ls (1089 + 4 * k)) (readWord s.mem ls (1090 + 4 * k))
/-- A tile of a frame; poison of the frame's own words is ORed in. -/
def frameTile (m : Memory) (ls : List Nat) (w p : Nat) (valid : Bool) : Tile :=
  ⟨BitVec.ofNat 32768 (packElems 64 ((List.range 512).map fun k => readWord m ls (w + k))),
   BitVec.ofNat 1024 (packElems 64 ((List.range 16).map fun k => readWord m ls (p + k))) |||
     BitVec.ofNat 1024 (packElems 2 ((List.range 512).map fun k => if poisWord m ls (w + k) then 3 else 0)), valid⟩
/-- The core takes a frame (R335). -/
def loadCore (s : State) (ls : List Nat) : State :=
  let m := s.mem
  let x := readWord m ls 1056
  let es : Bank TEntry 256 := ⟨(List.range 256).map fun c =>
    ⟨BitVec.ofNat 19 (field (readWord m ls (1152 + c / 2)) (32 * (c % 2) + 13) 19), poisWord m ls (1152 + c / 2)⟩, by simp⟩
  let s1 := setTile (setTile s 0 (frameTile m ls 0 1024 (x.testBit 0))) 1 (frameTile m ls 512 1040 (x.testBit 1))
  { s1 with core := { s1.core with
    mq := frameCmds s ls, mqHalted := x.testBit 2, tabGen := BitVec.ofNat 16 (field x 16 16), tabValid := x.testBit 32, table := es,
    frames := s1.core.frames.filter fun y => decide (y.1 ≠ ls.headD 0) } }
/-- CTXLOAD (R334, R335); what it writes to D for a core frame, which has no STATE word, is a free value (log 33). -/
def execCtxload (h : Hdr) (d a b : SReg) (s : State) : Host.Outcome State Fault Refusal :=
  privileged s (runPacket h { N2 d a b with far := .scalar } false
    (fun s => ender s h
      (fun s =>
        let x := (s.s a).v
        let off := (s.s b).v
        let i := fin16 (x.extractLsb' 0 4).toNat
        if (s.s a).p || (s.s b).p then some (.trap (trapOf cPoison))
        else if x.getLsbD 4 then
          causes (causeIf (decide (x.extractLsb' 0 4 ≠ 0) || !coreQuiet s || decide (s.core.mq ≠ [])) (trapOf cIllegal) ::
            kibChecks s off 10240 [permR] true false)
        else if i = ranger ∨ (s.slot i).occ ∨ ¬ (s.slot i).stop then some (.trap (trapOf cIllegal))
        else match imageSource s off with
          | .stop r => some r
          | .ok ls => causeIf (!imageFits s i (readWord s.mem ls 1)) (trapOf cIllegal))
      fun s =>
        let x := (s.s a).v
        let s1 := useRegs s [a, b]
        if x.getLsbD 4 then
          match blocksAt s1 (s.s b).v frameBlocks [permR] with
          | .stop r => r
          | .ok ls => let f := (loadCore s1 ls).fresh
                      give f.2 d f.1
        else match imageSource s1 (s.s b).v with
          | .stop r => r
          | .ok ls => loadImage s1 (fin16 (x.extractLsb' 0 4).toNat) d ls) s)

end Sys2Proof.Machine
end

