-- ==== Sys2Proof/Machine/Ports.lean ====
section
/-! DEFINITION. The launch port (R343 to R348, R356): DOORBELL and CANCEL, sampling, dispatch, and FANOUT (R126, R127, R178, R349,
R350). -/
namespace Sys2Proof.Machine

/-- A field of a packet: n bytes from byte o. -/
def fieldAt (bs : List Byte) (o n : Nat) : Nat := leNat ((bs.drop o).take n)
def fieldW (bs : List Byte) (o n : Nat) : Word := BitVec.ofNat 64 (fieldAt bs o n)
/-- FLAGS (R343). -/
def fPersist : Nat := 0
def fPaired : Nat := 1
def fRecord : Nat := 2
def fTimed : Nat := 3
def fStrict : Nat := 4
def fDep : Nat := 5
def fDone : Nat := 6
def fFpctl : Nat := 7

/-! DOORBELL (R345). -/

/-- A launch as the queue holds it: what is copied from the packet at acceptance. -/
def queued (seq : BitVec 32) (off : Word) (bs : List Byte) : Launch :=
  { seq := seq, packet := off, st := .queued, dreach := BitVec.ofNat 16 (fieldAt bs 10 2), space := BitVec.ofNat 16 (fieldAt bs 12 2),
    prio := fieldAt bs 14 1 % 4, flags := BitVec.ofNat 8 (fieldAt bs 15 1), depw := fieldW bs 72 8, start := fieldW bs 88 8,
    tol := fieldAt bs 96 4, retry := fieldAt bs 100 4, gang := fieldW bs 104 8, donew := 0, depFull := false, shares := [], donesh := [],
    nshares := 0, total := 0, check := 0, recorded := 0, started := false, late := false, dropped := false, mismatch := false,
    stopping := false, bargAt := 0, bargOut := 0, bargGen := 0, readyCores := [], resv := 3, delay := 0, go := false }
/-- QUEUED: launches not yet fanned out (R344). -/
def queuedCount (s : State) : Nat := (s.part.launches.filter fun l => decide (l.st ≠ .fanned ∧ l.st ≠ .closing)).length
/-- A refusal (R345, R357, R386). -/
def refuseDoorbell (s : State) (off : Word) : State :=
  let s1 := { s with part := { s.part with full := true } }
  if jRoom s 1 then append s1 ⟨0, jFailed, cLaunch, 1, 0, off, 0, 0, 0, 0⟩
  else msix { s1 with part := { s1.part with lost := if s1.part.lost = 0xFFFF then 0xFFFF else s1.part.lost + 1 } }
/-- An acceptance. -/
def acceptLaunch (s : State) (off : Word) (bs : List Byte) : State :=
  let q := s.part.lastSeq + 1
  let l := queued q off bs
  let s1 := { s with part := { s.part with lastSeq := q, doorSeq := q, full := false, launches := s.part.launches ++ [l] } }
  appendOwn s1 l (entryOf l jAccepted)
/-- Is the port open: has boot reached its last stage, and does a configuration stand (R405)? -/
def portOpen (s : State) : Option PartCfg := if s.pkg.mgmt.boot = 5 then s.part.cfg else none
/-- DOORBELL (R345); before the port is open nothing is there to take it (R405). One that waits for a walk stays first: the writes
behind it wait their turn. -/
def execDoorbell (off : BitVec 64) (s : State) : Host.Outcome State Fault Refusal :=
  match portOpen s with
  | none => .next s
  | some c =>
    if off.toNat % 256 ≠ 0 ∨ 64 ≤ queuedCount s ∨ ¬ jRoom s 4 then .next (refuseDoorbell s off)
    else match devSpan s c.spaceLo [permR] (vaOf c.lreach off) 256 with
      | .wait => .next { s with agenda := .doorbell off :: s.agenda }
      | .bad => .next (refuseDoorbell s off)
      | .ok _ => match devAddrs s c.spaceLo [permR] (vaOf c.lreach off) 256 with
        | .ok as => .next (acceptLaunch s off (s.mem.gather as))
        | _ => .next (refuseDoorbell s off)

/-! CANCEL (R347). -/

/-- A share that waits is dropped. -/
def dropWaiting (s : State) (q : BitVec 32) : State :=
  match s.core.waiting with
  | none => s
  | some sh =>
    if sh.info.seq = q then
      modLaunch { s with core := { s.core with waiting := none } } q fun x => { x with
        shares := x.shares.filter fun y => decide (y.1.share ≠ sh.share) }
    else s
/-- The share that runs stops: the threads' open chunks are squashed, the pack is emptied; they end once they have drained. -/
def stopRunning (s : State) (q : BitVec 32) : State :=
  match s.core.launch with
  | none => s
  | some l =>
    if l.sh.info.seq = q ∧ ¬ l.reported then
      let s1 := allSlots.foldl (fun s i => if isResident i && (s.slot i).occ then haltVictim s i else s) s
      { s1 with core := { s1.core with launch := some { l with stopped := true }, pack := [], priv := { s1.core.priv with packBlocks := 0 } } }
    else s
/-- The core stops its share of a launch (R347). -/
def stopOwnShare (s : State) (q : BitVec 32) : State := stopRunning (dropWaiting s q) q
/-- Every core's share is stopped. -/
def stopShares (s : State) (l : Launch) : State :=
  (stopOwnShare s l.seq |> fun s => (l.shares.filter fun x => decide (x.2 ≠ s.core.id)).foldl (fun s x => s.send (.stopShare x.2 l.seq)) s)
/-- A fanned-out launch ends as PARTLY DONE once every core has reported. -/
def stopLaunch (s : State) (l : Launch) : State :=
  if l.stopping then s else modLaunch (stopShares s l) l.seq fun x => { x with stopping := true }
/-- CANCEL. -/
def execCancel (seq : BitVec 32) (s : State) : Host.Outcome State Fault Refusal :=
  let s1 := { s with part := { s.part with cancel := seq } }
  match findLaunch s seq with
  | none => .next s1
  | some l => match l.st with
    | .queued => .next (appendLast s1 l { entryOf l jFailed with detail := 2 })
    | .chosen => .next (appendLast s1 l { entryOf l jFailed with detail := 2 })
    | .dispatched => .next (modLaunch s1 seq fun x => { x with st := .cancelled })
    | .cancelled => .next s1
    | .closing => .next s1
    | .fanned => .next (stopLaunch s1 l)

/-! Eligibility and dispatch (R346, R348, R356). -/

/-- The dependency word at a sampling (R346). -/
def depSample (s : State) (l : Launch) : Bool :=
  let va := vaOf l.dreach l.depw
  decide (l.depw.toNat % 8 = 0) && decide (l.dreach ≠ localReach) && (match memByte s l.space va [permR] with
    | .ok a fe => fe && !s.mem.pois a && s.mem.full a
    | _ => false)
/-- DEPENDENCY_SAMPLE (R346). -/
def execDependencySample (s : State) : Host.Outcome State Fault Refusal :=
  .next { s with part := { s.part with launches := s.part.launches.map fun l =>
    if l.st = .queued ∧ l.flags.getLsbD fDep then { l with depFull := depSample s l } else l } }

/-- 10 µs of timebase (R346). -/
def lead : Nat := 10000
def eligible (time : Word) (l : Launch) : Bool :=
  decide (l.st = .queued) && (!l.flags.getLsbD fDep || l.depFull) && (!l.flags.getLsbD fTimed || decide (l.start.toNat ≤ time.toNat + lead))
/-- The eligible launch of the highest priority that has waited longest. -/
def bestOf : List Launch → Option Launch
  | [] => none
  | l :: ls => match bestOf ls with
    | some m => if l.prio < m.prio then some m else some l
    | none => some l
/-- The launch that was dispatched and waits for its credit (R348). -/
def chosenLaunch (s : State) : Option Launch := s.part.launches.find? fun l => decide (l.st = .chosen)
/-- Has every launch that was dispatched finished its fan-out? -/
def fanoutIdle (s : State) : Bool := s.part.launches.all fun l => decide (l.st ≠ .dispatched) && decide (l.st ≠ .cancelled)

/-- What an access of the port comes to. -/
inductive Port (α : Type) where
  | ok (x : α)
  | wait
  | bad
def portAddrs (s : State) (l : Launch) (ps : List Nat) (off : Word) (n : Nat) : Port (List Nat) :=
  match devAddrs s l.space ps (vaOf l.dreach off) n with
  | .ok as => .ok as | .miss _ => .wait | .padMiss _ => .wait | .bad _ _ => .bad
/-- Bytes put at addresses, in whole words: what a last word does not cover stays (R248, R356). -/
def captureWords (m : Memory) (src dst : List Nat) : Nat → Memory
  | 0 => m
  | n + 1 =>
    let a := src.take 8
    let b := dst.take 8
    let w := m.gather a ++ (m.bytes (b.headD 0 / 8 * 8) 8).drop a.length
    captureWords (m.engineWord (b.headD 0 / 8 * 8) w (m.gatherP a)) (src.drop 8) (dst.drop 8) n
/-- One part of a capture: source addresses to the next multiple of 64 from `off`; the offset behind it. -/
def capturePart (s : State) (l : Launch) (src : List Nat) (off : Nat) : Port (State × Nat) :=
  let o := (off + 63) / 64 * 64
  match portAddrs s l [permW] (BitVec.ofNat 64 o) src.length with
  | .ok dst => .ok ({ s with mem := captureWords s.mem src dst ((src.length + 7) / 8) }, o + src.length)
  | .wait => .wait
  | .bad => .bad
/-- The parts in order: offset and length in DREACH. -/
def captureParts (s : State) (l : Launch) : List (Word × Nat) → Nat → Port State
  | [], _ => .ok s
  | (o, n) :: ps, off => match portAddrs s l [permR] o n with
    | .ok src => (match capturePart s l src off with
      | .ok (s1, off1) => captureParts s1 l ps off1
      | .wait => .wait
      | .bad => .bad)
    | .wait => .wait
    | .bad => .bad
/-- The capture of RECORD (R356): the packet, the parameter block, the spans; its offset. -/
def capture (s : State) (c : PartCfg) (l : Launch) : Port (State × Word) :=
  match devAddrs s c.spaceLo [permR] (vaOf c.lreach l.packet) 256 with
  | .miss _ => .wait
  | .padMiss _ => .wait
  | .bad _ _ => .bad
  | .ok pk =>
    let bs := s.mem.gather pk
    match portAddrs s l [permR] (fieldW bs 112 8) 64 with
    | .wait => .wait
    | .bad => .bad
    | .ok as =>
      let h := s.mem.gather as
      let n := fieldAt h 8 1
      if 3 < n ∨ s.mem.gatherP as then .bad
      else match capturePart s l pk (fieldAt h 0 8) with
        | .wait => .wait
        | .bad => .bad
        | .ok (s1, o) =>
          let spans := (List.range n).map fun k => (fieldW h (16 + 16 * k) 8, fieldAt h (24 + 16 * k) 8)
          match captureParts s1 l ((fieldW bs 32 8, fieldAt bs 120 4) :: spans) o with
          | .ok s2 => .ok (s2, fieldW h 0 8)
          | .wait => .wait
          | .bad => .bad

/-- The port asks for a credit toward the TRAIL core (R89, R348): one that it has got stays with it until a hiker uses it; the
exchange with another core is not modelled (log 1). -/
def portAsk (s : State) (c : PartCfg) : State :=
  let got (s : State) : State := { s with part := { s.part with portCredit := 1, portTicket := none } }
  if s.part.portCredit ≠ 0 ∨ c.trail ≠ s.core.id then got s
  else
    let t := ticketsOf s false
    let have1 (s : State) (t : Tickets) : State := got (setTickets s false { t with promised := t.promised ++ [c.trail] })
    let fresh : State :=
      if t.next = t.serve ∧ entryFree s false ∧ ¬ s.core.sealed then have1 s t
      else { setTickets s false { t with next := t.next + 1 } with part := { s.part with portTicket := some t.next } }
    match s.part.portTicket with
    | none => keepEntries fresh
    | some k =>
      if !waits t k then keepEntries fresh
      else if k = t.serve ∧ t.reserved ∧ ¬ s.core.sealed then keepEntries (have1 s { t with serve := t.serve + 1, reserved := false })
      else s
/-- The stub's hiker (R348). -/
def stubHiker (c : PartCfg) (l : Launch) : Hiker :=
  ⟨c.stubPc, ⟨(List.range 15).map fun j => if j = 0 then ⟨l.packet, false⟩ else if j = 1 then ⟨l.seq.setWidth 64, false⟩ else ⟨0, false⟩, by simp⟩,
    ⟨[c.lreach, 0, 0, 0], rfl⟩, 0, 0, c.spaceLo, c.stubReach, c.trail, false, false, c.trail, some (l.seq, l.packet)⟩
/-- The hiker leaves. -/
def sendStub (s : State) (c : PartCfg) (l : Launch) : State :=
  let s1 := modLaunch { s with part := { s.part with portCredit := 0 } } l.seq fun x => { x with st := .dispatched }
  launchHiker s1 (stubHiker c l)
/-- A dispatch with its credit: the capture first. -/
def dispatch (s : State) (c : PartCfg) (l : Launch) : State :=
  if !l.flags.getLsbD fRecord then sendStub s c l
  else match capture s c l with
    | .ok (s1, o) => sendStub (modLaunch s1 l.seq fun x => { x with recorded := o }) c l
    | .wait => s
    | .bad => appendLast s l { entryOf l jFailed with cause := cLaunch, detail := 12 }
/-- The port acts for a launch it has chosen: the credit, then the hiker. -/
def dispatchChosen (s : State) (c : PartCfg) (l : Launch) : State :=
  let s1 := portAsk s c
  if s1.part.portCredit = 0 then s1 else dispatch s1 c l
/-- LAUNCH_DISPATCH (R346, R348, R356): the launch that waits for its credit goes on, or the best of the eligible is chosen. -/
def execLaunchDispatch (s : State) : Host.Outcome State Fault Refusal :=
  match portOpen s with
  | none => .next s
  | some c =>
    if s.part.contained ∨ ¬ fanoutIdle s then .next s
    else match chosenLaunch s with
      | some l => .next (dispatchChosen s c l)
      | none =>
        let r := readTime s
        match bestOf (r.2.part.launches.filter (eligible r.1)) with
        | none => .next r.2
        | some l => .next (dispatchChosen (modLaunch r.2 l.seq fun x => { x with st := .chosen }) c l)

/-! FANOUT: the header (R126, R127). -/

/-- A kernel header and its rings as FANOUT reads them. -/
structure Header where
  entry   : Word
  npatch  : Nat
  nring   : Nat
  t       : Nat
  a       : Nat
  persist : Bool
  wfmt    : BitVec 32
  rings   : List RingEntry
deriving DecidableEq, Repr
/-- Window n's format, F32 where none is given. -/
def headerFmt (bs : List Byte) (n : Nat) : Nat := if (fieldAt bs 14 1).testBit n then fieldAt bs 16 4 / 16 ^ n % 16 else 0
/-- A ring entry, none where it is refused. -/
def ringEntry (bs e : List Byte) : Option RingEntry :=
  let w := fieldAt e 1 1
  let kind := fieldAt e 2 1
  let lg := fieldAt e 3 1
  let off := fieldAt e 4 4
  let st := strideOf (WFmt.ofCode (BitVec.ofNat 4 (headerFmt bs w))) kind
  if 31 < fieldAt e 0 1 ∨ 7 < w ∨ 2 < kind ∨ 12 < lg ∨ fieldAt e 8 8 ≠ 0 ∨ off % st ≠ 0 ∨ padSize < off + 2 ^ lg * st then none
  else some ⟨BitVec.ofNat 5 (fieldAt e 0 1), BitVec.ofNat 3 w, BitVec.ofNat 2 kind, BitVec.ofNat 4 lg, off⟩
/-- Every ring entry, each ring once. -/
def ringEntries (bs : List Byte) : List (List Byte) → Option (List RingEntry)
  | [] => some []
  | e :: es => match ringEntry bs e, ringEntries bs es with
    | some x, some xs => if xs.any (fun y => decide (y.ring = x.ring)) then none else some (x :: xs)
    | _, _ => none
/-- A header with its ring entries, none where R127 or R51 refuses it. -/
def readHeader (bs rs : List Byte) : Option Header :=
  let t := fieldAt bs 11 1
  let a := fieldAt bs 12 1
  let n := fieldAt bs 10 1
  let bad := decide (1 < fieldAt bs 13 1) || decide (fieldAt bs 15 1 ≠ 0) || decide ((bs.drop 20).any (· ≠ 0)) || decide (32 < n) ||
    decide (t = 0) || decide (12 < t) || decide (32 < a) || decide (a % 8 ≠ 0) || decide (128 < t * a) ||
    (List.range 8).any fun k => (WFmt.ofCode (BitVec.ofNat 4 (headerFmt bs k))).isNone
  if bad then none
  else match ringEntries bs ((List.range n).map fun k => (rs.drop (16 * k)).take 16) with
    | none => none
    | some es => some ⟨fieldW bs 0 8, fieldAt bs 8 2, n, t, a, (fieldAt bs 13 1).testBit 0,
        BitVec.ofNat 32 ((List.range 8).foldl (fun x k => x + headerFmt bs k * 16 ^ k) 0), es⟩
/-- The header at an offset of a code reach, with X. -/
def fetchHeader (s : State) (space creach : BitVec 16) (off : Word) : Port Header :=
  match devAddrs s space [permX] (vaOf creach off) 64 with
  | .miss _ => .wait
  | .padMiss _ => .wait
  | .bad _ _ => .bad
  | .ok as =>
    let bs := s.mem.gather as
    match devAddrs s space [permX] (vaOf creach (off + 64)) (16 * fieldAt bs 10 1) with
    | .miss _ => .wait
    | .padMiss _ => .wait
    | .bad _ _ => .bad
    | .ok rs =>
      if s.mem.gatherP as ∨ s.mem.gatherP rs then .bad
      else match readHeader bs (s.mem.gather rs) with
        | some h => .ok h
        | none => .bad

/-! FANOUT: the split (R350). -/

/-- Cores of a die that a launch may use, in CORE order. -/
def eligibleCores (c : PartCfg) (d cpc : Nat) (paired : Bool) : List CoreId :=
  ((List.range 8).filter fun k => c.sites.getLsbD (8 * d + k)).flatMap fun k => (List.range 64).flatMap fun cl =>
    ((List.range cpc).filter fun n => !paired || decide (n % 2 = 0)).map fun n => BitVec.ofNat 14 (4096 * d + 512 * k + 8 * cl + n)
/-- The share of rank j: [lo, hi), empty from the die's end on. -/
def shareOf (b cnt per j : Nat) : Nat × Nat := (min (b + j * per) (b + cnt), min (b + (j + 1) * per) (b + cnt))
/-- The per-core share of a die. -/
def perCore (share cnt e : Nat) : Nat := if share ≠ 0 then share else (cnt + e - 1) / e
/-- The shares of dies d, d + 1, ...: core, bounds. None where a die's share needs too many cores. -/
def splitDies (c : PartCfg) (cpc : Nat) (paired : Bool) (share : Nat) : List Nat → Nat → Nat → Option (List (CoreId × Nat × Nat))
  | [], _, _ => some []
  | cnt :: rest, d, b =>
    let cores := eligibleCores c d cpc paired
    let per := perCore share cnt cores.length
    if cores.length * per < cnt then none
    else (splitDies c cpc paired share rest (d + 1) (b + cnt)).map fun r =>
      (cores.zipIdx.map fun x => (x.1, shareOf b cnt per x.2)) ++ r

/-! FANOUT: the checks (R349). -/

/-- What the packet's reading comes to. -/
inductive Fan where
  | refuse (detail : Nat)
  | wait
  | ok (h : Header) (shares : List (CoreId × Nat × Nat))
/-- A reserved field is nonzero (R343). -/
def reservedSet (bs : List Byte) : Bool :=
  decide (4 ≤ fieldAt bs 14 1) || decide (128 ≤ fieldAt bs 28 1) || decide (fieldAt bs 30 2 ≠ 0) || decide (fieldAt bs 68 4 ≠ 0) ||
    (bs.drop 124).any (· ≠ 0)
def packetFlag (bs : List Byte) (k : Nat) : Bool := (fieldAt bs 15 1).testBit k
def packetTotal (bs : List Byte) : Nat := fieldAt bs 16 4 * fieldAt bs 20 4 * fieldAt bs 24 4
def packetDies (bs : List Byte) : List Nat := (List.range 4).map fun d => fieldAt bs (48 + 4 * d) 4
def packetCpc (bs : List Byte) : Nat := fieldAt bs 28 1 / 16 % 8 + 1
/-- Is a core free for a PERSIST launch (R95): it has no share that is on its way, waits or runs, and no resident slot of this core
is taken? -/
def coreFree (s : State) (c : CoreId) : Bool :=
  !(s.part.launches.any fun l => l.shares.any fun x => decide (x.2 = c)) &&
    (decide (c ≠ s.core.id) || (s.core.waiting.isNone && (match s.core.launch with | some l => l.reported | none => true) &&
      allSlots.all fun i => !isResident i || !(s.slot i).occ))
def persistRefused (s : State) (total t : Nat) (cores : List CoreId) : Bool :=
  decide (t * cores.length < total) || !cores.all (coreFree s)
/-- Checks 3 to 9 in order. -/
def checkPacket (s : State) (c : PartCfg) (bs : List Byte) : Fan :=
  let space : BitVec 16 := BitVec.ofNat 16 (fieldAt bs 12 2)
  let creach : BitVec 16 := BitVec.ofNat 16 (fieldAt bs 8 2)
  let total := packetTotal bs
  let dies := packetDies bs
  if reservedSet bs ∨ space.toNat < c.spaceLo.toNat ∨ c.spaceHi.toNat < space.toNat ∨ creach = localReach ∨ fieldAt bs 10 2 = 0xFFFF ∨
      (packetFlag bs fStrict ∧ ¬ packetFlag bs fTimed) then .refuse 3
  else if total = 0 ∨ 2 ^ 32 ≤ total then .refuse 4
  else if dies.foldl (· + ·) 0 ≠ total ∨ dies.zipIdx.any (fun x => decide (x.1 ≠ 0) && decide (c.sites.toNat / 2 ^ (8 * x.2) % 256 = 0)) then .refuse 5
  else match fetchHeader s space creach (fieldW bs 0 8) with
    | .wait => .wait
    | .bad => .refuse 6
    | .ok h =>
      if h.persist ≠ packetFlag bs fPersist then .refuse 6
      else match splitDies c (packetCpc bs) (packetFlag bs fPaired) (fieldAt bs 64 4) dies 0 0 with
        | none => .refuse 7
        | some sh =>
          let used := (sh.filter fun x => decide (x.2.1 < x.2.2)).map (·.1)
          if packetFlag bs fPersist ∧ persistRefused s total h.t used then .refuse 8
          else if packetFlag bs fPaired ∧ packetCpc bs % 2 = 1 then .refuse 9
          else .ok h sh

/-- What the cores get to know of the launch. -/
def infoOf (l : Launch) (bs : List Byte) (h : Header) : LaunchInfo :=
  { seq := l.seq, entry := h.entry, creach := BitVec.ofNat 16 (fieldAt bs 8 2), dreach := BitVec.ofNat 16 (fieldAt bs 10 2),
    space := BitVec.ofNat 16 (fieldAt bs 12 2), t := h.t, a := h.a, flags := BitVec.ofNat 8 (fieldAt bs 15 1), weight := fieldAt bs 28 1 % 16,
    fpctl := if packetFlag bs fFpctl then BitVec.ofNat 8 (fieldAt bs 29 1) else 0, param := fieldW bs 32 8, seed := fieldW bs 40 8,
    x := fieldAt bs 16 4, y := fieldAt bs 20 4, z := fieldAt bs 24 4, start := fieldW bs 88 8 + l.delay, tol := fieldAt bs 96 4,
    gang := fieldW bs 104 8, npatch := h.npatch, patch := fieldW bs 0 8 + BitVec.ofNat 64 (64 + 16 * h.nring), wfmt := h.wfmt, rings := h.rings }
/-- The launch is fanned out: shares numbered in order, empty ones complete from now on, the others on their way. -/
def fanOut (s : State) (l : Launch) (bs : List Byte) (h : Header) (sh : List (CoreId × Nat × Nat)) : State :=
  let f := infoOf l bs h
  let all := sh.zipIdx.map fun x => ((⟨f, x.2, x.1.2.1, x.1.2.2⟩ : Share), x.1.1)
  let live := all.filter fun x => decide (x.1.lo < x.1.hi)
  let none_ := (all.filter fun x => !decide (x.1.lo < x.1.hi)).map fun x => (x.1.share, 0)
  let s1 := modLaunch s l.seq fun x => { x with
    st := .fanned, space := f.space, dreach := f.dreach, flags := f.flags, donew := fieldW bs 80 8, start := f.start, tol := f.tol,
    gang := f.gang, total := packetTotal bs, shares := live, donesh := none_, nshares := sh.length }
  live.foldl (fun s x => if x.2 = s.core.id then s.later [.shareDeliver x.1] else s.send (.share x.1 x.2)) s1
/-- The launch is refused (R178, R349): its journal entry, and the trap at the FANOUT. -/
def refuseLaunch (s : State) (q : BitVec 32) (packet : Word) (cause : BitVec 8) (detail : Nat) : PRes :=
  let entry : JEntry := ⟨q, jFailed, cause, detail, 0, packet, 0, 0, 0, 0⟩
  match findLaunch s q with
  | some l =>
    if l.st = .dispatched ∨ l.st = .cancelled then .trapIn (appendLast s l entry) (trapOf cause)
    else .trapIn (appendMore s l entry) (trapOf cause)
  | none => .trapIn (if jRoom s 2 then append s entry else s) (trapOf cause)
/-- The mark of the arrival entry that a guest runs on (R348). -/
def markOf (s : State) (t : Thread) : Option (BitVec 32 × Word) :=
  match t.kind with
  | .guest e _ => (s.core.arrivals.find? fun a => decide (a.id = e)).bind fun a => a.hk.mark
  | _ => none
/-- The FANOUT acts (R347, R349, R350). -/
def fanoutAct (s : State) (c : PartCfg) (q : BitVec 32) (packet off : Word) (as : List Nat) : PRes :=
  let bs := s.mem.gather as
  match findLaunch s q with
  | some l =>
    if l.st = .cancelled then .own (appendLast s l { entryOf l jFailed with detail := 2 }) none
    else if s.mem.gatherP as then refuseLaunch s q packet cPoison 11
    else match checkPacket s c bs with
      | .wait => .hold (passTurn s)
      | .refuse n => refuseLaunch s q packet cLaunch n
      | .ok h sh => if l.st = .dispatched ∧ off = packet then .own (fanOut s l bs h sh) none else refuseLaunch s q packet cLaunch 10
  | none =>
    if s.mem.gatherP as then refuseLaunch s q packet cPoison 11
    else match checkPacket s c bs with
      | .wait => .hold (passTurn s)
      | .refuse n => refuseLaunch s q packet cLaunch n
      | .ok _ _ => refuseLaunch s q packet cLaunch 10
/-- FANOUT (R178). -/
def execFanout (h : Hdr) (a : SReg) (s : State) : Host.Outcome State Fault Refusal :=
  runPacket h { NF [a] with noRanger := true } false
    (fun s => ender s h
      (fun s => causes [
        causeIf (s.s a).p (trapOf cPoison),
        causeIf (decide ((s.s a).v.toNat % 256 ≠ 0)) ⟨cMisaligned, (s.s a).v, auxOf (s.k 0) none⟩,
        match translated s (s.k 0) (s.s a).v 256 [permR] none with | .stop p => some p | .ok _ => none,
        causeIf (markOf s s.me).isNone (trapOf cLaunch),
        breakAt s (s.k 0) (s.s a).v 256 true false none])
      fun s => match translated s (s.k 0) (s.s a).v 256 [permR] none, markOf s s.me, s.part.cfg with
        | .stop p, _, _ => p
        | .ok as, some (q, packet), some c => fanoutAct (useRegs s [a]) c q packet (s.s a).v as
        | .ok _, _, _ => .trap (trapOf cLaunch)) s

end Sys2Proof.Machine
end

