-- ==== Sys2Proof/Machine/Shares.lean ====
section
/-! DEFINITION. Launches on the core (R64, R70, R73, R93, R127, R236, R261, R350), timed starts and gangs (R351), completion (R352,
R355), partition swap (R353). -/
namespace Sys2Proof.Machine

/-! A core takes its share. -/

/-- SHARE_DELIVER (R350): a core holds one waiting share. A share of a launch that is being stopped is reported as it stands. -/
def execShareDeliver (sh : Share) (s : State) : Host.Outcome State Fault Refusal :=
  match findLaunch s sh.info.seq with
  | none => .next s
  | some l =>
    if l.stopping then .next (modLaunch s l.seq fun x => { x with shares := x.shares.filter fun y => decide (y.1.share ≠ sh.share) })
    else if l.st ≠ .fanned then .next s
    else match s.core.waiting with
      | none => .next { s with core := { s.core with waiting := some sh } }
      | some _ => .next (s.later [.shareDeliver sh])

/-- May the core take the share that waits (R73)? -/
def mayTake (s : State) : Bool :=
  s.core.waiting.isSome && !s.core.halted && !s.core.contained && (match s.core.launch with
    | none => true
    | some l => l.reported && decide (s.core.mq = []) && allSlots.all fun i => !isResident i || !(s.slot i).occ)
/-- A ring as the header defines it (R127). -/
def headerRing (s : State) (e : RingEntry) : Ring :=
  { Ring.undef with
    defd := true, win := e.win, base := e.off, kind := e.kind, log2n := e.log2n, stride := strideOf (fmtOf s e.win.toNat) e.kind.toNat }
/-- The cluster as a launch finds it: window formats, rings and barrier counters, once, before the launch's first thread there
(R93, R127, R261). -/
def setCluster (s : State) (f : LaunchInfo) : State :=
  let s1 := { s with cl := { s.cl with
    wfmt := ⟨(List.range 8).map fun n => f.wfmt.extractLsb' (4 * n) 4, by simp⟩, rings := Bank.fill _ _ .undef, bars := Bank.fill _ _ ⟨none, 0⟩
    launch := some f.seq } }
  f.rings.foldl (fun s e => setRing s e.ring (headerRing s e)) s1
/-- Is a word one of an anonymous pad line's, outside the bedroll area (R236)? -/
def launchPad (s : State) (w : Nat) : Bool :=
  let p := 8 * w - padBase
  decide (padBase ≤ 8 * w) && decide (p < padSize) && !inBedroll s p && (spanAt s p).isNone
/-- The cluster is taken for a launch that it has not been taken for: its units, and zeroed pad lines. -/
def takeCluster (s : State) (f : LaunchInfo) : State :=
  if s.cl.launch = some f.seq then s
  else
    let s1 := setCluster s f
    { s1 with mem := s1.mem.forget (launchPad s1) }
/-- CORE_TAKE_LAUNCH (R56, R64, R73, R127, R236, R351). -/
def execCoreTakeLaunch (s : State) : Host.Outcome State Fault Refusal :=
  match s.core.waiting with
  | none => .next s
  | some sh =>
    if !mayTake s then .next s
    else
      let f := sh.info
      let timed := f.flags.getLsbD fTimed
      let gang := timed && f.flags.getLsbD fStrict && decide (f.gang ≠ 0)
      let s1 := takeCluster s f
      let s2 := { s1 with
        core := { s1.core with
          waiting := none, tiles := Bank.fill _ _ { Tile.zero with valid := true },
          launch := some ⟨sh, sh.lo, 0, !timed, false, false⟩ } }
      .next (if gang then s2.later [.gangReady ⟨f.gang, f.start⟩ s.core.id] else s2)

/-! Timed starts (R351). -/

/-- Members of a STRICT gang that wait: the partition's launches of one GANG and one START, queued, dispatched or fanned out, that
the arbiter has not let go (R351). -/
def gangMembers (s : State) (gang start : Word) : List Launch :=
  s.part.launches.filter fun l => decide (l.gang = gang) && decide (l.start = start) && decide (gang ≠ 0) && l.flags.getLsbD fStrict &&
    l.flags.getLsbD fTimed && !l.go && decide (l.st ≠ .cancelled) && decide (l.st ≠ .closing)
/-- Has every core of every member reported ready? -/
def gangAll (ls : List Launch) : Bool := ls.all fun l => decide (l.st = .fanned) && l.shares.all fun x => l.readyCores.contains x.2
/-- The arbiter looks at a gang: other partitions' members are ready or not by a free value (log 1). -/
def gangLook (s : State) (gang start : Word) : State :=
  let ls := gangMembers s gang start
  if ls ≠ [] ∧ gangAll ls then
    let r := s.fresh
    if r.1.getLsbD 0 then ls.foldl (fun s l => modLaunch s l.seq fun x => { x with go := true }) r.2 else r.2
  else s
/-- GANG_READY (R351): a core has its share of a member and could start. -/
def execGangReady (gang : Gang) (core : CoreId) (s : State) : Host.Outcome State Fault Refusal :=
  .next (gangLook ((gangMembers s gang.id gang.start).foldl (fun s l =>
    if l.shares.any (fun x => decide (x.2 = core)) && !l.readyCores.contains core then
      modLaunch s l.seq fun x => { x with readyCores := x.readyCores ++ [core] }
    else s) s) gang.id gang.start)
/-- Does a member go back into the queue? One whose stub has left is dispatched still (log 45). -/
def backInQueue : LState → LState
  | .dispatched => .dispatched
  | _ => .queued
/-- A member is cancelled before any of its threads starts, and queued again behind its priority with a later START. -/
def requeue (s : State) (l : Launch) : State :=
  let s1 := appendMore s l (entryOf l jCancelled)
  let s2 := (l.shares.filter fun x => decide (x.2 ≠ s.core.id)).foldl (fun s x => s.send (.stopShare x.2 l.seq)) s1
  let mine (sh : Share) : Bool := decide (sh.info.seq = l.seq)
  let l1 := (findLaunch s2 l.seq).getD l
  let l2 := { l1 with
    st := backInQueue l1.st, start := l1.start + BitVec.ofNat 64 l1.retry, delay := l1.delay + BitVec.ofNat 64 l1.retry, shares := [], donesh := [],
    nshares := 0, readyCores := [], late := false }
  { s2 with
    agenda := s2.agenda.filter fun e => match e with | .shareDeliver sh => !mine sh | _ => true
    core := { s2.core with
      waiting := s2.core.waiting.filter fun sh => !mine sh
      launch := s2.core.launch.filter fun x => !mine x.sh }
    cl := { s2.cl with launch := s2.cl.launch.filter (· ≠ l.seq) }
    part := { s2.part with launches := (s2.part.launches.filter fun x => decide (x.seq ≠ l.seq)) ++ [l2] } }
/-- GANG_TIMEOUT (R351): START + TOL of a member has passed before every core has reported. -/
def execGangTimeout (gang : Gang) (s : State) : Host.Outcome State Fault Refusal :=
  match gangMembers s gang.id gang.start with
  | [] => .next s
  | l :: ls =>
    let t := gang.start.toNat + ls.foldl (fun t x => min t x.tol) l.tol + 1
    let s1 := { s with pkg := { s.pkg with timeb := if s.pkg.timeb.toNat < t then BitVec.ofNat 64 t else s.pkg.timeb } }
    .next ((l :: ls).foldl requeue s1)

/-- The first late share of a gang's member (R351). -/
def noteLate (s : State) (l : CoreLaunch) (time : Word) : State :=
  let f := l.sh.info
  match findLaunch s f.seq with
  | none => s
  | some x =>
    if f.gang ≠ 0 ∧ ¬ f.flags.getLsbD fStrict ∧ f.start.toNat + f.tol < time.toNat ∧ ¬ x.late then
      modLaunch (appendMore s x { entryOf x jLate with detail := l.sh.share, core := s.core.id }) f.seq fun y => { y with late := true }
    else s
/-- Has the arbiter let the share's gang go? -/
def gangGo (s : State) (f : LaunchInfo) : Bool :=
  !f.flags.getLsbD fStrict || decide (f.gang = 0) || (match findLaunch s f.seq with | some x => x.go | none => false)
/-- TIMED_START (R351): a reading of TIMEB on the core. -/
def execTimedStart (s : State) : Host.Outcome State Fault Refusal :=
  match s.core.launch with
  | none => .next s
  | some l =>
    if l.started ∨ l.stopped ∨ l.reported ∨ ¬ gangGo s l.sh.info then .next s
    else
      let r := readTime s
      if r.1.toNat < l.sh.info.start.toNat then .next r.2
      else
        let s1 := noteLate r.2 l r.1
        .next { s1 with core := { s1.core with launch := some { l with started := true } } }

/-! The end of a share (R73). -/

/-- Is a saved thread one of the launch, not a guest that has not settled (R73)? -/
def ofLaunch (m : Image) : Bool := m.frame.isSome && (match m.th.kind with | .guest _ _ => false | _ => true)
/-- Is the core's share finished? -/
def shareOver (s : State) (l : CoreLaunch) : Bool :=
  decide (l.sh.hi ≤ l.next) && decide (s.core.pack = []) && decide (s.core.priv.packBlocks = 0) &&
    (allSlots.all fun i => !isResident i || !(s.slot i).occ) && (s.core.images.all fun m => !ofLaunch m) &&
    (allSlots.all fun i => !isGuest i || !(s.slot i).occ || !(decide ((s.th i).park = some .settle) && decide ((s.th i).space = l.sh.info.space))) &&
    !(s.agenda.any fun e => match e with | .taskPush _ => true | _ => false)
/-- Have the threads of a stopped share drained? -/
def shareDrained (s : State) : Bool :=
  (allSlots.all fun i => !isResident i || !(s.slot i).occ || (((s.slot i).stopped || (s.slot i).trap.isSome) && drained s i)) &&
    s.core.images.all fun m => !ofLaunch m || decide (m.owed = [])
/-- They end as KILLT ends them, join words untouched; tasks on their way go with them (R332, R347). -/
def sweep (s : State) : State :=
  let s1 := allSlots.foldl (fun s i => if isResident i && (s.slot i).occ then killCount (release s i) (some i) (s.th i) else s) s
  let s2 := (s1.core.images.filter ofLaunch).foldl (fun s m => killCount (dropImage s m) none m.th) s1
  { s2 with
    agenda := s2.agenda.filter fun e => match e with | .taskPush _ => false | _ => true
    core := { s2.core with pack := [], priv := { s2.core.priv with packBlocks := 0 } } }
/-- The share is reported up the tree: completed with a count, or stopped. -/
def reportOwn (s : State) (l : CoreLaunch) (done : Option Nat) : State :=
  let s1 := { s with core := { s.core with launch := some { l with reported := true } } }
  modLaunch s1 l.sh.info.seq fun x => { x with
    shares := x.shares.filter fun y => decide (y.1.share ≠ l.sh.share)
    donesh := match done with | some n => x.donesh ++ [(l.sh.share, n)] | none => x.donesh
    check := mergeCheck x.check l.check }
/-- Another core's report: complete where it counts its whole share (R352, R355). -/
def reportOther (s : State) (rep : ShareReport) : State :=
  match findLaunch s rep.seq with
  | none => s
  | some l => match l.shares.find? fun x => decide (x.1.share = rep.share) && decide (x.2 ≠ s.core.id) with
    | none => s
    | some (sh, _) =>
      let s0 := if rep.count = 0 then s else markStarted s rep.seq
      let s1 := rep.killed.foldl (fun s x => recordKilled s rep.seq x.1 x.2) s0
      let s2 := modLaunch s1 rep.seq fun x => { x with
        shares := x.shares.filter fun y => decide (y.1.share ≠ rep.share)
        donesh := if rep.count = sh.hi - sh.lo then x.donesh ++ [(rep.share, rep.count)] else x.donesh
        check := mergeCheck x.check rep.check }
      if l.flags.getLsbD fPersist then bargExit s2 rep.seq (sh.hi - sh.lo) else s2
/-- CORE_SHARE_FINISHED (R73): this core's share, or a report from another core. -/
def execCoreShareFinished (rep : ShareReport) (s : State) : Host.Outcome State Fault Refusal :=
  match s.core.launch with
  | none => .next (reportOther s rep)
  | some l =>
    if l.sh.info.seq ≠ rep.seq ∨ l.sh.share ≠ rep.share ∨ l.reported then .next (reportOther s rep)
    else if l.stopped then
      if shareDrained s then
        let s1 := sweep s
        .next (match s1.core.launch with | some x => reportOwn s1 x none | none => s1)
      else .next s
    else if shareOver s l then .next (reportOwn s l (some (l.sh.hi - l.sh.lo)))
    else .next s

/-! The end of a launch (R352, R355). -/

/-- The completion word takes SEQ with STF's effect; a Waited Word event goes to the TRAIL core (R352). A word that does not
translate is left alone (log 35). -/
def doneOp (l : Launch) (a : Nat) : HomeOp := ⟨.stf, a, .i64, true, ⟨l.seq.setWidth 64, false⟩, ⟨0, false⟩, ⟨0, 0⟩, 0⟩
def doneEvent (s : State) (w : WaitEntry) : State :=
  let e : EventRec := ⟨cWaited, 15, nameOfWord w.addr, waiterName w.core w.slot⟩
  let s1 := { s with cl := { s.cl with waiters := s.cl.waiters.filter fun x => decide (x.addr ≠ w.addr) } }
  match s.part.cfg with
  | some c => if c.trail = s.core.id then s1.later [.eventEnqueue e] else s1.send (.event c.trail e)
  | none => s1.later [.eventEnqueue e]
def performDone (s : State) (op : HomeOp) : State :=
  let s1 := markWrite { s with mem := homeMem s.mem op } none (opLines op)
  match s1.cl.waiters.find? fun w => decide (w.addr = op.addr / 8 * 8) && decide (w.full = s1.mem.full op.addr) with
  | some w => doneEvent s1 w
  | none => s1
/-- Has the word's turn come? Waiting for what holds its line; asked for at its home in another package; none to write, or
written. -/
inductive DoneW where
  | wait (s : State)
  | away (s : State)
  | go (s : State)
/-- Whom the home of a completion word in another package answers: the TRAIL core's ranger, which gets the Waited Word event. -/
def doneWaiter (s : State) : Waiter := ⟨match s.part.cfg with | some c => c.trail | none => s.core.id, ranger⟩
/-- Is a request of the ranger, or a completion word, on its way to another package? Their replies are told apart by taking turns. -/
def rangerAsks (s : State) : Bool := match (s.th ranger).sync with | some w => w.asked | none => false
def portAsks (s : State) : Bool := s.part.launches.any fun l => decide (l.st = .closing)
def writeDone (s : State) (l : Launch) : DoneW :=
  if !l.flags.getLsbD fDone then .go s
  else match memByte s l.space (vaOf l.dreach l.donew) [permW] with
    | .ok a fe =>
      if l.donew.toNat % 8 ≠ 0 ∨ ¬ fe ∨ l.dreach = localReach then .go s
      else
        let op := doneOp l a
        if isRemote s a then (if rangerAsks s || portAsks s then .wait s else .away (sendE2E s (packageOf a) 0 (.atomic op (doneWaiter s) false)))
        else if opFree s ranger op then .go (performDone s op)
        else .wait (askOut s (opLines op))
    | .miss => .wait s
    | _ => .go s
/-- Words of a progress bitmap: six to an entry, after SEQ and INDEX and a word with STATE 0 (log 36). -/
def bitmapWords (l : Launch) : List Nat :=
  (List.range ((l.nshares + 63) / 64)).map fun k => maskOf (List.range 64) fun b => l.donesh.any fun x => decide (x.1 = 64 * k + b)
/-- The bitmap's entries. -/
def appendBitmap (s : State) (q : BitVec 32) : List Nat → Nat → State
  | _, 0 => s
  | ws, n + 1 =>
    match s.part.cfg with
    | none => s
    | some c =>
      let i := s.part.jhead
      let va := vaOf c.jreach (c.joff + BitVec.ofNat 64 (jOffset c i))
      let body := (List.range 6).map fun k => ws.getD k 0
      let s1 := devWrite (devWrite s (portSpace s) (va + 8) (0 :: body)) (portSpace s) va [q.toNat + 2 ^ 32 * (i % 2 ^ 32)]
      appendBitmap { s1 with part := { s1.part with jhead := i + 1 } } q (ws.drop 6) n
/-- PARTLY DONE with its progress record, where the journal has room for it (R355, R357). -/
def appendPartly (s : State) (l : Launch) (cause : BitVec 8) : State :=
  let n := (l.nshares + 383) / 384
  let room := match s.part.cfg with
    | some c => decide (jUsed s + 1 + (jResv s - l.resv) + n + 1 ≤ 2 ^ c.jlog)
    | none => false
  let at_ := match s.part.cfg with | some c => jOffset c (s.part.jhead + 1) | none => 0
  let e := { entryOf l jPartly with
    cause := cause, check := l.check, done := doneCount l, recorded := l.recorded, progress := if room then at_ else 0 }
  let s0 := if room then s else modLaunch s l.seq fun x => { x with dropped := true }
  let s1 := appendLast s0 l e
  if room then appendBitmap s1 l.seq (bitmapWords l) n else s1
/-- Every store of the launch's threads has taken its place. -/
def launchStoresOut (s : State) : Bool := allSlots.all fun i => !isResident i || sentAll (s.th i)
/-- Is a launch over: fanned out, every share reported? -/
def launchOver (l : Launch) : Bool := decide (l.st = .fanned) && decide (l.shares = [])
/-- The DONE entry, after the completion word. -/
def closeLaunch (s : State) (l : Launch) : State :=
  appendLast s l { entryOf l jDone with check := l.check, done := doneCount l, recorded := l.recorded }
/-- The home of a completion word in another package has written it (R285, R352). -/
def doneReply (s : State) : State :=
  match s.part.launches.find? fun l => decide (l.st = .closing) with
  | none => s
  | some l => closeLaunch s l
/-- LAUNCH_DONE (R352). -/
def execLaunchDone (seq : BitVec 32) (s : State) : Host.Outcome State Fault Refusal :=
  match findLaunch s seq with
  | none => .next s
  | some l =>
    if !launchOver l || !launchStoresOut s then .next s
    else if l.stopping then .next (appendPartly s l 0)
    else match writeDone s l with
      | .wait s1 => .next s1
      | .away s1 => .next (modLaunch s1 seq fun x => { x with st := .closing })
      | .go s1 => .next (closeLaunch s1 l)

/-! Partition swap (R353). -/

/-- Is a word one of an anonymous pad line's? -/
def anonPad (s : State) (w : Nat) : Bool :=
  decide (padBase ≤ 8 * w) && decide (8 * w < padBase + padSize) && (spanAt s (8 * w - padBase)).isNone
/-- Every slot but the ranger's has stopped, and no engine command runs. -/
def allStopped (s : State) : Bool :=
  (allSlots.all fun i => decide (i = ranger) || (s.slot i).stopped) && decide (s.cl.engq = [])
/-- The ranger too has stopped; every thread is at rest, so that its image is whole (R323, R324, R335). -/
def swapReady (s : State) : Bool :=
  (allSlots.all fun i => (s.slot i).stopped &&
    (!(s.slot i).occ || (settledSlot s i && decide ((s.th i).far = []) && decide ((s.th i).landed = [])))) &&
    (s.core.images.all fun m => decide (m.owed = [])) && !framePending s
/-- What the save engines and the cluster write into the shadow area. -/
def shadowOf (s : State) : Shadow :=
  let m := s.mem.forget fun w => !anonPad s w
  { slots := s.slots, pool := s.core.pool, tiles := s.core.tiles, mq := s.core.mq, mqHalted := s.core.mqHalted, table := s.core.table,
    tabValid := s.core.tabValid, tabGen := s.core.tabGen, wfmt := s.cl.wfmt, rings := s.cl.rings, bars := s.cl.bars, barWait := s.cl.barWait,
    engq := s.cl.engq, cells := m.cells, poison := m.poison, empty := m.empty }
/-- The state leaves: slots, core and cluster stand as after reset, anonymous pad lines are zero. -/
def swapOut (s : State) : State :=
  { s with
    slots := Bank.fill _ _ .vacant
    mem := s.mem.forget (anonPad s)
    core := { s.core with
      pool := Core.reset.pool, tiles := Core.reset.tiles, mq := [], mqHalted := false, table := Core.reset.table, tabValid := false, tabGen := 0 }
    cl := { s.cl with
      wfmt := Cluster.reset.wfmt, rings := Cluster.reset.rings, bars := Cluster.reset.bars, barWait := [], engq := [] }
    part := { s.part with swap := .out, shadow := some (shadowOf s) } }
/-- The saved pad lines are written back. -/
def shadowMem (m : Memory) (x : Shadow) : Memory :=
  let m1 := x.cells.foldl (fun m c => m.setByte c.1 c.2) m
  let m2 := x.poison.foldl (fun m w => m.setPois (8 * w) true) m1
  x.empty.foldl (fun m w => m.setFull (8 * w) false) m2
/-- The same state is there again. -/
def swapIn (s : State) (x : Shadow) : State :=
  { s with
    slots := x.slots
    mem := shadowMem s.mem x
    core := { s.core with
      pool := x.pool, tiles := x.tiles, mq := x.mq, mqHalted := x.mqHalted, table := x.table, tabValid := x.tabValid, tabGen := x.tabGen }
    cl := { s.cl with wfmt := x.wfmt, rings := x.rings, bars := x.bars, barWait := x.barWait, engq := x.engq } }
/-- The STOP bits are clear; a halted core stays so. -/
def swapRuns (s : State) (i : SlotN) : State :=
  s.setSlot i { s.slot i with stop := false, stopped := s.core.halted, halting := false }
/-- PARTITION_SWAP_OUT (R353): pre-empt is raised; once every slot has stopped and the engines are done, the ranger stops too and the
state is saved. -/
def execPartitionSwapOut (s : State) : Host.Outcome State Fault Refusal :=
  match s.part.swap with
  | .here => .next ({ raiseIrq s 1 with part := { s.part with swap := .asked } }.send (.preempt s.core.id) |>.later [.partitionSwapOut])
  | .asked =>
    if !allStopped s then .next (s.later [.partitionSwapOut])
    else
      let x := s.slot ranger
      let s1 := if x.stopped || x.halting then s else stopSlot s ranger
      .next (if swapReady s1 then swapOut s1 else s1.later [.partitionSwapOut])
  | .out => .next s
/-- PARTITION_SWAP_IN (R353): the same state is there again, and the STOP bits are clear. -/
def execPartitionSwapIn (s : State) : Host.Outcome State Fault Refusal :=
  if s.part.swap = .here then .next s
  else
    let s1 := match s.part.shadow with | some x => swapIn s x | none => s
    let s2 := allSlots.foldl swapRuns s1
    .next { s2 with
      agenda := s2.agenda.filter fun e => match e with | .partitionSwapOut => false | _ => true
      part := { s2.part with swap := .here, shadow := none } }

end Sys2Proof.Machine
end

