-- ==== Sys2Proof/Machine/Ras.lean ====
section
/-! DEFINITION. Errors and containment (R375 to R383): the words and registers that an error poisons, a core's containment, a
partition's containment and reset, shadow pairs. -/
namespace Sys2Proof.Machine

/-! Errors in data (R375). -/

/-- ECC_CORRECTED (R375): counted for management firmware. -/
def execEccCorrected (a : Nat) (s : State) : Host.Outcome State Fault Refusal :=
  if !hasMemory a then .fault .noMemory else .next { s with pkg := { s.pkg with corrected := s.pkg.corrected + 1 } }
/-- ECC_UNCORRECTABLE (R152, R375): the word is poisoned. -/
def execEccUncorrectable (a : Nat) (s : State) : Host.Outcome State Fault Refusal :=
  if !hasMemory a then .fault .noMemory else .next { s with mem := s.mem.setPois a true }
/-- REGISTER_SOFT_ERROR (R375): the register, the lane or the element is poisoned. -/
def execRegisterSoftError (tgt : SoftTarget) (s : State) : Host.Outcome State Fault Refusal :=
  match tgt with
  | .scalar i r => .next (s.modTh i fun t => { t with regs := t.regs.setS r { t.regs.s r with p := true, tag := none } })
  | .predicate i q => .next (s.modTh i fun t => { t with regs := t.regs.setP q { t.regs.p q with p := true } })
  | .lane e l =>
    let x := s.core.pool.get e
    .next { s with core := { s.core with pool := s.core.pool.set e { x with v := { x.v with poison := x.v.poison ||| ((1 : BitVec 32) <<< l.val) } } } }
  | .element t k =>
    let x := getTile s t
    .next (setTile s t { x with poison := x.poison ||| ((1 : BitVec 1024) <<< k.val) })
/-- CHANNEL_THRESHOLD (R381): the spans are reported to system software. -/
def execChannelThreshold (spans : List (Nat × Nat)) (s : State) : Host.Outcome State Fault Refusal :=
  .next ({ s with pkg := { s.pkg with spans := s.pkg.spans ++ spans } }.send (.firmware 1))

/-! Core containment (R377). -/

/-- A kill on its way is applied at once: the pipe is emptied (R377 step 1). -/
def emptyPipe (s : State) (i : SlotN) : State :=
  if killing s i then { killFoot s i with agenda := s.agenda.filter fun e => decide (e ≠ .killApply i) } else s
/-- Every chunk that is not committed is squashed, uncounted; a region whose PITCH has committed stays open after it (R302, R377); a
trap behind a squashed chunk is undone with it. A singleton whose home in another package has not answered is left until it has
(log 40). -/
def containSquash (s0 : State) (i : SlotN) : State :=
  let s := emptyPipe s0 i
  let th := s.th i
  let x := s.slot i
  if !x.occ || askedAway th then s
  else
    let s1 :=
      if th.reg.isOpen && decide (th.ended = []) then (squashFrom s i 0).modTh i fun t => { t with pc := t.reg.next }
      else if th.sync.isSome then dropSync s i
      else (squashFrom s i 0).modTh i fun t => { t with park := keptPark th.park }
    s1.setSlot i { s1.slot i with trap := if th.ended = [] ∧ th.sync.isNone then x.trap else none }
/-- The guest that runs on an entry. -/
def guestOn (s : State) (id : Nat) : Option SlotN :=
  allSlots.find? fun i => (s.slot i).occ && (match (s.th i).kind with | .guest e _ => decide (e = id) | _ => false)
/-- The mailboxes are sealed: every entry goes back to where it came from, every guest is ended (R378). -/
def sealCore (s : State) : State :=
  let s1 := s.core.arrivals.foldl (fun s a =>
    let k := match guestOn s a.id with | some i => guestHiker (s.th i) a.hk.dest a.hk.reply | none => a.hk
    sendBack s k) { s with core := { s.core with sealed := true } }
  let s2 := allSlots.foldl (fun s i => if isGuest i && (s.slot i).occ then vacate (freeSpill s (s.th i)) i else s) s1
  { s2 with core := { s2.core with arrivals := [] } }
/-- A resident thread leaves for the bedroll area, once its committed stores have been acknowledged and a home in another package
has answered it; where no run of frames is free it is ended as KILLT ends it (log 40). -/
def containSave (s : State) (i : SlotN) : State :=
  if !isResident i || !(s.slot i).occ || askedAway (s.th i) || !savable (s.th i) then s
  else
    let n := framesFor (s.allot i)
    match freeRun s n with
    | some f => saveThread (readied s i) i (frameLines s f n) (some f) (s.slot i).trap.isSome true
    | none => killCount (killRecord (release s i) (s.th i) i) (some i) (s.th i)
/-- Threads that could not be saved with the others are looked at again. -/
def containAgain (s : State) : State :=
  allSlots.foldl (fun s i => if isResident i && (s.slot i).occ then containSave (containSquash s i) i else s) s
/-- Spilled entries come back to the pack, to be handed on. -/
def unspill (s : State) : Nat → State
  | 0 => s
  | n + 1 => if s.core.priv.packBlocks = 0 then s else unspill (packReadback s) n
/-- The next of a list of cores in CORE order, wrapping, after one. -/
def nextCore (c : CoreId) (l : List CoreId) : Option CoreId :=
  let least (l : List CoreId) : Option CoreId := l.foldl (fun m x => match m with
    | none => some x | some y => if x.toNat < y.toNat then some x else some y) none
  (least (l.filter fun x => decide (c.toNat < x.toNat))).or (least (l.filter fun x => decide (x.toNat < c.toNat)))
/-- The successor: a core of the cluster that runs the same launch, else one of the site (R377). -/
def successorOf (s : State) (q : BitVec 32) : Option CoreId :=
  match findLaunch s q with
  | none => none
  | some l =>
    let cs := l.shares.map (·.2)
    let c := s.core.id
    (nextCore c (cs.filter fun x => decide (x.toNat / 8 = c.toNat / 8))).or (nextCore c (cs.filter fun x => decide (x.toNat / 512 = c.toNat / 512)))
/-- A share of this core's is the successor's from now on. -/
def shareMoves (s : State) (sh : Share) : State :=
  match successorOf s sh.info.seq with
  | none => s
  | some c => modLaunch s sh.info.seq fun x => { x with shares := x.shares.map fun y => if y.1.share = sh.share then (y.1, c) else y }
/-- The task pack, its blocks and the unstarted indices go to the successor (R377). -/
def handOver (s : State) : State :=
  let s1 := unspill s s.core.priv.packBlocks
  let s2 := match s1.core.launch with
    | some l =>
      if l.reported then s1
      else
        let s2 := s1.send (.successor s1.core.pack (some (l.sh, l.next)))
        let s3 := modLaunch (shareMoves s2 l.sh) l.sh.info.seq fun x => { x with check := mergeCheck x.check l.check }
        { s3 with core := { s3.core with launch := some { l with reported := true } } }
    | none => s1
  let s4 := match s2.core.waiting with
    | some sh => shareMoves (s2.send (.successor [] (some (sh, sh.lo)))) sh
    | none => s2
  { s4 with core := { s4.core with pack := [], waiting := none } }
/-- The site's supervisor: its lowest core but this one (R376; log 1). -/
def supervisor (s : State) : CoreId := let c := s.core.id &&& 0x3E00
                                      if c = s.core.id then c + 1 else c
/-- CORE_CONTAIN (R376, R377). -/
def execCoreContain (cls : BitVec 2) (s : State) : Host.Outcome State Fault Refusal :=
  if s.core.contained then .next s
  else
    let s1 := allSlots.foldl containSquash { s with core := { s.core with contained := true } }
    let s2 := sealCore s1
    let s3 := { s2 with core := { s2.core with mq := [], mqHalted := false, tiles := Bank.fill _ _ Tile.zero } }
    let s4 := handOver (allSlots.foldl containSave s3)
    .next (s4.send (.event (supervisor s) ⟨cContain, 15, s.core.id.setWidth 64, cls.setWidth 64⟩))

/-- The bits of an image that mark a place as poisoned and as owed: poison word and bit, far word and bit. -/
def placeBits (p : Nat) : (Nat × Nat) × (Nat × Nat) := if 64 ≤ p then ((26, p - 64), (27, p - 64)) else ((25, p), (28, p))
def setImageBit (m : Memory) (img : Image) (k b : Nat) (on : Bool) : Memory :=
  let x := readWord m img.lines k
  m.engineWord (imageAt img.lines (8 * k))
    (leBytes 8 (if x.testBit b then (if on then x else x - 2 ^ b) else (if on then x + 2 ^ b else x))) false
/-- A register that is owed a value is written poisoned. -/
def poisonPlace (m : Memory) (img : Image) (p : Nat) : Memory :=
  let b := placeBits p
  let m1 := setImageBit m img b.2.1 b.2.2 false
  if 32 ≤ p ∧ p < 64 then
    let k := 48 + (p - 32) / 2
    let x := readWord m1 img.lines k
    m1.engineWord (imageAt img.lines (8 * k))
      (leBytes 8 (if p % 2 = 0 then field x 32 32 * 2 ^ 32 + (2 ^ 32 - 1) else field x 0 32 + 2 ^ 32 * (2 ^ 32 - 1))) false
  else setImageBit m1 img b.1.1 b.1.2 true
/-- Values that an image is still owed come no more. -/
def poisonOwed (s : State) (m : Image) : State :=
  let late := m.owed.filter fun e => e.1.value.isNone
  let m1 := late.foldl (fun mem e => e.2.foldl (fun mem p => poisonPlace mem m p) mem) s.mem
  let owed := readWord m1 m.lines 24
  { s with
    mem := m1.engineWord (imageAt m.lines 192) (leBytes 8 (owed - late.length)) false
    core := { s.core with images := s.core.images.map fun x => if x.id = m.id then { x with owed := x.owed.filter fun e => e.1.value.isSome } else x } }
/-- CONTAIN_OWED_TIMEOUT (R377). -/
def execContainOwedTimeout (s : State) : Host.Outcome State Fault Refusal :=
  if s.core.contained then .next (let s1 := containAgain s
                                  s1.core.images.foldl poisonOwed s1) else .next s

/-! Partition containment and reset (R380, R405). -/

/-- Every running launch ends as PARTLY DONE with CAUSE 0x16. -/
def endRunning (s : State) : State :=
  (s.part.launches.filter fun l => decide (l.st = .fanned ∨ l.st = .closing)).foldl (fun s l => appendPartly s l cContain) s
/-- PARTITION_CONTAIN (R380). -/
def execPartitionContain (s : State) : Host.Outcome State Fault Refusal :=
  if s.part.contained then .next s
  else
    let s1 := (haltCore s).send .partitionStop
    .next (endRunning { s1 with part := { s1.part with contained := true } })

/-- The ranger's registers and slot as firmware starts it (R405, R407). -/
def startRanger (s : State) (c : PartCfg) : State :=
  let r := { RegFile.zero with k := ⟨[c.rk0, 0, 0, 0xFFFF], rfl⟩ }
  let s1 := s.modPriv fun p => { p with vtab := c.vtab &&& ~~~(511 : Word), spillctl := c.spillctl, packspill := c.packspill, bedroll := c.bedroll &&& bedrollMask }
  s1.setSlot ranger { Slot.vacant with occ := true, th := Thread.start .ranger c.rgPc c.spaceLo c.rgReach r 0 }
/-- A launch whose stub was lost with the reset is queued again; one that had been cancelled ends. -/
def afterReset (s : State) : State :=
  let s1 := { s with part := { s.part with launches := s.part.launches.map fun (l : Launch) => if l.st = LState.dispatched then { l with st := .queued } else l } }
  (s1.part.launches.filter fun (l : Launch) => decide (l.st = LState.cancelled)).foldl (fun s l => appendLast s l { entryOf l jFailed with detail := 2 }) s1
/-- Steps of the port, of the package's memory and of the mailbox, which a reset of the partition's sites leaves. -/
def outlives : Instr → Bool
  | .doorbell _ | .cancel _ | .endToEndMessage _ | .remoteStorePerform _ | .remoteInvalidate _ | .cxlMemWrite _ _ _
  | .backInvalidate _ | .readDebugRegister _ _ | .writeDebugRegister _ _ _ | .setFrequency _ | .setPowerCap _ | .attest => true
  | .remoteAtomicPerform (.other _ _ _) _ => true
  | _ => false
/-- PARTITION_RESET (R377, R380): the sites are as after a reset, the queue and the journal stay. -/
def execPartitionReset (s : State) : Host.Outcome State Fault Refusal :=
  if !s.part.contained && !s.core.contained then .next s
  else
    let s1 := endRunning s
    let s2 := { s1 with
      slots := Bank.fill _ _ .vacant
      core := { Core.reset with id := s.core.id }
      cl := .reset
      agenda := s1.agenda.filter outlives
      mem := s1.mem.forget fun w => decide (padBase ≤ 8 * w)
      part := { s1.part with contained := false, portTicket := none, portCredit := 0, swap := .here, shadow := none }
      pkg := { s1.pkg with soloHolder := none, soloQueue := [], invals := [], rjobs := [] } }
    .next (afterReset (match s2.part.cfg with | some c => startRanger s2 c | none => s2))

/-! Shadow pairs (R383). -/

def mismatchesOf (s : State) (i : SlotN) : Nat := match s.core.shadow.find? fun (x : SlotN × Nat) => decide (x.1 = i) with | some x => x.2 | none => 0
def setMismatches (s : State) (i : SlotN) (n : Nat) : State :=
  { s with core := { s.core with shadow := (s.core.shadow.filter fun x => decide (x.1 ≠ i)) ++ (if n = 0 then [] else [(i, n)]) } }
/-- SHADOW_COMPARE (R383): a match commits the leader's chunk; a mismatch squashes it, and a second one of the same chunk contains
the pair. -/
def execShadowCompare (slot : SlotN) (same : Bool) (s : State) : Host.Outcome State Fault Refusal :=
  if !(s.slot slot).occ || !paired s slot || decide ((s.th slot).ended = []) then .next s
  else if same then
    let s1 := tryCommit s slot
    .next (if (s1.th slot).ended.length < (s.th slot).ended.length then setMismatches s1 slot 0 else s1)
  else if mismatchesOf s slot ≠ 0 then execCoreContain 2 s
  else
    let s1 := setMismatches (squashFrom s slot 0) slot 1
    .next { s1 with core := { s1.core with lvq := [] } }

end Sys2Proof.Machine
end

