-- ==== Sys2Proof/Machine/Links.lean ====
section
/-! DEFINITION. The host's memory traffic and port registers (R344, R385 to R388, R395), the Pritas links and messages between
packages (R283 to R285, R390 to R394). -/
namespace Sys2Proof.Machine

/-! CXL (R384, R387, R388). -/

/-- PORT_TRAIN (R384): only timing changes. -/
def execPortTrain (width rate : Nat) (s : State) : Host.Outcome State Fault Refusal :=
  .next { s with pkg := { s.pkg with width := width, rate := rate } }
/-- The physical address of device local address a (R358, R387). -/
def hdm (s : State) (a : Nat) : Nat := s.pkg.mgmt.pkg.toNat * 2 ^ 40 + a
def inHdm (a n : Nat) : Bool := decide (a + n ≤ 0xC000000000)
/-- A host request meets a back-invalidate in flight: it completes first, and the snoop is sent again (R388). -/
def snoopAgain (s : State) (ls : List Nat) : State :=
  let hit := ls.filter s.pkg.backInv.contains
  { s with pkg := { s.pkg with backInv := s.pkg.backInv ++ hit } }.later (hit.map .backInvalidate)
/-- CXL_MEM_WRITE (R387): it waits while a solo execution holds its line, or another package a copy of it (R284, R298). -/
def execCxlMemWrite (a : Nat) (data : List (BitVec 8)) (poison : Bool) (s : State) : Host.Outcome State Fault Refusal :=
  let ls := linesOf (hdm s a) data.length
  if !inHdm a data.length then .fault .noMemory
  else if soloHolds s none ls || !(heldAbroad s ls).isEmpty then .next ((askAbroad s ls).later [.cxlMemWrite a data poison])
  else .next (snoopAgain (homeStore s ⟨hdm s a, data, poison⟩) ls)
/-- CXL_MEM_READ (R387): the bytes with their poison; from now on the host may hold the lines. -/
def execCxlMemRead (a n : Nat) (s : State) : Host.Outcome State Fault Refusal :=
  if !inHdm a n then .fault .noMemory
  else
    let ls := linesOf (hdm s a) n
    let s1 := s.send (.hostRead a (s.mem.bytes (hdm s a) n) (s.mem.poisAny (hdm s a) n))
    .next (snoopAgain { s1 with pkg := { s1.pkg with hostLines := ls.foldl setIns s1.pkg.hostLines } } ls)
/-- Eight words that the host has put into a line of its memory: free values (log 10). -/
def hostFills (s : State) (a : Nat) : Nat → State
  | 0 => s
  | n + 1 =>
    let r := s.fresh
    hostFills { r.2 with mem := r.2.mem.setBytes a (leBytes 8 r.1.toNat) } (a + 8) n
/-- HOST_SNOOP (R286, R298, R384, R389): the host takes a line of its memory back, at once; chunks that read it conflict. -/
def execHostSnoop (line : Nat) (s : State) : Host.Outcome State Fault Refusal :=
  let l := line % 2 ^ 42 + hostBase / 64
  .next (markWrite (hostFills s (64 * l) 8) none [l])
/-- BACK_INVALIDATE (R388). -/
def execBackInvalidate (line : Nat) (s : State) : Host.Outcome State Fault Refusal := .next (s.send (.backInvalidate line))
/-- BACK_INVALIDATE_RESPONSE (R388): with the last snoop answered the host holds the line no more. -/
def execBackInvalidateResponse (line : Nat) (s : State) : Host.Outcome State Fault Refusal :=
  let left := s.pkg.backInv.erase line
  .next { s with pkg := { s.pkg with backInv := left, hostLines := if left.contains line then s.pkg.hostLines else setDel s.pkg.hostLines line } }

/-! Registers that the host writes (R344, R395). -/

/-- CMD's fields. -/
def cmdMask : Word := 0xFFF003FFFFF
/-- An operation of the mailbox begins. -/
def mailStart (s : State) (c : BitVec 44) : State :=
  let core : CoreId := c.extractLsb' 8 14
  let num : BitVec 12 := c.extractLsb' 32 12
  let m := { s.pkg.mgmt with cmd := c, busy := true }
  let s1 := { s with pkg := { s.pkg with mgmt := m } }
  match (c.extractLsb' 0 8).toNat with
  | 1 => s1.later [.readDebugRegister core num]
  | 2 => s1.later [.writeDebugRegister core num m.data]
  | 3 => s1.later [.setFrequency m.data]
  | 4 => s1.later [.setPowerCap m.data]
  | 5 => s1.later [.attest]
  | _ => { s with pkg := { s.pkg with mgmt := { m with busy := false, result := 1 } } }
/-- Eight bytes of REPORT. -/
def putReport (l : List Byte) (k : Nat) (bs : List Byte) : List Byte := l.take k ++ bs ++ l.drop (k + bs.length)
/-- REGISTER_WRITE (R2, R344, R395): read-only fields keep their values; CMD and DATA ignore writes while BUSY. The host has then
seen the partition's message (log 41). -/
def execRegisterWrite (reg : DevReg) (v : BitVec 64) (s : State) : Host.Outcome State Fault Refusal :=
  let m := s.pkg.mgmt
  match reg with
  | .jhead => .next s
  | .jtail => .next { s with part := { s.part with jtail := v.extractLsb' 0 32, msix := false } }
  | .qstat => .next { s with part := { s.part with lost := v.extractLsb' 16 16 } }
  | .mailCmd => .next (if m.busy then s else mailStart s ((v &&& cmdMask).extractLsb' 0 44))
  | .mailData => .next (if m.busy then s else { s with pkg := { s.pkg with mgmt := { m with data := v } } })
  | .mailStatus => .next s
  | .report k => .next { s with pkg := { s.pkg with mgmt := { m with report := putReport m.report (8 * k.val) (leBytes 8 v.toNat) } } }
  | .unassigned => .next s

/-! Links (R390 to R392). -/

/-- Is flit number a at or before b, modulo 4,096? -/
def atOrBefore (a b : BitVec 12) : Bool := decide ((b - a).toNat < 2048)
/-- Flits on a link again. -/
def resend (s : State) (l : LinkN) (fs : List Flit) : State := fs.foldl (fun s f => s.send (.flit l f)) s
/-- Every kept message again, over the links that live (R393). -/
def resendKept (s : State) : State :=
  (s.pkg.e2eKept.filter fun x => !s.pkg.gone.contains x.1).foldl (fun s x => transmit s x.1 x.2) s
/-- The link is down: what it carried goes over other links. -/
def linkDown (s : State) (l : LinkN) : State := resendKept (setLink s l { getLink s l with up := false, replay := [], replays := 0 })
/-- The link retrains to a half without a failed lane, or goes down (R392). -/
def retrain (s : State) (l : LinkN) (failed : BitVec 16) : State :=
  let k := getLink s l
  let bad := k.failed ||| failed
  if bad.extractLsb' 0 8 ≠ 0 ∧ bad.extractLsb' 8 8 ≠ 0 then linkDown (setLink s l { k with failed := bad }) l
  else resend (setLink s l { k with failed := bad, half := true, replays := 0 }) l k.replay
/-- The sender replays from flit n on; the eighth replay in a row starts a retrain. -/
def replayFrom (s : State) (l : LinkN) (n : BitVec 12) : State :=
  let k := getLink s l
  if !k.up then s
  else if 8 ≤ k.replays + 1 then retrain s l 0
  else resend (setLink s l { k with replays := k.replays + 1 }) l (k.replay.filter fun f => atOrBefore n f.seq)
/-- Flits up to n have arrived. -/
def acked (s : State) (l : LinkN) (n : BitVec 12) : State :=
  let k := getLink s l
  let left := k.replay.filter fun f => !atOrBefore f.seq n
  setLink s l { k with replay := left, replays := if left.length < k.replay.length then 0 else k.replays }
/-- NEGATIVE_ACKNOWLEDGEMENT (R391). -/
def execNegativeAcknowledgement (link : LinkN) (seq : BitVec 12) (s : State) : Host.Outcome State Fault Refusal := .next (replayFrom s link seq)
/-- ACKNOWLEDGEMENT (R391). -/
def execAcknowledgement (link : LinkN) (seq : BitVec 12) (s : State) : Host.Outcome State Fault Refusal := .next (acked s link seq)
/-- REPLAY_TIMEOUT (R391): from the oldest flit that is not acknowledged. -/
def execReplayTimeout (link : LinkN) (s : State) : Host.Outcome State Fault Refusal :=
  .next (match (getLink s link).replay.head? with | some f => replayFrom s link f.seq | none => s)
/-- LINK_RETRAIN (R392). -/
def execLinkRetrain (link : LinkN) (failed : BitVec 16) (s : State) : Host.Outcome State Fault Refusal := .next (retrain s link failed)
/-- LINK_DOWN (R392, R393). -/
def execLinkDown (link : LinkN) (s : State) : Host.Outcome State Fault Refusal := .next (linkDown s link)
/-- LINK_RESET (R392): the full width again. -/
def execLinkReset (link : LinkN) (s : State) : Host.Outcome State Fault Refusal :=
  let k := getLink s link
  .next (resend (setLink s link { k with up := true, failed := 0, half := false, replays := 0 }) link k.replay)

/-- An acknowledgement, or a negative one that names the flit expected (R391). -/
def answer (k : Link) (type : BitVec 4) : Flit := sealFlit ⟨k.expect, type, k.expect - 1, true, 3, false, [], 0⟩
/-- A flit that is not the next good payload: the first is answered, the rest discarded. -/
def unexpected (s : State) (l : LinkN) : State :=
  let k := getLink s l
  if k.nakking then s else (setLink s l { k with nakking := true }).send (.flit l (answer k 3))
/-- FLIT_RECEIVE (R390, R391). -/
def execFlitReceive (link : LinkN) (f : Flit) (s : State) : Host.Outcome State Fault Refusal :=
  let k := getLink s link
  if !k.up then .next s
  else if !flitGood f then .next (unexpected s link)
  else
    let s1 := if f.ackv then acked s link f.ackseq else s
    match f.type.toNat with
    | 0 => .next s1
    | 1 =>
      if f.seq ≠ k.expect then .next (unexpected s1 link)
      else
        let k1 := { getLink s1 link with expect := k.expect + 1, nakking := false }
        .next ((setLink s1 link k1).send (.flit link (answer k1 2)))
    | 2 => .next (acked s1 link f.ackseq)
    | 3 => .next (replayFrom s1 link f.seq)
    | 4 => .next (retrain s1 link 0)
    | _ => .next (unexpected s1 link)

/-! Messages between packages (R283 to R285, R393). -/

/-- The number expected next from a package on a virtual network. -/
def expectedFrom (s : State) (src : BitVec 8) (vn : BitVec 2) : Nat :=
  match s.pkg.e2eNext.find? fun (x : BitVec 8 × BitVec 2 × Nat) => decide (x.1 = src) && decide (x.2.1 = vn) with | some x => x.2.2 | none => 0
def bumpFrom (s : State) (src : BitVec 8) (vn : BitVec 2) : State :=
  { s with pkg := { s.pkg with
    e2eNext := (s.pkg.e2eNext.filter fun (x : BitVec 8 × BitVec 2 × Nat) => !(decide (x.1 = src) && decide (x.2.1 = vn))) ++
      [(src, vn, expectedFrom s src vn + 1)] } }
/-- Every message performed, and every duplicate, is acknowledged end to end by one that has no number and is not kept (R393; log
39). -/
def sendGot (s : State) (m : E2EMsg) : State := transmit s m.src ⟨s.pkg.mgmt.pkg, 1, 0, .got m.vn m.seq⟩
/-- The message that an acknowledgement names is kept no longer. -/
def dropKept (s : State) (src : BitVec 8) (vn : BitVec 2) (seq : Nat) : State :=
  { s with pkg := { s.pkg with e2eKept := s.pkg.e2eKept.filter fun x =>
    !(decide (x.1 = src) && decide (x.2.vn = vn) && decide (x.2.seq = seq)) } }
/-- What a message comes to at this package. -/
inductive Arrived where
  | done (s : State)
  | wait (s : State)
  | nowhere
/-- A holder of a copy that has been asked for it reads its block again only once it has answered. -/
def recalled (s : State) (src : BitVec 8) (b : Nat) : Bool := s.pkg.remoteCopies.contains (src, b, true)
/-- A line for another package, which holds a copy of its block from now on (R284). -/
def lineOut (s : State) (src : BitVec 8) (line : Nat) : State :=
  let s1 := s.send (.remoteData src line (s.mem.bytes (64 * line) 64) ((List.range 8).map fun k => s.mem.pois (64 * line + 8 * k)))
  if s1.pkg.remoteCopies.contains (src, line / 8, false) then s1
  else { s1 with pkg := { s1.pkg with remoteCopies := s1.pkg.remoteCopies ++ [(src, line / 8, false)] } }
/-- A reply: to a completion word (R352), to a slot of this core; other cores' are theirs (log 1). -/
def replyIn (s : State) (who : Waiter) (r : HomeReply) : State :=
  if portAsks s && decide (who = doneWaiter s) then doneReply s
  else if who.core = s.core.id then homeReplies s who.slot r
  else s
/-- The effect of a message. -/
def performMsg (s : State) (m : E2EMsg) : Arrived :=
  match m.body with
  | .store st who =>
    if !hasMemory st.addr then .nowhere
    else (match awayStore s m.src who st with
      | some s1 => .done s1
      | none => .wait (askOut s (linesOf st.addr st.data.length)))
  | .ack who => .done (if who.core = s.core.id then s.later [.remoteAck ⟨who.slot, some m.src⟩] else s)
  | .atomic op who mark => if !hasMemory op.addr then .nowhere else .done (s.later [.remoteAtomicPerform (.other m.src who mark) op])
  | .reply who r => .done (replyIn s who r)
  | .invalidate b => (match giveUp s b with
    | some s1 => .done s1
    | none => .wait s)
  | .invalAck b => .done (copyGone s m.src b)
  | .read line =>
    if s.pkg.hostLines.contains line then .wait (askHost s [line])
    else if recalled s m.src (line / 8) then .wait s
    else .done (lineOut s m.src line)
  | .event core ev => .done (if core = s.core.id then s.later [.eventEnqueue ev] else s)
  | .got _ _ => .done s
/-- Early arrivals whose turn has come are looked at again. -/
def recallEarly (s : State) (src : BitVec 8) (vn : BitVec 2) : State :=
  let due (m : E2EMsg) : Bool := decide (m.src = src) && decide (m.vn = vn) && decide (m.seq = expectedFrom s src vn)
  { s with pkg := { s.pkg with e2eEarly := s.pkg.e2eEarly.filter fun m => !due m } }.later ((s.pkg.e2eEarly.filter due).map .endToEndMessage)
/-- A message with a number: in order, early ones held, duplicates discarded. -/
def numberedIn (s : State) (msg : E2EMsg) : Host.Outcome State Fault Refusal :=
  let n := expectedFrom s msg.src msg.vn
  if msg.seq < n then .next (sendGot s msg)
  else if n < msg.seq then
    .next (if s.pkg.e2eEarly.contains msg then s else { s with pkg := { s.pkg with e2eEarly := s.pkg.e2eEarly ++ [msg] } })
  else match performMsg s msg with
    | .nowhere => .fault .noMemory
    | .wait s1 => .next (s1.later [.endToEndMessage msg])
    | .done s1 => .next (recallEarly (bumpFrom (sendGot s1 msg) msg.src msg.vn) msg.src msg.vn)
/-- END_TO_END_MESSAGE (R393). -/
def execEndToEndMessage (msg : E2EMsg) (s : State) : Host.Outcome State Fault Refusal :=
  match msg.body with
  | .got vn seq => .next (dropKept s msg.src vn seq)
  | _ => numberedIn s msg

/-- Has some thread an access pending to a package? -/
def pendingTo (s : State) (p : BitVec 8) : Bool :=
  allSlots.any fun i =>
    ((s.th i).pend ++ (s.th i).sent).any (fun o => !isHost o.addr && decide (packageOf o.addr = p)) ||
      (match (s.th i).sync with | some w => isRemote s w.op.addr && decide (packageOf w.op.addr = p) | none => false)
/-- Is a completion word at that package still to be written (R352)? -/
def donePending (s : State) (p : BitVec 8) : Bool :=
  s.part.launches.any fun l => decide (l.st = .closing) && (match memByte s l.space (vaOf l.dreach l.donew) [permW] with
    | .ok a _ => decide (packageOf a = p)
    | _ => false)
/-- ROUTE_REBUILD (R393): accesses to packages that are gone contain the partition; the rest go out again. -/
def execRouteRebuild (gone : List (BitVec 8)) (s : State) : Host.Outcome State Fault Refusal :=
  let s1 := resendKept { s with pkg := { s.pkg with gone := s.pkg.gone ++ gone.filter fun p => !s.pkg.gone.contains p } }
  .next (if gone.any (fun p => pendingTo s p || donePending s p) then s1.later [.partitionContain] else s1)

end Sys2Proof.Machine
end

