-- ==== Sys2Proof/Machine/Lms.lean ====
section
/-! DEFINITION. SHA-256 (FIPS 180-4) and LMS signatures with LM-OTS W = 8 (RFC 8554), by which firmware, configuration and
attestation are signed (R19, R405, R406; log 18). -/
namespace Sys2Proof.Machine

def beBytes (n x : Nat) : List Byte := (leBytes n x).reverse
def beNat (bs : List Byte) : Nat := leNat bs.reverse

/-! SHA-256. -/

def shaK : List Nat :=
  [0x428A2F98, 0x71374491, 0xB5C0FBCF, 0xE9B5DBA5, 0x3956C25B, 0x59F111F1, 0x923F82A4, 0xAB1C5ED5] ++
  [0xD807AA98, 0x12835B01, 0x243185BE, 0x550C7DC3, 0x72BE5D74, 0x80DEB1FE, 0x9BDC06A7, 0xC19BF174] ++
  [0xE49B69C1, 0xEFBE4786, 0x0FC19DC6, 0x240CA1CC, 0x2DE92C6F, 0x4A7484AA, 0x5CB0A9DC, 0x76F988DA] ++
  [0x983E5152, 0xA831C66D, 0xB00327C8, 0xBF597FC7, 0xC6E00BF3, 0xD5A79147, 0x06CA6351, 0x14292967] ++
  [0x27B70A85, 0x2E1B2138, 0x4D2C6DFC, 0x53380D13, 0x650A7354, 0x766A0ABB, 0x81C2C92E, 0x92722C85] ++
  [0xA2BFE8A1, 0xA81A664B, 0xC24B8B70, 0xC76C51A3, 0xD192E819, 0xD6990624, 0xF40E3585, 0x106AA070] ++
  [0x19A4C116, 0x1E376C08, 0x2748774C, 0x34B0BCB5, 0x391C0CB3, 0x4ED8AA4A, 0x5B9CCA4F, 0x682E6FF3] ++
  [0x748F82EE, 0x78A5636F, 0x84C87814, 0x8CC70208, 0x90BEFFFA, 0xA4506CEB, 0xBEF9A3F7, 0xC67178F2]
def shaInit : List Nat :=
  [0x6A09E667, 0xBB67AE85, 0x3C6EF372, 0xA54FF53A, 0x510E527F, 0x9B05688C, 0x1F83D9AB, 0x5BE0CD19]
def add32 (x y : Nat) : Nat := (x + y) % 2 ^ 32
def rotr (n x : Nat) : Nat := (x >>> n ||| x <<< (32 - n)) % 2 ^ 32
def bigSigma0 (x : Nat) : Nat := rotr 2 x ^^^ rotr 13 x ^^^ rotr 22 x
def bigSigma1 (x : Nat) : Nat := rotr 6 x ^^^ rotr 11 x ^^^ rotr 25 x
def smallSigma0 (x : Nat) : Nat := rotr 7 x ^^^ rotr 18 x ^^^ x >>> 3
def smallSigma1 (x : Nat) : Nat := rotr 17 x ^^^ rotr 19 x ^^^ x >>> 10
def shaCh (x y z : Nat) : Nat := (x &&& y) ^^^ ((2 ^ 32 - 1 - x) &&& z)
def shaMaj (x y z : Nat) : Nat := (x &&& y) ^^^ (x &&& z) ^^^ (y &&& z)
/-- The message schedule, newest word first, n words more. -/
def shaSchedule : Nat → List Nat → List Nat
  | 0, w => w
  | n + 1, w =>
    let g (k : Nat) : Nat := w.getD k 0
    shaSchedule n ((smallSigma1 (g 1) + g 6 + smallSigma0 (g 14) + g 15) % 2 ^ 32 :: w)
/-- One round on the words a to h. -/
def shaRound (v : List Nat) (kw : Nat × Nat) : List Nat :=
  match v with
  | [a, b, c, d, e, f, g, h] =>
    let t := h + bigSigma1 e + shaCh e f g + kw.1 + kw.2
    [add32 t (bigSigma0 a + shaMaj a b c), a, b, c, add32 d t, e, f, g]
  | _ => v
/-- A block of 64 bytes. -/
def shaBlock (v : List Nat) (bs : List Byte) : List Nat :=
  let w := ((List.range 16).map fun k => beNat ((bs.drop (4 * k)).take 4)).reverse
  List.zipWith add32 v ((shaK.zip (shaSchedule 48 w).reverse).foldl shaRound v)
def shaBlocks : Nat → List Nat → List Byte → List Nat
  | 0, v, _ => v
  | n + 1, v, bs => shaBlocks n (shaBlock v (bs.take 64)) (bs.drop 64)
/-- SHA-256. -/
def sha256 (m : List Byte) : List Byte :=
  let bs := m ++ [0x80] ++ List.replicate ((119 - m.length % 64) % 64) 0 ++ beBytes 8 (8 * m.length)
  (shaBlocks (bs.length / 64) shaInit bs).flatMap (beBytes 4)
/-- A digest as one value, its first byte lowest. -/
def digest (m : List Byte) : BitVec 256 := BitVec.ofNat 256 (leNat (sha256 m))

/-! LM-OTS: 34 chains of 255 steps. -/

/-- The hash of RFC 8554 under an identifier, a number, a two-byte field. -/
def lmsHash (id : List Byte) (q d : Nat) (x : List Byte) : List Byte := sha256 (id ++ beBytes 4 q ++ beBytes 2 d ++ x)
/-- n steps of chain i from step j. -/
def otsChain (id : List Byte) (q i : Nat) : Nat → Nat → List Byte → List Byte
  | 0, _, x => x
  | n + 1, j, x => otsChain id q i n (j + 1) (lmsHash id q i (beBytes 1 j ++ x))
/-- The digits of a message: its hash with a randomizer, then the checksum. -/
def otsDigits (id : List Byte) (q : Nat) (c m : List Byte) : List Byte :=
  let h := lmsHash id q 0x8181 (c ++ m)
  h ++ beBytes 2 (h.foldl (fun s b => s + (255 - b.toNat)) 0)
/-- The public key of leaf q that the ends of its chains give. -/
def otsKey (id : List Byte) (q : Nat) (ends : List (List Byte)) : List Byte := lmsHash id q 0x8080 ends.flatten
/-- The public key that a signature of a message leads to: y is the 34 chain values. -/
def otsCandidate (id : List Byte) (q : Nat) (c y m : List Byte) : List Byte :=
  otsKey id q ((otsDigits id q c m).zipIdx.map fun x =>
    otsChain id q x.2 (255 - x.1.toNat) x.1.toNat ((y.drop (32 * x.2)).take 32))

/-! LMS trees. -/

def lmsLeaf (id : List Byte) (node : Nat) (key : List Byte) : List Byte := lmsHash id node 0x8282 key
def lmsInner (id : List Byte) (node : Nat) (l r : List Byte) : List Byte := lmsHash id node 0x8383 (l ++ r)
/-- The root that a path leads to from a node. -/
def lmsClimb (id : List Byte) : Nat → List (List Byte) → List Byte → List Byte
  | _, [], x => x
  | node, p :: ps, x => lmsClimb id (node / 2) ps (if node % 2 = 1 then lmsInner id (node / 2) p x else lmsInner id (node / 2) x p)
/-- The height that an LMS type of RFC 8554 with SHA-256 and M = 32 names. -/
def lmsHeight (type : Nat) : Option Nat := if 5 ≤ type ∧ type ≤ 9 then some (5 * (type - 4)) else none
/-- Does a signature verify: it brings the public key, of 56 bytes, whose digest the ROM holds, and then the LMS signature (R405; log
18)? -/
def lmsVerify (key : BitVec 256) (m blob : List Byte) : Bool :=
  let f (o n : Nat) : List Byte := (blob.drop o).take n
  let id := f 8 16
  match lmsHeight (beNat (f 0 4)) with
  | none => false
  | some h =>
    let q := beNat (f 56 4)
    let path := (List.range h).map fun k => f (1188 + 32 * k) 32
    decide (digest (blob.take 56) = key) && decide (beNat (f 4 4) = 4) && decide (beNat (f 60 4) = 4) &&
      decide (beNat (f 1184 4) = beNat (f 0 4)) && decide (q < 2 ^ h) && decide (blob.length = 1188 + 32 * h) &&
      decide (lmsClimb id (2 ^ h + q) path (lmsLeaf id (2 ^ h + q) (otsCandidate id q (f 64 32) (f 96 1088) m)) = f 24 32)

/-! Signing with a key of height 20 (R406). -/

/-- The private start of chain i of leaf q. -/
def otsSecret (id seed : List Byte) (q i : Nat) : List Byte := lmsHash id q i (beBytes 1 255 ++ seed)
/-- A node of the tree over 2^h leaves that stands h levels above them. -/
def lmsNode (id seed : List Byte) : Nat → Nat → List Byte
  | 0, node => lmsLeaf id node (otsKey id (node - 2 ^ 20) ((List.range 34).map fun i =>
      otsChain id (node - 2 ^ 20) i 255 0 (otsSecret id seed (node - 2 ^ 20) i)))
  | h + 1, node => lmsInner id node (lmsNode id seed h (2 * node)) (lmsNode id seed h (2 * node + 1))
/-- The signature of leaf q with randomizer c. -/
def lmsSign (id seed c : List Byte) (q : Nat) (m : List Byte) : List Byte :=
  beBytes 4 q ++ beBytes 4 4 ++ c ++
    (otsDigits id q c m).zipIdx.flatMap (fun x => otsChain id q x.2 x.1.toNat 0 (otsSecret id seed q x.2)) ++ beBytes 4 8 ++
    (List.range 20).flatMap fun k => lmsNode id seed k ((2 ^ 20 + q) / 2 ^ k ^^^ 1)

end Sys2Proof.Machine
end

