-- ==== Sys2Proof/Machine/Board.lean ====
section
/-! DEFINITION. Debug registers, counters, census (R396 to R400), twin partitions (R401), clocks, droop and power (R402 to R404),
boot and attestation (R405 to R407), the mailbox's operations (R395). -/
namespace Sys2Proof.Machine

def modMgmt (s : State) (f : Mgmt → Mgmt) : State := { s with pkg := { s.pkg with mgmt := f s.pkg.mgmt } }
def modDbg (s : State) (f : Debug → Debug) : State := { s with cl := { s.cl with dbg := f s.cl.dbg } }
/-- RESULT of R395. -/
def rDone : BitVec 4 := 0
def rRefused : BitVec 4 := 1
def rUnknown : BitVec 4 := 2
def rExhausted : BitVec 4 := 3
/-- The running operation ends. -/
def mailEnd (s : State) (r : BitVec 4) : State := modMgmt s fun m => { m with busy := false, result := r }

/-! Debug registers (R396, R399, R400, R403). -/

/-- Does a NUM name a debug register? -/
def isDebug (num : BitVec 12) : Bool :=
  let n := num.toNat
  decide (n = 0) || (decide (8 ≤ n) && decide (n ≤ 0xC)) || (decide (0x10 ≤ n) && decide (n ≤ 0x14)) || decide (n = 0x20) ||
    (decide (0x100 ≤ n) && decide (n < 0x140)) || (decide (0x180 ≤ n) && decide (n ≤ 0x190)) ||
    (decide (0x400 ≤ n) && decide (n < 0x600) && decide (n % 8 ≤ 4))
/-- A debug register of this cluster, or of this core, as it reads. -/
def debugWord (s : State) (n : Nat) : Word :=
  let d := s.cl.dbg
  if n = 0 then BitVec.ofNat 64 (bit d.halted 0)
  else if n < 0xC then d.bppc.get (fin4 n)
  else if n = 0xC then d.bpctl.setWidth 64
  else if n = 0x10 then d.drbase.get 0
  else if n = 0x11 then d.drbase.get 1
  else if n = 0x12 then d.drlimit.get 0
  else if n = 0x13 then d.drlimit.get 1
  else if n = 0x14 then d.drctl.setWidth 64
  else if n = 0x20 then BitVec.ofNat 64 (d.droopth.toNat + 2 ^ 12 * d.stretch.toNat + 2 ^ 16 * d.halve.toNat + bit d.active 32)
  else if n < 0x140 then BitVec.ofNat 64 (s.core.issues.getD (n - 0x100) 0)
  else if n < 0x200 then BitVec.ofNat 64 (s.core.histo.getD (n - 0x180) 0)
  else
    let k := fin64 ((n - 0x400) / 8)
    if n % 8 = 0 then d.csite.get k else BitVec.ofNat 64 ((d.census.get k).get (fin4 (n % 8 - 1)))
/-- Is a core one of this cluster (R8)? -/
def ownCluster (s : State) (c : CoreId) : Bool := decide (c.toNat / 8 = s.core.id.toNat / 8)
/-- Per-core registers of other cores, and other clusters' registers, are not held here: they read as free values (log 1). -/
def isPerCore (num : BitVec 12) : Bool := decide (0x100 ≤ num.toNat) && decide (num.toNat < 0x400)
def heldHere (s : State) (c : CoreId) (num : BitVec 12) : Bool := if isPerCore num then decide (c = s.core.id) else ownCluster s c
/-- READ_DEBUG_REGISTER (R395, R396). -/
def execReadDebugRegister (core : CoreId) (num : BitVec 12) (s : State) : Host.Outcome State Fault Refusal :=
  if !isDebug num then .next (mailEnd s rUnknown)
  else if heldHere s core num then .next (mailEnd (modMgmt s fun m => { m with data := debugWord s num.toNat }) rDone)
  else
    let r := s.fresh
    .next (mailEnd (modMgmt r.2 fun m => { m with data := r.1 }) rDone)

/-- A write of a debug register that holds what is written (R396, R400, R403). -/
def debugWrite (d : Debug) (n : Nat) (v : Word) : Debug :=
  if n < 0xC then { d with bppc := d.bppc.set (fin4 n) v }
  else if n = 0xC then { d with bpctl := v.extractLsb' 0 24 }
  else if n = 0x10 then { d with drbase := d.drbase.set 0 v }
  else if n = 0x11 then { d with drbase := d.drbase.set 1 v }
  else if n = 0x12 then { d with drlimit := d.drlimit.set 0 v }
  else if n = 0x13 then { d with drlimit := d.drlimit.set 1 v }
  else if n = 0x14 then { d with drctl := v.extractLsb' 0 38 }
  else if n = 0x20 then
    { d with droopth := v.extractLsb' 0 10, stretch := if v.extractLsb' 12 4 = 0 then 1 else v.extractLsb' 12 4, halve := v.extractLsb' 16 16 }
  else { d with csite := d.csite.set (fin64 ((n - 0x400) / 8)) v }
/-- WRITE_DEBUG_REGISTER (R395, R396): DBGCTL acts; counters and counts clear; a histogram does not take writes. -/
def execWriteDebugRegister (core : CoreId) (num : BitVec 12) (v : BitVec 64) (s : State) : Host.Outcome State Fault Refusal :=
  let n := num.toNat
  if !isDebug num then .next (mailEnd s rUnknown)
  else
    let s1 := mailEnd s rDone
    if !heldHere s core num then .next s1
    else if n = 0 then .next (s1.later ((if v.getLsbD 1 then [.xtrig] else []) ++ (if v.getLsbD 2 then [.release] else [])))
    else if 0x100 ≤ n ∧ n < 0x140 then .next (s1.later [.issueCounterClear num])
    else if 0x180 ≤ n ∧ n < 0x400 then .next s1
    else if 0x400 ≤ n ∧ n % 8 ≠ 0 then .next (s1.later [.censusClear num])
    else .next (modDbg s1 fun d => debugWrite d n v)
/-- ISSUE_COUNTER_CLEAR (R399). -/
def execIssueCounterClear (num : BitVec 12) (s : State) : Host.Outcome State Fault Refusal :=
  .next (if 0x100 ≤ num.toNat ∧ num.toNat < 0x140 then { s with core := { s.core with issues := s.core.issues.set (num.toNat - 0x100) 0 } } else s)
/-- CENSUS_CLEAR (R400). -/
def execCensusClear (num : BitVec 12) (s : State) : Host.Outcome State Fault Refusal :=
  let n := num.toNat
  let k := fin64 ((n - 0x400) / 8)
  .next (if 0x400 ≤ n ∧ n < 0x600 ∧ 1 ≤ n % 8 ∧ n % 8 ≤ 4 then
    modDbg s fun d => { d with census := d.census.set k ((d.census.get k).set (fin4 (n % 8 - 1)) 0) }
  else s)

/-! Cross-trigger (R398). -/

/-- XTRIG (R398). -/
def execXtrig (s : State) : Host.Outcome State Fault Refusal := .next (crossTrigger s)
/-- RELEASE (R398): slots that only the halt has stopped run again; each ranger gets IRQPEND bit 2. -/
def execRelease (s : State) : Host.Outcome State Fault Refusal :=
  let s1 := allSlots.foldl (fun s i => s.setSlot i { s.slot i with stopped := (s.slot i).stop && (s.slot i).stopped, halting := (s.slot i).stop && (s.slot i).halting }) s
  let s2 := raiseIrq { s1 with core := { s1.core with halted := s.core.contained || s.part.contained } } 2
  .next (modDbg (s2.send (.release s.core.id)) fun d => { d with halted := false })

/-! Twin partitions (R401). -/

/-- TWIN_MISMATCH (R401): the launch's last entry will say so, and the mailbox keeps a record. -/
def execTwinMismatch (seq : BitVec 32) (s : State) : Host.Outcome State Fault Refusal :=
  .next (modMgmt (modLaunch s seq fun l => { l with mismatch := true }) fun m =>
    { m with mismatches := if m.mismatches.contains seq then m.mismatches else m.mismatches ++ [seq] })

/-! Clocks, droop, power (R402 to R404). -/

/-- The tick at which a frequency changes: a multiple of 2^16, at least 1,000 ticks on. -/
def switchTick (t : Nat) : Nat := (t + 1000 + 65535) / 65536 * 65536
/-- SET_FREQUENCY (R402). -/
def execSetFrequency (v : BitVec 64) (s : State) : Host.Outcome State Fault Refusal :=
  let f := (v.extractLsb' 0 12).toNat
  if f % 50 ≠ 0 ∨ f < 200 ∨ 800 < f then .next (mailEnd s rRefused)
  else .next (mailEnd (modMgmt s fun m => { m with freqNext := some (f, switchTick s.pkg.timeb.toNat) }) rDone)
/-- FREQUENCY_SWITCH (R402). -/
def execFrequencySwitch (s : State) : Host.Outcome State Fault Refusal :=
  match s.pkg.mgmt.freqNext with
  | none => .next s
  | some (f, t) =>
    let s1 := modMgmt s fun m => { m with freq := f, freqNext := none }
    .next { s1 with pkg := { s1.pkg with timeb := if s1.pkg.timeb.toNat < t then BitVec.ofNat 64 t else s1.pkg.timeb } }
/-- SET_POWER_CAP (R404). -/
def execSetPowerCap (v : BitVec 64) (s : State) : Host.Outcome State Fault Refusal :=
  if v.toNat < 300 ∨ 2400 < v.toNat then .next (mailEnd s rRefused)
  else .next (mailEnd (modMgmt s fun m => { m with cap := v.extractLsb' 0 12 }) rDone)
/-- POWER_ESTIMATE (R404): the island's duty in sixteenths. -/
def execPowerEstimate (duty : Fin 17) (s : State) : Host.Outcome State Fault Refusal := .next (modDbg s fun d => { d with duty := duty.val })
/-- DROOP_TRIP (R403). -/
def execDroopTrip (s : State) : Host.Outcome State Fault Refusal := .next (modDbg s fun d => { d with active := true })
/-- DROOP_END (R403). -/
def execDroopEnd (s : State) : Host.Outcome State Fault Refusal := .next (modDbg s fun d => { d with active := false })

/-! Boot (R405, R407). -/

def setBoot (s : State) (n : BitVec 8) : State := modMgmt s fun m => { m with boot := n }
/-- Both images failed (R405). -/
def bootFailed : BitVec 8 := 0xE1
/-- POWER_ON_RESET (R405, stage 1): everything is as after reset but what external storage and the ROM hold; the ROM takes image
A's digest. -/
def execPowerOnReset (s : State) : Host.Outcome State Fault Refusal :=
  let m := s.pkg.mgmt
  let m1 : Mgmt := { Mgmt.reset with
    boot := 1, imageA := m.imageA, imageB := m.imageB, sigA := m.sigA, sigB := m.sigB, romKey := m.romKey, config := m.config,
    configBytes := m.configBytes, configSig := m.configSig, leaf := m.leaf, fwDigest := digest m.imageA }
  .next { State.reset with
    ctl := { State.reset.ctl with free := s.ctl.free }
    core := { Core.reset with id := s.core.id }
    pkg := { Pkg.reset with mgmt := m1 }
    inbox := s.inbox
    out := s.out }
/-- SIGNATURE_VERIFY (R405, stage 2). -/
def execSignatureVerify (s : State) : Host.Outcome State Fault Refusal :=
  let m := s.pkg.mgmt
  if m.boot ≠ 1 then .next s
  else if lmsVerify m.romKey m.imageA m.sigA then .next (setBoot s 2)
  else if lmsVerify m.romKey m.imageB m.sigB then .next (setBoot (modMgmt s fun m => { m with fwDigest := digest m.imageB }) 2)
  else .next (setBoot s bootFailed)
/-- NEW_IMAGE (R405): after both images have failed, a new one is tried as image A. -/
def execNewImage (img : List (BitVec 8)) (s : State) : Host.Outcome State Fault Refusal :=
  if s.pkg.mgmt.boot = bootFailed then .next (setBoot (modMgmt s fun m => { m with imageA := img, fwDigest := digest img }) 1) else .next s
/-- HBM_LINK_TRAINING (R394, R405, stage 3): links are up, the timebase is read from the domain, the package has its number. -/
def execHbmLinkTraining (s : State) : Host.Outcome State Fault Refusal :=
  if s.pkg.mgmt.boot ≠ 2 then .next s
  else
    let r := s.fresh
    let s1 := (readTime r.2).2
    .next (modMgmt { s1 with pkg := { s1.pkg with links := Bank.fill _ _ .reset } } fun m => { m with boot := 3, pkg := r.1.extractLsb' 0 8 })
/-- CONFIGURATION_LOAD (R342, R405, R407, stage 4): the partition is built and its ranger started, or the device stops. -/
def execConfigurationLoad (s : State) : Host.Outcome State Fault Refusal :=
  let m := s.pkg.mgmt
  if m.boot ≠ 3 then .next s
  else if !lmsVerify m.romKey m.configBytes m.configSig then .next (modMgmt s fun m => { m with boot := 4, result := rRefused })
  else
    let s1 := setBoot { s with part := { s.part with cfg := m.config } } 4
    .next (match m.config with | some c => startRanger s1 c | none => s1)
/-- LAUNCH_PORTS_OPEN (R405, stage 5). -/
def execLaunchPortsOpen (s : State) : Host.Outcome State Fault Refusal :=
  if s.pkg.mgmt.boot = 4 ∧ s.part.cfg.isSome then .next (setBoot s 5) else .next s

/-! Attestation (R406). -/

def padTo (n : Nat) (bs : List Byte) : List Byte := bs ++ List.replicate (n - bs.length) 0
/-- The report behind the nonce. -/
def attestBody (s : State) (leaf : Nat) : List Byte :=
  let m := s.pkg.mgmt
  leBytes 32 m.fwDigest.toNat ++ leBytes 32 (digest m.configBytes).toNat ++ padTo 8 (leBytes 1 m.pkg.toNat) ++ padTo 8 (leBytes 4 leaf)
/-- The signature of the device identity key's leaf over a report (R406; log 18). -/
def attestSign (leaf : Nat) (body : List Byte) : List Byte :=
  lmsSign (beBytes 16 Config.deviceId) (beBytes 32 Config.deviceSeed) (beBytes 32 (Config.randomizer leaf)) leaf body
/-- ATTEST (R406): the leaf counter moves on before the device signs. -/
def execAttest (s : State) : Host.Outcome State Fault Refusal :=
  let m := s.pkg.mgmt
  if 2 ^ 20 ≤ m.leaf then .next (mailEnd s rExhausted)
  else
    let body := m.report.take 32 ++ attestBody s m.leaf
    .next (mailEnd (modMgmt s fun m => { m with leaf := m.leaf + 1, report := putReport m.report 0 (body ++ attestSign m.leaf body) }) rDone)

end Sys2Proof.Machine
end

