-- ==== Sys2Proof/Machine/RangeOps.lean ====
section
/-! DEFINITION. The table walk as steps (R365 to R367) and the six range instructions (R336 to R338, R287, R364, R369 to R372). -/
namespace Sys2Proof.Machine

/-! Walks and fills. -/

def clusterEntries : Nat := 256
def coreEntries : Nat := 32
def fillCore (s : State) (space : BitVec 16) (d : RangeDesc) : State :=
  { s with core := { s.core with rcache := rcAdd coreEntries s.core.rcache space d } }
def fillBoth (s : State) (space : BitVec 16) (d : RangeDesc) : State :=
  let s1 := fillCore s space d
  { s1 with cl := { s1.cl with rcache := rcAdd clusterEntries s1.cl.rcache space d } }
/-- The miss of an address: the cluster's cache, then the table (R366). -/
def doWalk (s : State) (space : BitVec 16) (va : Nat) : State :=
  match rcFind s.cl.rcache space va with
  | some d => fillCore s space d
  | none => match walk s space va with
    | .locked => s.later [.rangeWalkRetry space va]
    | .none => s.later [.rangeFill space va none]
    | .found d _ => s.later [.rangeFill space va (some d)]
/-- RANGE_WALK (R365, R366). -/
def execRangeWalk (space : BitVec 16) (va : Nat) (s : State) : Host.Outcome State Fault Refusal := .next (doWalk s space va)
/-- RANGE_WALK_RETRY (R365): the walker has waited on LOCK. -/
def execRangeWalkRetry (space : BitVec 16) (va : Nat) (s : State) : Host.Outcome State Fault Refusal := .next (doWalk s space va)
/-- Threads of a space that wait for a walk. -/
def walkers (s : State) (space : BitVec 16) : List SlotN :=
  allSlots.filter fun i => (s.slot i).occ && decide ((s.th i).park = some .walk) && decide ((s.th i).space = space)
/-- RANGE_FILL (R366): both caches take the descriptor; a walk that found none fills nothing, and the packet's next issue knows. -/
def execRangeFill (space : BitVec 16) (va : Nat) (desc : Option RangeDesc) (s : State) : Host.Outcome State Fault Refusal :=
  match desc with
  | some d => .next (fillBoth s space d)
  | none => .next ((walkers s space).foldl (fun s i => s.modTh i fun t => { t with miss := some va }) s)

/-! Invalidation (R287, R289, R337, R367, R371). -/

/-- Has a chunk translated an address of the span, stashed pad lines followed? -/
def Chunk.touches (c : Chunk) (space : BitVec 16) (lo hi : Nat) : Bool :=
  c.trans.any fun x => decide (x.1 = space) && decide (lo ≤ x.2) && decide (x.2 < hi)
def chunksOf (t : Thread) : List Chunk := t.ended ++ [t.cur]
/-- Chunks that translated an address of the span are squashed, and waiting singletons of the space with them, save one whose home
has not answered; a solo chunk commits first. -/
def squashSpan (space : BitVec 16) (lo hi : Nat) (s : State) (i : SlotN) : State :=
  if !(s.slot i).occ || (s.th i).solo then s
  else
    let t := s.th i
    let s1 := if t.sync.isSome && !askedAway t && decide (t.space = space) then dropSync s i else s
    match (chunksOf (s1.th i)).findIdx? fun c => c.touches space lo hi with
    | some n => squashCount s1 i n 1
    | none => s1
/-- A fill on its way is dropped, and the walk made again (R367). -/
def rewalk (space : BitVec 16) (e : Instr) : Instr :=
  match e with
  | .rangeFill sp va d => if sp = space then .rangeWalk sp va else .rangeFill sp va d
  | x => x
/-- Stashed lines of the span are unfilled (R371). -/
def unfill (space : BitVec 16) (lo hi : Nat) (sp : Span) : Span :=
  if sp.global.space ≠ space then sp
  else { sp with filled := sp.filled.filter fun x => !(decide (lo ≤ sp.behind (64 * x.1)) && decide (sp.behind (64 * x.1) < hi)) }
/-- RINVAL's removal of a span (R337). -/
def invalidate (s : State) (space : BitVec 16) (lo hi : Nat) : State :=
  let s1 := { s with
    core := { s.core with rcache := rcDrop s.core.rcache space lo hi }
    cl := { s.cl with rcache := rcDrop s.cl.rcache space lo hi, spans := s.cl.spans.map (unfill space lo hi) }
    agenda := s.agenda.map (rewalk space)
    out := s.out ++ [.invalidate space lo hi] }
  let s2 := allSlots.foldl (squashSpan space lo hi) s1
  allSlots.foldl (fun s i => if (s.th i).space = space then s.modTh i fun t => { t with miss := none } else s) s2
/-- Has slot i no access of a space under an old descriptor left: no store on its way, no operation at another package's home, no
solo chunk of the spans (R287, R372)? -/
def accessOver (s : State) (space : BitVec 16) (spans : List (Nat × Nat)) (i : SlotN) : Bool :=
  let t := s.th i
  sentAll t && !((s.slot i).occ && ((askedAway t && decide (t.space = space)) ||
    (t.solo && (chunksOf t).any fun c => spans.any fun x => c.touches space x.1 x.2)))
/-- Has every access under an old descriptor been performed, or gone (R287, R370, R372)? -/
def invalOver (s : State) (space : BitVec 16) (spans : List (Nat × Nat)) : Bool :=
  allSlots.all (accessOver s space spans) &&
  !s.agenda.any fun e => match e with | .gatherReturn _ => true | .tableLoadComplete _ => true | _ => false

/-! The command block (R336). -/

/-- A block as it is read: there, not there yet, refused. -/
inductive RRead where
  | ok (b : RBlock)
  | wait
  | refused
def readBlock (s : State) (r : WordRef) (op : RangeOp) : RRead :=
  match devAddrs s r.space [permR] r.va 64 with
  | .miss _ => .wait
  | .padMiss _ => .wait
  | .bad _ _ => .refused
  | .ok as =>
    let bs := s.mem.gather as
    let f (o n : Nat) : Nat := leNat ((bs.drop o).take n)
    if s.mem.gatherP as ∨ f 18 6 ≠ 0 ∨ f 40 24 ≠ 0 ∨ f 0 8 % 256 ≠ 0 ∨ (op = .rinval ∧ f 8 8 % 256 ≠ 0) ∨ (op = .rcompact ∧ f 24 8 % 256 ≠ 0) then
      .refused
    else .ok ⟨vaOf (BitVec.ofNat 16 (f 16 2)) (BitVec.ofNat 64 (f 0 8)), vaOf (BitVec.ofNat 16 (f 16 2)) (BitVec.ofNat 64 (f 8 8)), f 24 8,
      BitVec.ofNat 8 (f 32 1), BitVec.ofNat 8 (f 33 1), f 34 6⟩

/-! The table under LOCK (R364). -/

structure RTable where
  dir   : Nat
  table : Nat
  count : Nat
  gen   : Nat
deriving DecidableEq, Repr
/-- A space's directory entry as the walker reads it: LOCK free, LOCK held by another, no entry. -/
inductive TabRead where
  | ok (t : RTable)
  | wait
  | none
/-- The entry, whoever holds LOCK. -/
def tableNow (s : State) (space : BitVec 16) : Option RTable :=
  match dirEntry s space with
  | none => none
  | some e => if s.mem.poisAny e 16 then none else some ⟨e, s.mem.nat e 6, s.mem.nat (e + 8) 4, s.mem.nat (e + 12) 4 % 2 ^ 31⟩
def tableOf (s : State) (space : BitVec 16) : TabRead :=
  match tableNow s space with
  | none => .none
  | some t => if s.mem.nat (t.dir + 12) 4 ≥ 2 ^ 31 then .wait else .ok t
/-- GEN and LOCK are written. -/
def putGen (s : State) (t : RTable) (gen : Nat) (locked : Bool) : State :=
  markWrite { s with mem := s.mem.store (t.dir + 12) (leBytes 4 (gen % 2 ^ 31 + bit locked 31)) false } none (linesOf t.dir 16)
/-- LOCK is taken, as software takes it (R364). -/
def takeLock (s : State) (t : RTable) : State := putGen s t t.gen true
/-- LOCK is given back and nothing has changed. -/
def dropLock (s : State) (t : RTable) : State := putGen s t t.gen false
/-- The well-formed range that the search finds for an address, with its index. -/
def rangeAt (s : State) (t : RTable) (va : Nat) : Option (Nat × RangeDesc) :=
  if t.count = 0 then none
  else
    let i := searchGo s.mem t.table va 33 0 t.count
    let a := t.table + 64 * i
    let d := readDesc s.mem a
    if d.1.base ≤ va ∧ va < d.1.limit ∧ descOk s.pkg.mgmt.pkg d.1 d.2 ∧ ¬ s.mem.poisAny a 64 then some (i, d.1) else none
/-- Words written by the walker. -/
def putWords (m : Memory) : Nat → List Nat → Memory
  | _, [] => m
  | a, w :: ws => putWords (m.engineWord a (leBytes 8 w) false) (a + 8) ws
/-- A descriptor written, SOFT apart (R359). -/
def putDesc (m : Memory) (a : Nat) (d : RangeDesc) : Memory := m.store a (descBytes d) false
/-- A row copied, SOFT apart, which the device never writes (R359). -/
def copyRow (m : Memory) (src dst : Nat) : Memory :=
  (List.range 7).foldl (fun m k => m.store (dst + 8 * k) (m.bytes (src + 8 * k) 8) (m.pois (src + 8 * k))) m
/-- Rows i to n − 1 move one place up, the last first; or one place down. -/
def rowsUp (m : Memory) (table i : Nat) : Nat → Memory
  | 0 => m
  | n + 1 => if i ≤ n then rowsUp (copyRow m (table + 64 * n) (table + 64 * (n + 1))) table i n else m
def rowsDown (m : Memory) (table i n : Nat) : Memory :=
  (List.range (n - i)).foldl (fun m k => copyRow m (table + 64 * (i + k + 1)) (table + 64 * (i + k))) m
/-- An edit of the table and its release: the rows that changed, COUNT, GEN one on, LOCK clear (R364). -/
def release_ (s : State) (t : RTable) (m : Memory) (count : Nat) : State :=
  let s1 := markWrite { s with mem := m.store (t.dir + 8) (leBytes 4 count) false } none (linesOf t.table (64 * (max count t.count)))
  putGen s1 t (t.gen + 1) false

/-! The commands. -/

/-- What a command comes to under LOCK: a token at once, the table as it was or released after a use; or an edit with the spans it
invalidates, and the block of an RCOMPACT. -/
inductive ROut where
  | refuse (status : Nat)
  | done (s : State)
  | inval (s : State) (spans : List (Nat × Nat)) (copying : Option RBlock)

def attrValid : BitVec 8 := 0x80
def attrCompacting : BitVec 8 := 0x40
/-- Bytes 32 to 39 that RSPLIT refuses (R337). -/
def splitBad (b : RBlock) (q : RangeDesc) : Bool :=
  let u : RangeDesc := ⟨0, 0, 0, 0, b.perm, b.attr, 0, 0⟩
  u.compacting || u.valid || decide (32 ≤ b.perm.toNat) || decide (u.cache = 3) || decide (u.place ≠ q.place) ||
    (u.sync && decide (u.place = 2)) || decide (b.rest ≠ 0)
/-- RSPLIT. -/
def rsplit (s : State) (t : RTable) (b : RBlock) : ROut :=
  match rangeAt s t b.va with
  | none => .refuse 6
  | some (i, q) =>
    if b.va = q.base ∨ splitBad b q then .refuse 4
    else if 2 ^ 20 ≤ t.count then .refuse 8
    else
      let at_ (k : Nat) : Nat := t.table + 64 * k
      let lo := { q with limit := b.va, wmark := min q.wmark b.va }
      let hi : RangeDesc := ⟨b.va, q.limit, max q.wmark b.va, q.phys + (b.va - q.base), b.perm, b.attr ||| attrValid, 0, 0⟩
      let m1 := rowsUp s.mem t.table (i + 1) t.count
      .inval (release_ s t (putDesc (putDesc m1 (at_ i) lo) (at_ (i + 1)) hi) (t.count + 1)) [(q.base, q.limit)] none
/-- RMERGE. -/
def rmerge (s : State) (t : RTable) (b : RBlock) : ROut :=
  match rangeAt s t (b.va - 1), rangeAt s t b.va with
  | some (i, lo), some (j, hi) =>
    if lo.limit ≠ b.va ∨ hi.base ≠ b.va then .refuse 6
    else if lo.perm ≠ hi.perm ∨ lo.attr ≠ hi.attr ∨ lo.wmark ≠ lo.limit ∨ hi.phys ≠ lo.phys + (b.va - lo.base) then .refuse 7
    else
      let m1 := putDesc s.mem (t.table + 64 * i) { lo with limit := hi.limit, wmark := hi.wmark }
      .inval (release_ s t (rowsDown m1 t.table j (t.count - 1)) (t.count - 1)) [(lo.base, lo.limit), (hi.base, hi.limit)] none
  | _, _ => .refuse 6
/-- SYNC words that become resident are full (R236). -/
def growFull (m : Memory) (d : RangeDesc) (lo hi : Nat) : Memory :=
  if !d.sync then m else { m with empty := m.empty.filter fun w => !spanHolds d lo hi (8 * w) }
/-- RGROW: the range with base < ADDR ≤ limit. -/
def rgrow (s : State) (t : RTable) (b : RBlock) : ROut :=
  match rangeAt s t (b.va - 1) with
  | none => .refuse 6
  | some (i, q) =>
    if b.va ≤ q.base then .refuse 6
    else if b.va ≤ q.wmark then .refuse 4
    else .inval (release_ s t (growFull (putDesc s.mem (t.table + 64 * i) { q with wmark := b.va }) q q.wmark b.va) t.count)
      [(q.base, q.limit)] none
/-- RCOMPACT's start: the range is marked compacting, its copy mark at its base. -/
def rcompact (s : State) (t : RTable) (b : RBlock) : ROut :=
  match rangeAt s t b.va with
  | none => .refuse 6
  | some (i, q) =>
    if q.place = 2 ∨ ¬ physOk s.pkg.mgmt.pkg q b.phys then .refuse 4
    else .inval (release_ s t (putDesc s.mem (t.table + 64 * i)
      { q with attr := q.attr ||| attrCompacting, newPhys := b.phys, mark := q.base }) t.count) [(q.base, q.limit)] (some b)
/-- RLOAD and RINVAL use the table under LOCK and leave it as it is. -/
def rload (s : State) (space : BitVec 16) (t : RTable) (b : RBlock) : ROut :=
  match rangeAt s t b.va with
  | none => .refuse 6
  | some (_, d) => .done (putGen (fillBoth s space d) t (t.gen + 1) false)
def rinval (s : State) (t : RTable) (b : RBlock) : ROut :=
  if b.limit ≤ b.va then .refuse 4 else .inval (putGen s t (t.gen + 1) false) [(b.va, b.limit)] none
def underLock (s : State) (c : RangeCmd) (t : RTable) (b : RBlock) : ROut :=
  match c.op with
  | .rload => rload s c.space t b
  | .rinval => rinval s t b
  | .rsplit => rsplit s t b
  | .rmerge => rmerge s t b
  | .rgrow => rgrow s t b
  | .rcompact => rcompact s t b

/-! Jobs. -/

def isJob (c : RangeCmd) (j : RJob) : Bool := decide (j.cmd = c)
def setJob (s : State) (c : RangeCmd) (p : RPhase) : State :=
  { s with pkg := { s.pkg with rjobs := s.pkg.rjobs.map fun j => if j.cmd = c then { j with phase := p } else j } }
/-- The invalidation of the space is over; the command's token is written. -/
def endJob (s : State) (c : RangeCmd) (done status : Nat) : State :=
  let s1 := { s with pkg := { s.pkg with rjobs := s.pkg.rjobs.filter fun j => !isJob c j, invals := s.pkg.invals.filter fun x => decide (x ≠ c.space) } }
  match c.ref with | some r => s1.deliverToken r done status false | none => s1
/-- The spans are invalidated; the token waits (R337). -/
def beginInval (s : State) (c : RangeCmd) (spans : List (Nat × Nat)) (done status : Nat) (copying : Option RBlock) : State :=
  let s1 := spans.foldl (fun s x => invalidate s c.space x.1 x.2) s
  setJob { s1 with pkg := { s1.pkg with invals := if s1.pkg.invals.contains c.space then s1.pkg.invals else c.space :: s1.pkg.invals } } c
    (.inval spans done status copying)
/-- A command is taken up: its block is read, then LOCK is taken once it is free (R336, R364). An RINVAL needs no table that can be
read. -/
def startRange (s : State) (c : RangeCmd) : State :=
  if (dirEntry s c.space).isNone then endJob s c 0 4
  else match readBlock s c.block c.op with
    | .wait => s
    | .refused => endJob s c 0 4
    | .ok b => match tableOf s c.space with
      | .wait => s
      | .none =>
        if c.op ≠ .rinval then endJob s c 0 6
        else if b.limit ≤ b.va then endJob s c 0 4
        else beginInval s c [(b.va, b.limit)] 0 0 none
      | .ok t => setJob (takeLock s t) c (.locked b)
/-- The command acts under LOCK and releases it; one that is refused changes nothing (R336, R364). -/
def lockedRange (s : State) (c : RangeCmd) (b : RBlock) : State :=
  match tableNow s c.space with
  | none => endJob s c 0 6
  | some t => match underLock s c t b with
    | .refuse st => endJob (dropLock s t) c 0 st
    | .done s1 => endJob s1 c 0 0
    | .inval s1 spans copying => beginInval s1 c spans 0 0 copying
/-- Words of 256 bytes and the waiters of those words move to their new place, as engine writes (R248, R338; log 34). -/
def moveWords (s : State) (q : RangeDesc) (slot : SlotN) (m : Nat) : State :=
  let old (k : Nat) : Nat := placeAddr q (m + 8 * k)
  let new (k : Nat) : Nat := placeAddr { q with mark := m + 256 } (m + 8 * k)
  let ks := List.range 32
  let s1 := { s with cl := { s.cl with waiters := s.cl.waiters.map fun w =>
    match (ks.find? fun k => decide (old k = w.addr)) with | some k => { w with addr := new k } | none => w } }
  landWords s1 (.slot slot) (ks.map fun k => (new k, s.mem.bytes (old k) 8, s.mem.pois (old k)))
/-- The lines of the next 256 bytes, old and new. -/
def moveLines (q : RangeDesc) (m : Nat) : List Nat :=
  (List.range 4).flatMap fun k => [placeAddr q (m + 64 * k) / 64, placeAddr { q with mark := m + 256 } (m + 64 * k) / 64]
/-- May the next edit of an RCOMPACT be made: no access to its lines is under way, and no copy of them is abroad? -/
def copyReady (s : State) (c : RangeCmd) (q : RangeDesc) : Bool :=
  decide (q.wmark ≤ q.mark) || (invalOver s c.space [(q.mark, q.mark + 256)] && copiesGone s (moveLines q q.mark))
/-- Under LOCK, the next 256 bytes of an RCOMPACT, or its end (R338). -/
def copyStep (s : State) (c : RangeCmd) (b : RBlock) (t : RTable) (i : Nat) (q : RangeDesc) : State :=
  let slot := match c.ref with | some r => r.slot | none => ranger
  let row := t.table + 64 * i
  if q.wmark ≤ q.mark then
    let q1 := { q with phys := q.newPhys, attr := q.attr &&& ~~~attrCompacting, newPhys := 0, mark := 0 }
    beginInval (release_ s t (putDesc s.mem row q1) t.count) c [(q.base, q.limit)] (q.wmark - q.base) 0 none
  else
    let s1 := moveWords s q slot q.mark
    setJob (invalidate (release_ s1 t (putDesc s1.mem row { q with mark := q.mark + 256 }) t.count) c.space q.mark (q.mark + 256)) c
      (.copy b false)
/-- The compacting range of a job's block. -/
def compacting (s : State) (t : RTable) (b : RBlock) : Option (Nat × RangeDesc) :=
  match rangeAt s t b.va with
  | some (i, q) => if q.compacting then some (i, q) else none
  | none => none
/-- An RCOMPACT between its edits: LOCK is taken for the next, which is then made (R338, R364). -/
def copyRange (s : State) (c : RangeCmd) (b : RBlock) (held : Bool) : State :=
  match tableNow s c.space with
  | none => endJob s c 0 6
  | some t => match compacting s t b with
    | none => endJob (if held then dropLock s t else s) c 0 6
    | some (i, q) =>
      if !copyReady s c q then askOut s (moveLines q q.mark)
      else if held then copyStep s c b t i q
      else match tableOf s c.space with
        | .ok _ => setJob (takeLock s t) c (.copy b true)
        | _ => s
/-- A command goes on. -/
def runJob (s : State) (c : RangeCmd) (p : RPhase) : State :=
  match p with
  | .new => startRange s c
  | .locked b => lockedRange s c b
  | .inval spans done st copying =>
    if !invalOver s c.space spans then s
    else match copying with
      | some b => setJob s c (.copy b false)
      | none => endJob s c done st
  | .copy b held => copyRange s c b held
/-- Is a job the first of its space (R336)? -/
def firstJob (s : State) (c : RangeCmd) : Option RJob :=
  match s.pkg.rjobs.find? fun j => decide (j.cmd.space = c.space) with
  | some j => if isJob c j then some j else none
  | none => none
/-- RANGE_COMMAND_EXECUTE (R336 to R338). -/
def execRangeCommandExecute (cmd : RangeCmd) (s : State) : Host.Outcome State Fault Refusal :=
  match firstJob s cmd with
  | some j => .next (runJob s cmd j.phase)
  | none => .next s

/-! The packets (R336). -/

/-- A range instruction: its block is translated before retirement; the walker takes the command after the commit. -/
def runRange (op : RangeOp) (h : Hdr) (d a b : SReg) (s : State) : Host.Outcome State Fault Refusal :=
  privileged s (runPacket h { N2 d a b with far := .scalar } false
    (fun s => ender s h
      (fun s => causes [
        causeIf ((s.s a).p || (s.s b).p) (trapOf cPoison),
        causeIf (decide ((s.s a).v.toNat % 64 ≠ 0)) ⟨cMisaligned, (s.s a).v, auxOf (s.k 0) none⟩,
        spanAccess s (s.k 0) (s.s a).v 64 [permR],
        causeIf (decide ((s.s b).v.extractLsb' 16 48 ≠ 0)) (trapOf cIllegal)])
      fun s =>
        let s1 := useRegs s [a, b]
        let c : RangeCmd := ⟨op, some s.ref, ⟨s.me.space, s.k 0, (s.s a).v⟩, (s.s b).v.extractLsb' 0 16⟩
        .own ({ s1 with pkg := { s1.pkg with rjobs := s1.pkg.rjobs ++ [(⟨c, .new⟩ : RJob)] } }.farS d none 0 true) none) s)
/-- RLOAD. -/
def execRload (h : Hdr) (d a b : SReg) (s : State) : Host.Outcome State Fault Refusal := runRange .rload h d a b s
/-- RINVAL. -/
def execRinval (h : Hdr) (d a b : SReg) (s : State) : Host.Outcome State Fault Refusal := runRange .rinval h d a b s
/-- RSPLIT. -/
def execRsplit (h : Hdr) (d a b : SReg) (s : State) : Host.Outcome State Fault Refusal := runRange .rsplit h d a b s
/-- RMERGE. -/
def execRmerge (h : Hdr) (d a b : SReg) (s : State) : Host.Outcome State Fault Refusal := runRange .rmerge h d a b s
/-- RGROW. -/
def execRgrow (h : Hdr) (d a b : SReg) (s : State) : Host.Outcome State Fault Refusal := runRange .rgrow h d a b s
/-- RCOMPACT. -/
def execRcompact (h : Hdr) (d a b : SReg) (s : State) : Host.Outcome State Fault Refusal := runRange .rcompact h d a b s

end Sys2Proof.Machine
end

