-- ==== Sys2Proof/Machine/ScalarInt.lean ====
section
/-! DEFINITION. Group 1, scalar integer (R187 to R195). -/
namespace Sys2Proof.Machine

/-- ADD and SUB carry a symbolic tag in their 64-bit form (R293). -/
def addBody (h : Hdr) (d a b : SReg) (m : Bool) (s : State) : PRes :=
  finS s h d [a, b] ⟨aluAdd m (s.s a).v (s.s b).v, (s.s a).p || (s.s b).p⟩
    (if m then .use else symAdd (s.tag a) (s.tag b) (s.s a).v (s.s b).v)
def subBody (h : Hdr) (d a b : SReg) (m : Bool) (s : State) : PRes :=
  finS s h d [a, b] ⟨aluSub m (s.s a).v (s.s b).v, (s.s a).p || (s.s b).p⟩
    (if m then .use else symSub (s.tag a) (s.tag b) (s.s b).v)
/-- ADDI (R190, R293). -/
def addiBody (h : Hdr) (d a : SReg) (i : BitVec 22) (s : State) : PRes :=
  finS s h d [a] ⟨(s.s a).v + sx i, (s.s a).p⟩ (match s.tag a with | some (k, c) => .track (k, c + sx i) | none => .use)

/-- ADD (R188). -/
def execAdd (h : Hdr) (d a b : SReg) (m : Bool) (s : State) : Host.Outcome State Fault Refusal :=
  runPacket h (N2 d a b) false (addBody h d a b m) s
/-- SUB (R188). -/
def execSub (h : Hdr) (d a b : SReg) (m : Bool) (s : State) : Host.Outcome State Fault Refusal :=
  runPacket h (N2 d a b) false (subBody h d a b m) s
/-- MUL (R188). -/
def execMul (h : Hdr) (d a b : SReg) (m : Bool) (s : State) : Host.Outcome State Fault Refusal := run2 h d a b (aluMul m) s
/-- MULH (R188). -/
def execMulh (h : Hdr) (d a b : SReg) (m : Bool) (s : State) : Host.Outcome State Fault Refusal := run2 h d a b (aluMulh m) s
/-- AND (R188). -/
def execAnd (h : Hdr) (d a b : SReg) (m : Bool) (s : State) : Host.Outcome State Fault Refusal := run2 h d a b (aluAnd m) s
/-- OR (R188). -/
def execOr (h : Hdr) (d a b : SReg) (m : Bool) (s : State) : Host.Outcome State Fault Refusal := run2 h d a b (aluOr m) s
/-- XOR (R188). -/
def execXor (h : Hdr) (d a b : SReg) (m : Bool) (s : State) : Host.Outcome State Fault Refusal := run2 h d a b (aluXor m) s
/-- ANDN (R188). -/
def execAndn (h : Hdr) (d a b : SReg) (m : Bool) (s : State) : Host.Outcome State Fault Refusal := run2 h d a b (aluAndn m) s
/-- SHL (R188). -/
def execShl (h : Hdr) (d a b : SReg) (m : Bool) (s : State) : Host.Outcome State Fault Refusal := run2 h d a b (aluShl m) s
/-- SHR (R189). -/
def execShr (h : Hdr) (d a b : SReg) (m : Bool) (s : State) : Host.Outcome State Fault Refusal :=
  run2 h d a b (fun x y => aluShr m x y.toNat) s
/-- ROT (R189). -/
def execRot (h : Hdr) (d a b : SReg) (m : Bool) (s : State) : Host.Outcome State Fault Refusal := run2 h d a b (aluRot m) s
/-- MIN (R188). -/
def execMin (h : Hdr) (d a b : SReg) (m : Bool) (s : State) : Host.Outcome State Fault Refusal := run2 h d a b (aluMin m) s
/-- MAX (R188). -/
def execMax (h : Hdr) (d a b : SReg) (m : Bool) (s : State) : Host.Outcome State Fault Refusal := run2 h d a b (aluMax m) s
/-- CLZ (R189). -/
def execClz (h : Hdr) (d a : SReg) (m : Bool) (s : State) : Host.Outcome State Fault Refusal := run1 h d a (aluClz m) s
/-- CTZ (R189). -/
def execCtz (h : Hdr) (d a : SReg) (m : Bool) (s : State) : Host.Outcome State Fault Refusal := run1 h d a (aluCtz m) s
/-- POPC (R189). -/
def execPopc (h : Hdr) (d a : SReg) (m : Bool) (s : State) : Host.Outcome State Fault Refusal := run1 h d a (aluPopc m) s
/-- MOV (R190). -/
def execMov (h : Hdr) (d a : SReg) (m : Bool) (s : State) : Host.Outcome State Fault Refusal := run1 h d a (wRes m) s
/-- ADDI (R190). -/
def execAddi (h : Hdr) (d a : SReg) (i : BitVec 22) (s : State) : Host.Outcome State Fault Refusal :=
  runPacket h (N1 d a) false (addiBody h d a i) s
/-- ANDI (R190). -/
def execAndi (h : Hdr) (d a : SReg) (i : BitVec 22) (s : State) : Host.Outcome State Fault Refusal := run1 h d a (· &&& sx i) s
/-- ORI (R190). -/
def execOri (h : Hdr) (d a : SReg) (i : BitVec 22) (s : State) : Host.Outcome State Fault Refusal := run1 h d a (· ||| sx i) s
/-- XORI (R190). -/
def execXori (h : Hdr) (d a : SReg) (i : BitVec 22) (s : State) : Host.Outcome State Fault Refusal := run1 h d a (· ^^^ sx i) s
/-- SHLI (R189). -/
def execShli (h : Hdr) (d a : SReg) (n : BitVec 6) (s : State) : Host.Outcome State Fault Refusal := run1 h d a (· <<< n.toNat) s
/-- SHRI (R189). -/
def execShri (h : Hdr) (d a : SReg) (n : BitVec 6) (ar : Bool) (s : State) : Host.Outcome State Fault Refusal :=
  run1 h d a (fun x => aluShr ar x n.toNat) s
/-- EXT (R191). -/
def execExt (h : Hdr) (d a : SReg) (p n : BitVec 6) (s : State) : Host.Outcome State Fault Refusal :=
  run1 h d a (fun x => fieldZ x p.toNat (n.toNat + 1)) s
/-- EXTS (R191). -/
def execExts (h : Hdr) (d a : SReg) (p n : BitVec 6) (s : State) : Host.Outcome State Fault Refusal :=
  run1 h d a (fun x => fieldS x p.toNat (n.toNat + 1)) s
/-- INS (R191): the old D is a source. -/
def execIns (h : Hdr) (d a : SReg) (p n : BitVec 6) (s : State) : Host.Outcome State Fault Refusal :=
  run2 h d d a (fun x y => fieldIns x y p.toNat (n.toNat + 1)) s
/-- MOVI (R190). -/
def execMovi (h : Hdr) (d : SReg) (i : BitVec 48) (s : State) : Host.Outcome State Fault Refusal :=
  runPacket h ⟨[], [d], [], [], [], false, false, .near⟩ false (fun s => finS s h d [] ⟨sx i, false⟩ .use) s
/-- MOVK (R190): the old D is a source. -/
def execMovk (h : Hdr) (d : SReg) (i : BitVec 16) (hw : BitVec 2) (s : State) : Host.Outcome State Fault Refusal :=
  run1 h d d (fun x => aluMovk x i hw) s

/-- The register that SEL selects (R192). -/
def selReg (s : State) (a b : SReg) (q : PReg) (neg : Bool) : SReg := if (s.p q).m.getLsbD 0 != neg then a else b
/-- SEL (R192). -/
def execSel (h : Hdr) (d a b : SReg) (q : PReg) (neg : Bool) (s : State) : Host.Outcome State Fault Refusal :=
  runPacket h ⟨[a, b], [d], [], [q], [], false, false, .near⟩ false
    (fun s => finS s h d [a, b] ⟨(s.s (selReg s a b q neg)).v, (s.s (selReg s a b q neg)).p || (s.p q).p⟩ .use) s
/-- LEA (R193). -/
def execLea (h : Hdr) (d a b : SReg) (sh : BitVec 2) (disp : BitVec 10) (s : State) : Host.Outcome State Fault Refusal :=
  run2 h d a b (fun x y => x + (y <<< sh.toNat) + sx disp) s
/-- GETK (R194). -/
def execGetk (h : Hdr) (d : SReg) (a : KReg) (s : State) : Host.Outcome State Fault Refusal :=
  runPacket h ⟨[], [d], [], [], [], false, false, .near⟩ false
    (fun s => finS s h d [] ⟨(s.k a).setWidth 64, false⟩ .use) s
/-- SETK (R55, R194): a reach carries no poison, so a poisoned source or guard raises Poison Consumed. -/
def execSetk (h : Hdr) (d : KReg) (a : SReg) (s : State) : Host.Outcome State Fault Refusal :=
  runPacket h ⟨[a], [], [], [], [], false, false, .near⟩ false
    (fun s =>
      if gpois s h then .trap (trapOf cPoison)
      else if !gbit s h then .done (s.wk d (s.k d)) none
      else if (s.s a).p then .trap (trapOf cPoison)
      else .done ((useRegs s [a]).wk d ((s.s a).v.truncate 16)) none) s

/-- DIV and REM (R195): a poisoned operand gives poisoned, free bits (log 13); a divisor of zero traps; the value is owed. -/
def divBody (h : Hdr) (d a b : SReg) (f : Word → Word → Word) (s : State) : PRes :=
  farGuard s h fun s =>
    let x := s.s a
    let y := s.s b
    let s1 := useRegs s [a, b]
    if x.p || y.p then .done (s1.farS d (some (.scalar ⟨Config.poisonedDivide x.v y.v, true⟩ none)) 0 false) none
    else if y.v = 0 then .trap (trapOf cDivide)
    else .done (s1.farS d (some (.scalar ⟨f x.v y.v, false⟩ none)) 0 false) none
def NDiv (d a b : SReg) : Names := ⟨[a, b], [d], [], [], [], false, false, .scalar⟩
/-- DIV (R195). -/
def execDiv (h : Hdr) (d a b : SReg) (m : Bool) (s : State) : Host.Outcome State Fault Refusal :=
  runPacket h (NDiv d a b) false (divBody h d a b (aluDiv m)) s
/-- REM (R195). -/
def execRem (h : Hdr) (d a b : SReg) (m : Bool) (s : State) : Host.Outcome State Fault Refusal :=
  runPacket h (NDiv d a b) false (divBody h d a b (aluRem m)) s

end Sys2Proof.Machine
end

