-- ==== Sys2Proof/Machine/Dispatch.lean ====
section
/-! DEFINITION. The meaning of every instruction: one arm per constructor, each one call of its meaning. -/
namespace Sys2Proof.Machine

def exec (i : Instr) (s : State) : Host.Outcome State Fault Refusal :=
  match i with
  | .nop h => Sys2Proof.Machine.execNop h s
  | .br h j l => Sys2Proof.Machine.execBr h j l s
  | .jmp h a => Sys2Proof.Machine.execJmp h a s
  | .call h j l => Sys2Proof.Machine.execCall h j l s
  | .calli h a => Sys2Proof.Machine.execCalli h a s
  | .ret h => Sys2Proof.Machine.execRet h s
  | .frame h k o => Sys2Proof.Machine.execFrame h k o s
  | .jtab h a b x => Sys2Proof.Machine.execJtab h a b x s
  | .loop h d a j l => Sys2Proof.Machine.execLoop h d a j l s
  | .exit h => Sys2Proof.Machine.execExit h s
  | .yield h => Sys2Proof.Machine.execYield h s
  | .wakeat h a => Sys2Proof.Machine.execWakeat h a s
  | .fork h a b c lvl => Sys2Proof.Machine.execFork h a b c lvl s
  | .join h a => Sys2Proof.Machine.execJoin h a s
  | .hike h a m => Sys2Proof.Machine.execHike h a m s
  | .post h a b c n core reply => Sys2Proof.Machine.execPost h a b c n core reply s
  | .settle h => Sys2Proof.Machine.execSettle h s
  | .barc h d a => Sys2Proof.Machine.execBarc h d a s
  | .barg h => Sys2Proof.Machine.execBarg h s
  | .fanout h a => Sys2Proof.Machine.execFanout h a s
  | .trap h n => Sys2Proof.Machine.execTrap h n s
  | .chkerr h d m => Sys2Proof.Machine.execChkerr h d m s
  | .tstamp h d => Sys2Proof.Machine.execTstamp h d s
  | .cycle h d => Sys2Proof.Machine.execCycle h d s
  | .pitch h j l => Sys2Proof.Machine.execPitch h j l s
  | .strike h d => Sys2Proof.Machine.execStrike h d s
  | .douse h => Sys2Proof.Machine.execDouse h s
  | .fence h sc m => Sys2Proof.Machine.execFence h sc m s
  | .chunk h => Sys2Proof.Machine.execChunk h s
  | .getsr h d x => Sys2Proof.Machine.execGetsr h d x s
  | .setsr h a x => Sys2Proof.Machine.execSetsr h a x s
  | .iflush h => Sys2Proof.Machine.execIflush h s
  | .add h d a b m => Sys2Proof.Machine.execAdd h d a b m s
  | .sub h d a b m => Sys2Proof.Machine.execSub h d a b m s
  | .mul h d a b m => Sys2Proof.Machine.execMul h d a b m s
  | .mulh h d a b m => Sys2Proof.Machine.execMulh h d a b m s
  | .div h d a b m => Sys2Proof.Machine.execDiv h d a b m s
  | .rem h d a b m => Sys2Proof.Machine.execRem h d a b m s
  | .and h d a b m => Sys2Proof.Machine.execAnd h d a b m s
  | .or h d a b m => Sys2Proof.Machine.execOr h d a b m s
  | .xor h d a b m => Sys2Proof.Machine.execXor h d a b m s
  | .andn h d a b m => Sys2Proof.Machine.execAndn h d a b m s
  | .shl h d a b m => Sys2Proof.Machine.execShl h d a b m s
  | .shr h d a b m => Sys2Proof.Machine.execShr h d a b m s
  | .rot h d a b m => Sys2Proof.Machine.execRot h d a b m s
  | .min h d a b m => Sys2Proof.Machine.execMin h d a b m s
  | .max h d a b m => Sys2Proof.Machine.execMax h d a b m s
  | .clz h d a m => Sys2Proof.Machine.execClz h d a m s
  | .ctz h d a m => Sys2Proof.Machine.execCtz h d a m s
  | .popc h d a m => Sys2Proof.Machine.execPopc h d a m s
  | .mov h d a m => Sys2Proof.Machine.execMov h d a m s
  | .addi h d a imm => Sys2Proof.Machine.execAddi h d a imm s
  | .andi h d a imm => Sys2Proof.Machine.execAndi h d a imm s
  | .ori h d a imm => Sys2Proof.Machine.execOri h d a imm s
  | .xori h d a imm => Sys2Proof.Machine.execXori h d a imm s
  | .shli h d a n => Sys2Proof.Machine.execShli h d a n s
  | .shri h d a n ar => Sys2Proof.Machine.execShri h d a n ar s
  | .ext h d a p n => Sys2Proof.Machine.execExt h d a p n s
  | .exts h d a p n => Sys2Proof.Machine.execExts h d a p n s
  | .ins h d a p n => Sys2Proof.Machine.execIns h d a p n s
  | .movi h d imm => Sys2Proof.Machine.execMovi h d imm s
  | .movk h d imm hw => Sys2Proof.Machine.execMovk h d imm hw s
  | .sel h d a b q neg => Sys2Proof.Machine.execSel h d a b q neg s
  | .lea h d a b sh disp => Sys2Proof.Machine.execLea h d a b sh disp s
  | .getk h d a => Sys2Proof.Machine.execGetk h d a s
  | .setk h d a => Sys2Proof.Machine.execSetk h d a s
  | .fadd h d a b t rm => Sys2Proof.Machine.execFadd h d a b t rm s
  | .fsub h d a b t rm => Sys2Proof.Machine.execFsub h d a b t rm s
  | .fmul h d a b t rm => Sys2Proof.Machine.execFmul h d a b t rm s
  | .fdiv h d a b t rm => Sys2Proof.Machine.execFdiv h d a b t rm s
  | .ffma h d a b c t rm => Sys2Proof.Machine.execFfma h d a b c t rm s
  | .fsqrt h d a t rm => Sys2Proof.Machine.execFsqrt h d a t rm s
  | .fmin h d a b t => Sys2Proof.Machine.execFmin h d a b t s
  | .fmax h d a b t => Sys2Proof.Machine.execFmax h d a b t s
  | .fsgn h d a b t op => Sys2Proof.Machine.execFsgn h d a b t op s
  | .fcvt h d a dt sty rm inf => Sys2Proof.Machine.execFcvt h d a dt sty rm inf s
  | .frnd h d a t rm => Sys2Proof.Machine.execFrnd h d a t rm s
  | .fcls h d a t => Sys2Proof.Machine.execFcls h d a t s
  | .fxf h d a t rm fn => Sys2Proof.Machine.execFxf h d a t rm fn s
  | .cmp h d c a b cd un => Sys2Proof.Machine.execCmp h d c a b cd un s
  | .cmpi h d c a cd un imm => Sys2Proof.Machine.execCmpi h d c a cd un imm s
  | .fcmp h d c a b t cd => Sys2Proof.Machine.execFcmp h d c a b t cd s
  | .plog h d a b tt => Sys2Proof.Machine.execPlog h d a b tt s
  | .pfrom h d a => Sys2Proof.Machine.execPfrom h d a s
  | .ptos h d a => Sys2Proof.Machine.execPtos h d a s
  | .pcnt h d a => Sys2Proof.Machine.execPcnt h d a s
  | .pfirst h d a => Sys2Proof.Machine.execPfirst h d a s
  | .plim h d a b byte => Sys2Proof.Machine.execPlim h d a b byte s
  | .vcmp h d c a b t cd sb => Sys2Proof.Machine.execVcmp h d c a b t cd sb s
  | .ld h d a b k t sh disp => Sys2Proof.Machine.execLd h d a b k t sh disp s
  | .st h d a b k t sh disp => Sys2Proof.Machine.execSt h d a b k t sh disp s
  | .ldf h d a b k t sh disp => Sys2Proof.Machine.execLdf h d a b k t sh disp s
  | .ldfe h d a b k t sh disp => Sys2Proof.Machine.execLdfe h d a b k t sh disp s
  | .stef h d a b k t sh disp => Sys2Proof.Machine.execStef h d a b k t sh disp s
  | .stf h d a b k t sh disp => Sys2Proof.Machine.execStf h d a b k t sh disp s
  | .ldo h d a k t imm => Sys2Proof.Machine.execLdo h d a k t imm s
  | .sto h d a k t imm => Sys2Proof.Machine.execSto h d a k t imm s
  | .vld h d a b disp k t sh => Sys2Proof.Machine.execVld h d a b disp k t sh s
  | .vst h d a b disp k t sh rm nar => Sys2Proof.Machine.execVst h d a b disp k t sh rm nar s
  | .vldg h d a b k t sh sgn => Sys2Proof.Machine.execVldg h d a b k t sh sgn s
  | .vsts h d a b k t sh sgn => Sys2Proof.Machine.execVsts h d a b k t sh sgn s
  | .gathn h d a b k t sh sgn => Sys2Proof.Machine.execGathn h d a b k t sh sgn s
  | .feset h k a m => Sys2Proof.Machine.execFeset h k a m s
  | .atom h d a b k op w => Sys2Proof.Machine.execAtom h d a b k op w s
  | .cas h d a b c k w => Sys2Proof.Machine.execCas h d a b c k w s
  | .vred h a b k op t => Sys2Proof.Machine.execVred h a b k op t s
  | .pref h k a m => Sys2Proof.Machine.execPref h k a m s
  | .stash h a b c => Sys2Proof.Machine.execStash h a b c s
  | .unstash h d a => Sys2Proof.Machine.execUnstash h d a s
  | .flush h d a b k => Sys2Proof.Machine.execFlush h d a b k s
  | .copy h d a b c dsc ring => Sys2Proof.Machine.execCopy h d a b c dsc ring s
  | .mcast h d a b c ring => Sys2Proof.Machine.execMcast h d a b c ring s
  | .vadd h d a b t rm na nb sat sb => Sys2Proof.Machine.execVadd h d a b t rm na nb sat sb s
  | .vsub h d a b t rm na nb sat sb => Sys2Proof.Machine.execVsub h d a b t rm na nb sat sb s
  | .vmul h d a b t rm na nb sat sb => Sys2Proof.Machine.execVmul h d a b t rm na nb sat sb s
  | .vfma h d a b c t rm na nb nc sat sb => Sys2Proof.Machine.execVfma h d a b c t rm na nb nc sat sb s
  | .vmin h d a b t sb => Sys2Proof.Machine.execVmin h d a b t sb s
  | .vmax h d a b t sb => Sys2Proof.Machine.execVmax h d a b t sb s
  | .vand h d a b t sb => Sys2Proof.Machine.execVand h d a b t sb s
  | .vor h d a b t sb => Sys2Proof.Machine.execVor h d a b t sb s
  | .vxor h d a b t sb => Sys2Proof.Machine.execVxor h d a b t sb s
  | .vshr h d a b t sb => Sys2Proof.Machine.execVshr h d a b t sb s
  | .vmulh h d a b t sb => Sys2Proof.Machine.execVmulh h d a b t sb s
  | .vsgn h d a b t op sb => Sys2Proof.Machine.execVsgn h d a b t op sb s
  | .vdiv h d a b t rm sb => Sys2Proof.Machine.execVdiv h d a b t rm sb s
  | .vxf h d a t rm fn => Sys2Proof.Machine.execVxf h d a t rm fn s
  | .vcvt h d a dt sty rm x => Sys2Proof.Machine.execVcvt h d a dt sty rm x s
  | .vshl h d a b t sat sb => Sys2Proof.Machine.execVshl h d a b t sat sb s
  | .vdot h d a b t rm na nb sat sb => Sys2Proof.Machine.execVdot h d a b t rm na nb sat sb s
  | .vclamp h d a b c t sb => Sys2Proof.Machine.execVclamp h d a b c t sb s
  | .vsel h d a b q neg t sb => Sys2Proof.Machine.execVsel h d a b q neg t sb s
  | .vmov h d a => Sys2Proof.Machine.execVmov h d a s
  | .vbcast h d a t => Sys2Proof.Machine.execVbcast h d a t s
  | .vget h d a lane sx => Sys2Proof.Machine.execVget h d a lane sx s
  | .vins h d a lane => Sys2Proof.Machine.execVins h d a lane s
  | .vperm h d a b t sb => Sys2Proof.Machine.execVperm h d a b t sb s
  | .vslide h d a t n => Sys2Proof.Machine.execVslide h d a t n s
  | .vfold h d a t rm op => Sys2Proof.Machine.execVfold h d a t rm op s
  | .vscan h d a t rm op => Sys2Proof.Machine.execVscan h d a t rm op s
  | .vidx h d m => Sys2Proof.Machine.execVidx h d m s
  | .vpack h d a b dt rm nar => Sys2Proof.Machine.execVpack h d a b dt rm nar s
  | .vunpk h d a sty n => Sys2Proof.Machine.execVunpk h d a sty n s
  | .tenc h d a => Sys2Proof.Machine.execTenc h d a s
  | .tdec h d a => Sys2Proof.Machine.execTdec h d a s
  | .tload h d a => Sys2Proof.Machine.execTload h d a s
  | .vmxs h d a b rm inf sb => Sys2Proof.Machine.execVmxs h d a b rm inf sb s
  | .rdef h d a b => Sys2Proof.Machine.execRdef h d a b s
  | .rpush h d a vec => Sys2Proof.Machine.execRpush h d a vec s
  | .rpop h d a vec => Sys2Proof.Machine.execRpop h d a vec s
  | .rstat h d a => Sys2Proof.Machine.execRstat h d a s
  | .bind h d a mode dsc k => Sys2Proof.Machine.execBind h d a mode dsc k s
  | .unbind h d => Sys2Proof.Machine.execUnbind h d s
  | .mma h d a b n => Sys2Proof.Machine.execMma h d a b n s
  | .mzero h d => Sys2Proof.Machine.execMzero h d s
  | .mdrain h d a c k => Sys2Proof.Machine.execMdrain h d a c k s
  | .mfill h d a k => Sys2Proof.Machine.execMfill h d a k s
  | .rquery h d a k => Sys2Proof.Machine.execRquery h d a k s
  | .rett h => Sys2Proof.Machine.execRett h s
  | .ctxsave h d a b => Sys2Proof.Machine.execCtxsave h d a b s
  | .ctxload h d a b => Sys2Proof.Machine.execCtxload h d a b s
  | .rload h d a b => Sys2Proof.Machine.execRload h d a b s
  | .rinval h d a b => Sys2Proof.Machine.execRinval h d a b s
  | .rsplit h d a b => Sys2Proof.Machine.execRsplit h d a b s
  | .rmerge h d a b => Sys2Proof.Machine.execRmerge h d a b s
  | .rgrow h d a b => Sys2Proof.Machine.execRgrow h d a b s
  | .rcompact h d a b => Sys2Proof.Machine.execRcompact h d a b s
  | .resume h a => Sys2Proof.Machine.execResume h a s
  | .killt h a => Sys2Proof.Machine.execKillt h a s
  | .dbghalt h a => Sys2Proof.Machine.execDbghalt h a s
  | .wakef h a => Sys2Proof.Machine.execWakef h a s
  | .credsync h a => Sys2Proof.Machine.execCredsync h a s
  | .getpr h d x => Sys2Proof.Machine.execGetpr h d x s
  | .setpr h a x => Sys2Proof.Machine.execSetpr h a x s
  | .idle h => Sys2Proof.Machine.execIdle h s
  | .farArrival slot seq => Sys2Proof.Machine.execFarArrival slot seq s
  | .crownTrap slot => Sys2Proof.Machine.execCrownTrap slot s
  | .crownReplay slot why => Sys2Proof.Machine.execCrownReplay slot why s
  | .killApply slot => Sys2Proof.Machine.execKillApply slot s
  | .replayWake slot => Sys2Proof.Machine.execReplayWake slot s
  | .lineFill slot => Sys2Proof.Machine.execLineFill slot s
  | .slotFill f around => Sys2Proof.Machine.execSlotFill f around s
  | .taskPush push => Sys2Proof.Machine.execTaskPush push s
  | .joinDecrement ref slot => Sys2Proof.Machine.execJoinDecrement ref slot s
  | .joinRetry slot => Sys2Proof.Machine.execJoinRetry slot s
  | .syncRetry slot => Sys2Proof.Machine.execSyncRetry slot s
  | .coreShareFinished rep => Sys2Proof.Machine.execCoreShareFinished rep s
  | .hikerArrival hk => Sys2Proof.Machine.execHikerArrival hk s
  | .guestStart slot => Sys2Proof.Machine.execGuestStart slot s
  | .creditRequest src reply ticket => Sys2Proof.Machine.execCreditRequest src reply ticket s
  | .creditGrant dest reply => Sys2Proof.Machine.execCreditGrant dest reply s
  | .creditRetry dest reply ticket => Sys2Proof.Machine.execCreditRetry dest reply ticket s
  | .creditHoldTimeout reply => Sys2Proof.Machine.execCreditHoldTimeout reply s
  | .creditReturn peer reply atDest => Sys2Proof.Machine.execCreditReturn peer reply atDest s
  | .barrierArrival who ctr count => Sys2Proof.Machine.execBarrierArrival who ctr count s
  | .bargArrival who n => Sys2Proof.Machine.execBargArrival who n s
  | .chunkCommit who => Sys2Proof.Machine.execChunkCommit who s
  | .soloGrant slot => Sys2Proof.Machine.execSoloGrant slot s
  | .singletonPerform who => Sys2Proof.Machine.execSingletonPerform who s
  | .windowFormatApply win fmt => Sys2Proof.Machine.execWindowFormatApply win fmt s
  | .rdefPerform ring => Sys2Proof.Machine.execRdefPerform ring s
  | .streamPrefetch slot b => Sys2Proof.Machine.execStreamPrefetch slot b s
  | .walkerRun cmd => Sys2Proof.Machine.execWalkerRun cmd s
  | .gatherReturn gat => Sys2Proof.Machine.execGatherReturn gat s
  | .tableLoadComplete ld => Sys2Proof.Machine.execTableLoadComplete ld s
  | .padLineFill line => Sys2Proof.Machine.execPadLineFill line s
  | .rangeWalk space va => Sys2Proof.Machine.execRangeWalk space va s
  | .rangeFill space va dsc => Sys2Proof.Machine.execRangeFill space va dsc s
  | .rangeCommandExecute cmd => Sys2Proof.Machine.execRangeCommandExecute cmd s
  | .remoteStorePerform away => Sys2Proof.Machine.execRemoteStorePerform away s
  | .remoteAck ack => Sys2Proof.Machine.execRemoteAck ack s
  | .remoteInvalidate line => Sys2Proof.Machine.execRemoteInvalidate line s
  | .remoteAtomicPerform who op => Sys2Proof.Machine.execRemoteAtomicPerform who op s
  | .hostStoreSend slot => Sys2Proof.Machine.execHostStoreSend slot s
  | .cxlMemWrite a data poison => Sys2Proof.Machine.execCxlMemWrite a data poison s
  | .hostSnoop line => Sys2Proof.Machine.execHostSnoop line s
  | .backInvalidate line => Sys2Proof.Machine.execBackInvalidate line s
  | .eventEnqueue ev => Sys2Proof.Machine.execEventEnqueue ev s
  | .eventRetry ev => Sys2Proof.Machine.execEventRetry ev s
  | .preemptStop mask => Sys2Proof.Machine.execPreemptStop mask s
  | .trappcWrite v => Sys2Proof.Machine.execTrappcWrite v s
  | .tregWrite v => Sys2Proof.Machine.execTregWrite v s
  | .resumeCommand w => Sys2Proof.Machine.execResumeCommand w s
  | .imageArrival img seq => Sys2Proof.Machine.execImageArrival img seq s
  | .wakeatExpiry slot => Sys2Proof.Machine.execWakeatExpiry slot s
  | .doorbell off => Sys2Proof.Machine.execDoorbell off s
  | .shareDeliver sh => Sys2Proof.Machine.execShareDeliver sh s
  | .gangReady gang core => Sys2Proof.Machine.execGangReady gang core s
  | .gangTimeout gang => Sys2Proof.Machine.execGangTimeout gang s
  | .launchDone seq => Sys2Proof.Machine.execLaunchDone seq s
  | .coreContain cls => Sys2Proof.Machine.execCoreContain cls s
  | .sealedArrival hk => Sys2Proof.Machine.execSealedArrival hk s
  | .endToEndMessage msg => Sys2Proof.Machine.execEndToEndMessage msg s
  | .readDebugRegister core num => Sys2Proof.Machine.execReadDebugRegister core num s
  | .writeDebugRegister core num v => Sys2Proof.Machine.execWriteDebugRegister core num v s
  | .setFrequency v => Sys2Proof.Machine.execSetFrequency v s
  | .setPowerCap v => Sys2Proof.Machine.execSetPowerCap v s
  | .issueCounterClear num => Sys2Proof.Machine.execIssueCounterClear num s
  | .censusClear num => Sys2Proof.Machine.execCensusClear num s
  | .rangeWalkRetry space va => Sys2Proof.Machine.execRangeWalkRetry space va s
  | .packReadback => Sys2Proof.Machine.execPackReadback s
  | .coreTakeLaunch => Sys2Proof.Machine.execCoreTakeLaunch s
  | .creditWatchdog => Sys2Proof.Machine.execCreditWatchdog s
  | .engineCommandRun => Sys2Proof.Machine.execEngineCommandRun s
  | .engineRevalidate => Sys2Proof.Machine.execEngineRevalidate s
  | .engineResume => Sys2Proof.Machine.execEngineResume s
  | .matrixTileOp => Sys2Proof.Machine.execMatrixTileOp s
  | .rangerDispatch => Sys2Proof.Machine.execRangerDispatch s
  | .timerInterrupt => Sys2Proof.Machine.execTimerInterrupt s
  | .preemptInterrupt => Sys2Proof.Machine.execPreemptInterrupt s
  | .skip => Sys2Proof.Machine.execSkip s
  | .retry => Sys2Proof.Machine.execRetry s
  | .packSpillRetry => Sys2Proof.Machine.execPackSpillRetry s
  | .dependencySample => Sys2Proof.Machine.execDependencySample s
  | .launchDispatch => Sys2Proof.Machine.execLaunchDispatch s
  | .timedStart => Sys2Proof.Machine.execTimedStart s
  | .partitionSwapOut => Sys2Proof.Machine.execPartitionSwapOut s
  | .partitionSwapIn => Sys2Proof.Machine.execPartitionSwapIn s
  | .containOwedTimeout => Sys2Proof.Machine.execContainOwedTimeout s
  | .partitionContain => Sys2Proof.Machine.execPartitionContain s
  | .attest => Sys2Proof.Machine.execAttest s
  | .xtrig => Sys2Proof.Machine.execXtrig s
  | .release => Sys2Proof.Machine.execRelease s
  | .frequencySwitch => Sys2Proof.Machine.execFrequencySwitch s
  | .droopTrip => Sys2Proof.Machine.execDroopTrip s
  | .droopEnd => Sys2Proof.Machine.execDroopEnd s
  | .powerOnReset => Sys2Proof.Machine.execPowerOnReset s
  | .signatureVerify => Sys2Proof.Machine.execSignatureVerify s
  | .hbmLinkTraining => Sys2Proof.Machine.execHbmLinkTraining s
  | .configurationLoad => Sys2Proof.Machine.execConfigurationLoad s
  | .launchPortsOpen => Sys2Proof.Machine.execLaunchPortsOpen s
  | .partitionReset => Sys2Proof.Machine.execPartitionReset s
  | .creditCheck peer rep own => Sys2Proof.Machine.execCreditCheck peer rep own s
  | .cxlMemRead a n => Sys2Proof.Machine.execCxlMemRead a n s
  | .backInvalidateResponse line => Sys2Proof.Machine.execBackInvalidateResponse line s
  | .registerWrite reg v => Sys2Proof.Machine.execRegisterWrite reg v s
  | .poisonedTail src reply => Sys2Proof.Machine.execPoisonedTail src reply s
  | .cancel seq => Sys2Proof.Machine.execCancel seq s
  | .eccCorrected a => Sys2Proof.Machine.execEccCorrected a s
  | .eccUncorrectable a => Sys2Proof.Machine.execEccUncorrectable a s
  | .registerSoftError tgt => Sys2Proof.Machine.execRegisterSoftError tgt s
  | .engineReset walker => Sys2Proof.Machine.execEngineReset walker s
  | .channelThreshold spans => Sys2Proof.Machine.execChannelThreshold spans s
  | .shadowCompare slot same => Sys2Proof.Machine.execShadowCompare slot same s
  | .portTrain width rate => Sys2Proof.Machine.execPortTrain width rate s
  | .hostMessage core w => Sys2Proof.Machine.execHostMessage core w s
  | .flitReceive link f => Sys2Proof.Machine.execFlitReceive link f s
  | .negativeAcknowledgement link seq => Sys2Proof.Machine.execNegativeAcknowledgement link seq s
  | .acknowledgement link seq => Sys2Proof.Machine.execAcknowledgement link seq s
  | .replayTimeout link => Sys2Proof.Machine.execReplayTimeout link s
  | .linkRetrain link failed => Sys2Proof.Machine.execLinkRetrain link failed s
  | .linkDown link => Sys2Proof.Machine.execLinkDown link s
  | .twinMismatch seq => Sys2Proof.Machine.execTwinMismatch seq s
  | .powerEstimate duty => Sys2Proof.Machine.execPowerEstimate duty s
  | .newImage img => Sys2Proof.Machine.execNewImage img s
  | .linkReset link => Sys2Proof.Machine.execLinkReset link s
  | .routeRebuild gone => Sys2Proof.Machine.execRouteRebuild gone s

end Sys2Proof.Machine
end

