-- ==== Sys2Proof/Machine/Schedule.lean ====
section
/-! DEFINITION. What goes next (log 1, log 10): messages that have come in, steps that are due, the issue of packets (R39, R40,
R119, R170, R399), and how one instruction is put where the next step fetches (log 9). -/
namespace Sys2Proof.Machine

/-- What the schedule picks: an instruction in a state, or a state without one. -/
inductive Pick where
  | run (i : Instr) (s : State)
  | stay (s : State)

/-! Issue. -/

/-- Does the partition stand still: contained, or swapped out (R353, R380)? -/
def frozen (s : State) : Bool := s.part.contained || decide (s.part.swap = .out)
/-- The slots in rotation after the last one (R40). -/
def rotation (s : State) : List SlotN := (List.range 16).map fun k => fin16 (s.core.last.val + 1 + k)
/-- The slot that issues next: one that has yielded comes after every other runnable slot (R40, R170). -/
def nextSlot (s : State) : Option SlotN :=
  if frozen s then none
  else ((rotation s).find? fun i => runnable s i && (s.th i).yield.isNone).or ((rotation s).find? (runnable s))

/-- The class of a turn that a slot does not use (R399). -/
def turnClass (s : State) (i : SlotN) : Nat :=
  if !(s.slot i).occ || (s.slot i).stopped || (s.slot i).trap.isSome then 3
  else match (s.th i).park with
    | some (.credit _ _) => 2 | some (.join _ _) => 2 | some (.barc _ _ _) => 2 | some (.barg _) => 2 | some .settle => 2
    | some (.wakeAt _) => 2 | _ => 1
/-- The slots whose turn has come when slot i issues: those passed, and i. -/
def passed (s : State) (i : SlotN) : List SlotN := (rotation s).takeWhile (· ≠ i)
/-- The counters of R399 at an issue opportunity. -/
def countTurns (s : State) (i : SlotN) : List Nat :=
  (passed s i).foldl (fun l j => bumpCount l (4 * j.val + turnClass s j)) (bumpCount s.core.issues (4 * i.val))
/-- One opportunity of a thread that has yielded (R170). -/
def passYield (m : BitVec 16) (y : Option (BitVec 16 × Nat)) : Option (BitVec 16 × Nat) :=
  match y with
  | none => none
  | some (w, n) => if w &&& ~~~m = 0 ∨ n ≤ 1 then none else some (w &&& ~~~m, n - 1)
/-- The bits of slots. -/
def slotBits (l : List SlotN) : BitVec 16 := l.foldl (fun m i => m ||| ((1 : BitVec 16) <<< i.val)) 0
/-- The state in which slot i has the turn. -/
def turn (s : State) (i : SlotN) : State :=
  let m := slotBits (i :: passed s i)
  let s1 := { s with
    ctl := ⟨i, 0, [], s.ctl.free, false, false, false⟩
    core := { s.core with
      last := i, issues := countTurns s i
      histo := bumpCount s.core.histo ((allSlots.filter (runnable s)).length) } }
  if allSlots.all fun j => (s.th j).yield.isNone then s1
  else allSlots.foldl (fun s j => s.modTh j fun t => { t with yield := if j = i then none else passYield m t.yield }) s1

/-- The issue of slot i (R39, R119). -/
def issue (s : State) (i : SlotN) : Pick :=
  let s1 := turn s i
  match fetch s1 i with
  | .instr ins n => .run ins { s1 with ctl := { s1.ctl with curN := n } }
  | .trap t => .stay (fetchTrap s1 i t)
  | .walk va => .stay (parkAt (s1.later [.rangeWalk (s1.th i).space va]) i .walk)
  | .padWalk l => .stay (parkAt (s1.later [.padLineFill l]) i .walk)
  | .fill => .stay (parkAt (s1.later [.lineFill i]) i .fill)
  | .halt => .stay (crossTrigger s1)

/-! Steps that are due. -/

/-- Are there lines that the host or another package holds and that it has not been asked for (R284, R388)? -/
def asksAnew (s : State) (ls : List Nat) : Bool :=
  (heldByHost s ls).any (fun l => !s.pkg.backInv.contains l) ||
    (heldAbroad s ls).any fun l => s.pkg.remoteCopies.any (fun x => decide (x.2.1 = l / 8) && !x.2.2) &&
      !s.agenda.any fun e => match e with | .remoteInvalidate k => decide (k = l) | _ => false
/-- May an ended chunk go to the arbiter, or are there lines to be asked back first (R295, R388)? -/
def commitDue (s : State) (i : SlotN) : Bool :=
  let t := s.th i
  decide (t.ended ≠ []) && !paired s i && (commitReady s i || (t.sync.isNone && asksAnew s (writeLines s i (oldest t))))
/-- A singleton that waits (R237, R280), at home or for a home in another package (R285). -/
def syncDue (s : State) (i : SlotN) : List Instr :=
  match (s.th i).sync with
  | none => []
  | some w =>
    if isRemote s w.op.addr then
      (if !w.asked && !(s.slot i).stopped && !(s.slot i).halting && ackedBy (s.th i) (packageOf w.op.addr) && !(decide (i = ranger) && portAsks s) then
        [.remoteAtomicPerform (.own i) w.op] else [])
    else if opReady s.mem w.op then (if opFree s i w.op || asksAnew s (opLines w.op) then [.singletonPerform (.own i)] else [])
    else if w.op.fe then [.syncRetry i] else []
/-- What the wait of a slot may come to. -/
def parkDue (s : State) (i : SlotN) : List Instr :=
  if killing s i then []
  else match (s.th i).park with
  | none => []
  | some (.join _ _) => [.joinRetry i]
  | some (.wakeAt _) => [.wakeatExpiry i]
  | some p => if parkOver s i p then [.replayWake i] else []
/-- Steps of a thread. -/
def threadDue (s : State) (i : SlotN) : List Instr :=
  let t := s.th i
  (t.far.filter fun e => e.value.isSome && (e.dest.vec?.isNone || !awaitsSeal t e)).map (fun e => .farArrival i e.seq) ++
    (if commitDue s i then [.chunkCommit (.own i)] else []) ++ syncDue s i ++
    (if (s.slot i).stopped || (s.slot i).halting then [] else parkDue s i ++ (if t.late.isSome && !killing s i then [.crownTrap i] else []) ++
      ((List.finRange 4).filter (canFetch s i)).map fun k => .streamPrefetch i k)
/-- Steps of a slot; stores that its last thread left behind go on. -/
def slotDue (s : State) (i : SlotN) : List Instr :=
  (if (s.slot i).occ then threadDue s i else []) ++ (if (s.th i).pend ≠ [] then [.hostStoreSend i] else [])

/-- Free slots and what they take (R70, R86). -/
def startDue (s : State) : List Instr :=
  if frozen s then []
  else
    (match allSlots.find? (slotFree s) with
      | some i => if fillable s then [.slotFill (.own i) []] else []
      | none => []) ++
    (match allSlots.find? (guestFree s) with
      | some i => if (nextArrival s).isSome then [.guestStart i] else []
      | none => []) ++
    (if rangerFree s && (pendingItem s).isSome then [.rangerDispatch] else []) ++
    (if mayTake s then [.coreTakeLaunch] else []) ++
    (match s.core.launch with
      | some l => if !l.started && !l.stopped && !l.reported && gangGo s l.sh.info then [.timedStart] else []
      | none => [])
/-- The core's own share where it is finished. -/
def shareDue (s : State) : List Instr :=
  match s.core.launch with
  | none => []
  | some l =>
    if !l.reported && (if l.stopped then shareDrained s else l.started && shareOver s l) then
      [.coreShareFinished ⟨l.sh.info.seq, l.sh.share, 0, 0, []⟩]
    else []
/-- Steps of the core's shared parts. -/
def coreDue (s : State) : List Instr :=
  let p := s.core.priv
  (if packAway s && s.core.launch.isSome then [.packReadback] else []) ++
    (if s.core.ticketsO.reserved then [.creditHoldTimeout false] else []) ++
    (if s.core.ticketsR.reserved then [.creditHoldTimeout true] else []) ++
    ((s.core.credits.filter fun c => decide (c.held ≠ 0)).map fun c => .creditReturn c.peer c.reply false) ++
    (if guestsStarved s && !p.irqpend.getLsbD 3 then [.creditWatchdog] else []) ++
    (s.core.images.flatMap fun m => (m.owed.filter fun e => e.1.value.isSome).map fun e => .imageArrival m.id e.1.seq) ++
    (if s.core.contained && (s.core.images.any (fun m => m.owed.any fun e => e.1.value.isNone) ||
      allSlots.any fun i => isResident i && (s.slot i).occ && !askedAway (s.th i) && sentAll (s.th i)) then [.containOwedTimeout] else []) ++
    (if p.irqmask.getLsbD 0 && decide (s.pkg.timeb.toNat < p.timercmp.toNat) && decide (p.timercmp ≠ BitVec.allOnes 64) then [.timerInterrupt] else [])
/-- Can the matrix queue's head go on (R270)? -/
def matrixDue (s : State) : Bool :=
  !mqStands s && (match s.core.mq with
    | [] => false
    | c :: _ => c.wait.isNone && (match c.op with
      | .mma _ a b _ _ => decide ((getRing s a).occ ≠ 0) && decide ((getRing s b).occ ≠ 0)
      | _ => true))
/-- Steps of the copy engine for its own commands (R249, R370, R373). -/
def commandDue (s : State) : List Instr :=
  match s.cl.engq with
  | [] => []
  | c :: _ =>
    if engFrozen s then []
    else if c.paused then (if invalPending s c.op.src.space then [] else [.engineResume])
    else if c.check then [.engineRevalidate] else [.engineCommandRun]
/-- Steps of the copy engine; units of other clusters' engines land meanwhile (R250, R311). -/
def engineDue (s : State) : List Instr := commandDue s ++ (if s.cl.units ≠ [] then [.engineCommandRun] else [])
/-- Has a definition that waited its turn (R263)? -/
def rdefReady (g : Ring) : Bool := g.pendDef.isSome && decide (g.resvPush = 0) && decide (g.resvPop = 0)
/-- Steps of the cluster and the package. -/
def clusterDue (s : State) : List Instr :=
  (if matrixDue s then [.matrixTileOp] else []) ++ engineDue s ++
    ((List.finRange 32).filter fun r => rdefReady (s.cl.rings.get r)).map (fun r => .rdefPerform (BitVec.ofNat 5 r.val)) ++
    (match s.pkg.soloQueue.head?, s.pkg.soloHolder with | some i, none => [.soloGrant i] | _, _ => [])
/-- The first range command of each space (R336). -/
def firstJobs : List RJob → List (BitVec 16) → List Instr
  | [], _ => []
  | j :: js, seen => if seen.contains j.cmd.space then firstJobs js seen else .rangeCommandExecute j.cmd :: firstJobs js (j.cmd.space :: seen)
/-- Steps of the launch port and its launches (R346, R351, R352). -/
def portDue (s : State) : List Instr :=
  let ls := s.part.launches
  let wait := ls.filter fun l => decide (l.st = .queued ∨ l.st = .chosen)
  (if wait.any fun l => l.flags.getLsbD fDep then [.dependencySample] else []) ++
    (if wait ≠ [] ∧ fanoutIdle s ∧ ¬ frozen s ∧ (portOpen s).isSome then [.launchDispatch] else []) ++
    ((ls.filter fun l => launchOver l && launchStoresOut s).map fun l => .launchDone l.seq) ++
    ((ls.filter fun l => decide ((gangMembers s l.gang l.start).head?.map (·.seq) = some l.seq)).map fun l => .gangTimeout ⟨l.gang, l.start⟩)
/-- Steps of boot, clocks and power (R402, R403, R405). -/
def boardDue (s : State) : List Instr :=
  let m := s.pkg.mgmt
  (match m.boot.toNat with
    | 0 => [.powerOnReset] | 1 => [.signatureVerify] | 2 => [.hbmLinkTraining] | 3 => [.configurationLoad]
    | 4 => if s.part.cfg.isSome then [.launchPortsOpen] else []
    | _ => []) ++
    (if m.freqNext.isSome then [.frequencySwitch] else []) ++ (if s.cl.dbg.active then [.droopEnd] else [])
/-- Everything that is due besides the agenda. -/
def due (s : State) : List Instr :=
  allSlots.flatMap (slotDue s) ++ startDue s ++ shareDue s ++ coreDue s ++ clusterDue s ++ firstJobs s.pkg.rjobs [] ++ portDue s ++ boardDue s

/-- A write of the port's DOORBELL or CANCEL (R345, R347). -/
def isPortWrite : Instr → Bool
  | .doorbell _ => true | .cancel _ => true | _ => false
/-- May a step of the agenda go now? Kills go in the crown's order (R46), formats of a window in that of their SETSRs (R65), pushes in
that of their FORKs and not while the pack is frozen (R76), the port's registers in order of arrival (R345), tables in order (R260);
a share waits while one waits (R350). -/
def mayGo (s : State) (before : List Instr) (e : Instr) : Bool :=
  match e with
  | .taskPush _ => !s.core.priv.packFrozen && !before.any fun x => match x with | .taskPush _ => true | _ => false
  | .killApply _ => !before.any fun x => match x with | .killApply _ => true | _ => false
  | .windowFormatApply w _ => !before.any fun x => match x with | .windowFormatApply v _ => decide (v = w) | _ => false
  | .doorbell _ => !before.any isPortWrite
  | .cancel _ => !before.any isPortWrite
  | .tableLoadComplete _ => !before.any fun x => match x with | .tableLoadComplete _ => true | _ => false
  | .shareDeliver sh => s.core.waiting.isNone || (match findLaunch s sh.info.seq with | some l => l.stopping | none => true)
  | _ => true
/-- A step that may be next: one of the agenda, with what stands before and after it, another, or the seal entry of a slot that
reaches the foot (R34). -/
inductive Cand where
  | agenda (before : List Instr) (i : Instr) (after : List Instr)
  | event (i : Instr)
  | seal (i : SlotN)
def agendaCands (s : State) : List Instr → List Instr → List Cand
  | _, [] => []
  | before, e :: es => (if mayGo s before e then [.agenda before e es] else []) ++ agendaCands s (before ++ [e]) es
def sealing (s : State) : List SlotN := allSlots.filter fun i => decide ((s.th i).flight ≠ [])
def cands (s : State) : List Cand := agendaCands s [] s.agenda ++ (due s).map .event ++ (sealing s).map .seal
def Cand.go (s : State) : Cand → Pick
  | .agenda b i a => .run i { s with agenda := b ++ a }
  | .event i => .run i s
  | .seal i => .stay (applySeal s i)

/-- One of n by a free choice, where there is one to make (log 10). -/
def choose (s : State) (n : Nat) : Nat × State :=
  if n ≤ 1 then (0, s) else (Config.choice s.ctl.free n % n, { s with ctl := { s.ctl with free := s.ctl.free + 1 } })
/-- The issue of the next slot, where one is runnable. -/
def issueNext (s : State) : Pick :=
  match nextSlot s with
  | some i => issue s i
  | none => .stay s
/-- What goes next: a message that has come in, a write of the port behind one that still waits there; else one of the candidates. -/
def pick (s : State) : Pick :=
  match s.inbox with
  | i :: rest =>
    if isPortWrite i && s.agenda.any isPortWrite then .stay ({ s with inbox := rest }.later [i]) else .run i { s with inbox := rest }
  | [] =>
    let cs := cands s
    let r := choose s (cs.length + (if (nextSlot s).isSome then 1 else 0))
    match cs[r.1]? with
    | some c => c.go r.2
    | none => issueNext r.2

/-! Placing an instruction (log 9). -/

/-- A line of one head: the descriptor, the head, its tail at the top. -/
def oneLine (head : BitVec 16) (tail : BitVec 64) : BitVec 512 :=
  let n := tailLen (headTl head)
  BitVec.ofNat 512 (1 + 2 ^ 16 * head.toNat + 2 ^ (512 - 8 * n) * (tail.toNat % 2 ^ (8 * n)))

/-- The launch of the placed instruction: one thread, all 32 vector registers. -/
def placedInfo : LaunchInfo := ⟨1, 0, 0, 0, 0, 1, 32, 0, 1, 0, 0, 1, 1, 1, 1, 0, 0, 0, 0, 0, 0, []⟩
def placedLaunch : CoreLaunch := ⟨⟨placedInfo, 0, 0, 1⟩, 1, 0, true, false, false⟩
/-- A range over the first 64 KiB of reach 0 in space 0. -/
def placedRange : RangeDesc := ⟨0, 0x10000, 0x10000, 0, 0x1F, 0x81, 0, 0⟩

/-- Nothing else is due there: slots, core, cluster and queues stand as after reset, boot is over. -/
def placed (s : State) (nbits w : Nat) : State :=
  let head := BitVec.ofNat 16 w
  let tail := BitVec.ofNat 64 (w % 2 ^ nbits / 2 ^ 16)
  let i : SlotN := if opPrivileged (headOp head) then 15 else 0
  let tag : BitVec 32 := if i = 0 then 1 else 0
  let th := Thread.start (if i = 0 then .index else .ranger) 0 0 0 .zero 0
  let line : ILine := ⟨tag, 0, 0, 0, oneLine head tail, 0, false, []⟩
  { s with
    inbox := [], agenda := []
    slots := (Bank.fill _ _ Slot.vacant).set i ⟨true, th, none, false, false, false⟩
    cl := .reset
    part := { s.part with launches := [], contained := false, swap := .here }
    pkg := { s.pkg with
      soloHolder := none, soloQueue := [], rjobs := [], invals := [], mgmt := { s.pkg.mgmt with boot := 5, freqNext := none } }
    core := { Core.reset with
      last := if i = 0 then 15 else 14, launch := some { placedLaunch with reported := decide (i ≠ 0) }, rcache := [⟨0, placedRange⟩]
      icache := [line] } }

end Sys2Proof.Machine
end

