-- ==== Sys2Proof/Machine/Step.lean ====
section
/-! DEFINITION. One step of the machine (log 1, log 10): a message that has come in, else one of the steps that are due, the
issue of the next runnable slot among them (R39, R40). -/
namespace Sys2Proof.Machine

/-- Run what the schedule picks. -/
def runPick : Pick → Host.Outcome State Fault Refusal
  | .run i s => exec i s
  | .stay s => .next s

/-- One step. -/
def step (s : State) : Host.Outcome State Fault Refusal := runPick (pick s)

/-- The machine with one instruction stored where its next step fetches (log 9): boot is over, a launch of one thread with all
32 vector registers has been taken, and its thread stands in slot 0, or the ranger in slot 15 for a privileged opcode. -/
def State.withFetchWord (s : State) (nbits w : Nat) : State := placed s nbits w

end Sys2Proof.Machine
end

