-- ==== Sys2Proof/Safety.lean ====
section
/-! DEFINITION. What a safe run is, and the words that claims about one step are written in: when a packet acts, that it has
retired, and what it has left as it was. -/
namespace Sys2Proof

/-- The machine takes k steps from s without a fault or a refusal. -/
def SafeFor (k : Nat) (s : Machine.State) : Prop := ∃ t, core.run k s = .next t

namespace Machine

/-- Any word of an opcode in which n bits of the tail from bit lo on are not zero is refused: they are reserved (R109). -/
def Reserved (op : BitVec 9) (lo n : Nat) : Prop :=
  ∀ (hd : BitVec 16) (tl : BitVec 64), headOp hd = op → tl.extractLsb' lo n ≠ 0 → decode hd tl = .illegal

/-! When a packet acts. -/

/-- The packet in hand may issue (R39), its names stand (R320), no FRAME is owed (R61), its chunk has room (R288), under whatever
guard. -/
structure MayIssue (s : State) (h : Hdr) (n : Names) : Prop where
  camp : campBlocks s.me = false
  far : farBlocks (armGuard s h) h n = false
  names : namesOk s s.ctl.cur n = true
  frame : s.me.regs.win.pend = false
  room : overLimit s.me.cur = false

/-- It may issue, and its guard is known: its writer is not among the packets in flight (R43). -/
structure Issues (s : State) (h : Hdr) (n : Names) : Prop where
  camp : campBlocks s.me = false
  far : farBlocks s h n = false
  names : namesOk s s.ctl.cur n = true
  frame : s.me.regs.win.pend = false
  room : overLimit s.me.cur = false
  known : guardWriting s h = false ∧ s.ctl.awaits = false

/-- It issues under a scalar guard that is true and unpoisoned (R42, R151). -/
structure Acts (s : State) (h : Hdr) (n : Names) : Prop extends Issues s h n where
  guard : gbit s h = true
  clean : gpois s h = false

/-- The bits of a word, one by one. -/
def HasBits (v : Word) (f : Nat → Bool) : Prop := ∀ j, j < 64 → v.getLsbD j = f j

/-! What a step has left as it was. -/

/-- Every byte, poison bit and full/empty bit of memory reads as before. -/
def SameMem (m m' : Memory) : Prop := ∀ a, m'.byte a = m.byte a ∧ m'.pois a = m.pois a ∧ m'.full a = m.full a

/-- Nothing outside the slot in hand has changed: other slots, pool, tiles, queues, rings, ports, memory, messages. -/
structure OnlySlot (s t : State) : Prop where
  cur : t.ctl.cur = s.ctl.cur
  slots : ∀ j, j ≠ s.ctl.cur → t.slot j = s.slot j
  core : t.core = s.core
  cl : t.cl = s.cl
  part : t.part = s.part
  pkg : t.pkg = s.pkg
  mem : SameMem s.mem t.mem
  inbox : t.inbox = s.inbox
  agenda : t.agenda = s.agenda
  out : t.out = s.out

/-- Of the slot in hand, everything but registers, PC and the counts of its packets. -/
structure KeptThread (s t : State) : Prop where
  trap : (t.slot s.ctl.cur).trap = (s.slot s.ctl.cur).trap
  occ : (t.slot s.ctl.cur).occ = (s.slot s.ctl.cur).occ
  stopped : (t.slot s.ctl.cur).stopped = (s.slot s.ctl.cur).stopped
  kind : t.me.kind = s.me.kind
  space : t.me.space = s.me.space
  creach : t.me.creach = s.me.creach
  inc : t.me.inc = s.me.inc
  far : t.me.far = s.me.far
  park : t.me.park = s.me.park
  check : t.me.check = s.me.check
  region : t.me.region = s.me.region ∧ t.me.reg = s.me.reg
  ended : t.me.ended = s.me.ended
  stores : t.me.cur.stores = s.me.cur.stores ∧ t.me.cur.check = s.me.cur.check
  sync : t.me.sync = s.me.sync
  landed : t.me.landed = s.me.landed
  binds : t.me.binds = s.me.binds
  posted : t.me.pend = s.me.pend ∧ t.me.sent = s.me.sent

/-- Every scalar register reads as before but d, which reads v with poison p; s0 still reads zero (R48). -/
def SetsS (s t : State) (d : SReg) (v : Word) (p : Bool) : Prop := ∀ r, t.s r = if r = d ∧ d ≠ 0 then ⟨v, p⟩ else s.s r
def SameS (s t : State) : Prop := ∀ r, t.s r = s.s r
def SameP (s t : State) : Prop := ∀ r, t.p r = s.p r
def SameK (s t : State) : Prop := ∀ r, t.k r = s.k r
/-- Every vector register reads as before (R38); but d, which reads x. -/
def SameV (s t : State) : Prop := ∀ r, t.vreg s.ctl.cur r = s.vreg s.ctl.cur r
def SetsV (s t : State) (d : VNum) (x : VReg) : Prop := ∀ r, t.vreg s.ctl.cur r = if r = d then x else s.vreg s.ctl.cur r
/-- SEED, FPCTL and WINDOW. -/
def SameCtl (s t : State) : Prop :=
  t.me.regs.seed = s.me.regs.seed ∧ t.me.regs.fpctl = s.me.regs.fpctl ∧ t.me.regs.win = s.me.regs.win
def SameFlags (s t : State) : Prop := t.me.regs.fpflags = s.me.regs.fpflags

/-- No register of the thread has changed; a predicate's and a reach's cell stands whole, a scalar's value and poison. -/
structure SameRegs (s t : State) : Prop where
  scalars : SameS s t
  preds : SameP s t
  reaches : SameK s t
  vectors : SameV s t
  ctl : SameCtl s t
  flags : SameFlags s t

/-- The packet in hand has retired, and the thread goes on at pc: its seal entry stands behind the others with the registers it
found, and the next packet's number is the first that nothing of the slot holds (R23, R34, R103). -/
structure Went (s t : State) (pc : Word) : Prop where
  pc : t.me.pc = pc
  from_ : t.me.from_ = s.me.pc
  entry : ∃ x, t.me.flight = s.me.flight ++ [x] ∧ x.seq = s.me.seq ∧ x.chunk = s.me.cur.no ∧ x.before = s.me.regs
  seq : t.me.seq = freeSeq (seqsHeld t.me ++ drainSeqs t t.ctl.cur) 256 (s.me.seq + 1)
  cur : t.ctl.cur = s.ctl.cur

/-- A packet that goes on at pc and changes no register. -/
structure Moves (s t : State) (pc : Word) : Prop where
  went : Went s t pc
  regs : SameRegs s t

/-- A packet that goes on at pc, writes scalar d and nothing else. -/
structure WritesS (s t : State) (pc : Word) (d : SReg) (v : Word) (p : Bool) : Prop where
  went : Went s t pc
  value : SetsS s t d v p
  preds : SameP s t
  reaches : SameK s t
  vectors : SameV s t
  ctl : SameCtl s t
  flags : SameFlags s t
  rest : OnlySlot s t
  thread : KeptThread s t

/-- The value and poison of a result under the scalar guard: written under a true guard, the old value under a false one,
poisoned under a poisoned one (R42, R43, R151). -/
def byGuard (s : State) (h : Hdr) (d : SReg) (r : SVal) : SVal :=
  ⟨if gbit s h then r.v else (s.s d).v, gpois s h || (if gbit s h then r.p else (s.s d).p)⟩

/-- Instruction i, whose names are n, completes with v (poison p) in scalar d as its guard has it, known or awaited, and leaves
everything else. -/
def ComputesS (s : State) (h : Hdr) (n : Names) (i : Instr) (d : SReg) (v : Word) (p : Bool) : Prop :=
  MayIssue s h n → ∃ t, exec i s = .next t ∧ WritesS s t s.next d (byGuard s h d ⟨v, p⟩).v (byGuard s h d ⟨v, p⟩).p

/-- The far value v is owed to scalar d: its far bit is set, the entry stands last in the far table, every register still
reads as before (R36). -/
structure OwesS (s t : State) (d : SReg) (v : SVal) : Prop where
  moves : Moves s t s.next
  entry : ∃ g, t.me.far = s.me.far ++ [⟨s.me.seq, s.me.inc, .scalar d, some (.scalar v g), 0, false, s.me.cur.no, false, false⟩]
  bit : d ≠ 0 → (t.me.regs.s d).far = true ∧ (t.me.regs.s d).wseq = s.me.seq
  rest : OnlySlot s t

/-- The thread has nothing uncommitted, so that a chunk-ending packet acts at once (R156, R158); a chunk that no packet has
entered holds no stream element. -/
structure Calm (s : State) : Prop where
  closed : s.me.reg.isOpen = false
  empty : uncommitted s.me = false
  untaken : s.me.cur.taken = [] ∧ s.me.cur.pushed = []

/-! What leaves the slot. -/

/-- A packet that a home has performed: the thread goes on, no register has changed; of the other slots no register and no PC,
of the units only waiters, has changed. -/
structure Homed (s t : State) : Prop where
  moves : Moves s t s.next
  core : t.core = s.core
  cl : t.cl = { s.cl with waiters := t.cl.waiters }
  part : t.part = s.part
  pkg : t.pkg = s.pkg
  inbox : t.inbox = s.inbox
  out : t.out = s.out
  agenda : ∃ es, t.agenda = s.agenda ++ es
  others : ∀ j, j ≠ s.ctl.cur → (t.slot j).occ = (s.slot j).occ ∧ (t.th j).regs = (s.th j).regs ∧ (t.th j).pc = (s.th j).pc
  idle : t.me.sync = none

/-- It leaves memory m, and its value, if it returns one, is owed to d (R36). -/
structure Performs (s t : State) (m : Memory) (owed : Option (SReg × SVal)) : Prop where
  homed : Homed s t
  mem : SameMem m t.mem
  owes : t.me.far = s.me.far ++
    match owed with | some x => [⟨s.me.seq, s.me.inc, .scalar x.1, some (.scalar x.2 none), 0, false, s.me.cur.no, false, false⟩] | none => []

/-- A token is owed to scalar d (R247); other slots, the partition, the package and the messages stand. -/
structure OwesToken (s t : State) (d : SReg) : Prop where
  moves : Moves s t s.next
  entry : t.me.far = s.me.far ++ [⟨s.me.seq, s.me.inc, .scalar d, none, 0, true, s.me.cur.no, false, false⟩]
  bit : d ≠ 0 → (t.me.regs.s d).far = true ∧ (t.me.regs.s d).wseq = s.me.seq
  slots : ∀ j, j ≠ s.ctl.cur → t.slot j = s.slot j
  part : t.part = s.part
  pkg : t.pkg = s.pkg
  inbox : t.inbox = s.inbox
  out : t.out = s.out

/-! Vectors. -/

/-- No stream is bound to the vector names of a list (R57), and the packet in hand has taken no element. -/
structure Plain (s : State) (rs : List VNum) : Prop where
  unbound : ∀ r, r ∈ rs → ∀ k, bindIdx s r = some k → (s.binding k).kind = .unbound
  taken : s.ctl.taken = []

/-- v is the value old with its governed elements of width w replaced by f's: bits, and a poison bit per lane, set by any
element of the lane or by a poisoned guard gp (R42, R43, R49, R151, R217). -/
structure Elems (w : Nat) (mask : Word) (gp : Bool) (old : VVal) (f : Nat → Nat × Bool) (v : VVal) : Prop where
  bits : ∀ e, e < 1024 / w → velt w v.bits e = if govBit w mask e then (f e).1 % 2 ^ w else velt w old.bits e
  poison : ∀ l, l < 32 → (v.poison.getLsbD l = true ↔
    ∃ e, e < 1024 / w ∧ laneOf w e = l ∧ ((if govBit w mask e then (f e).2 else vpois w old e) || gp) = true)

/-- fl holds the flags of the governed, unpoisoned elements (R140, R153). -/
def Raises (w : Nat) (mask : Word) (gp : Bool) (f : Nat → Elem) (fl : Flags) : Prop :=
  ∀ k, k < 6 → (fl.getLsbD k = true ↔
    ∃ e, e < 1024 / w ∧ govBit w mask e = true ∧ gp = false ∧ (f e).p = false ∧ (f e).fl.getLsbD k = true)

/-- SEED after n draws of a packet under a mode (R138). -/
def seedThen (s : State) (h : Hdr) (m : RMode) (n : Nat) : Word :=
  if m = .sr ∧ ¬ gnever h then seedAfter n s.me.regs.seed else s.me.regs.seed

/-- A packet that goes on at Next, records flags fl, leaves SEED as said, and no other scalar, predicate or reach, unit or byte. -/
structure Vectored (s t : State) (fl : Flags) (seed : Word) : Prop where
  went : Went s t s.next
  scalars : SameS s t
  preds : SameP s t
  reaches : SameK s t
  flags : t.me.regs.fpflags = s.me.regs.fpflags ||| fl
  ctl : t.me.regs.fpctl = s.me.regs.fpctl ∧ t.me.regs.win = s.me.regs.win ∧ t.me.regs.seed = seed
  core : t.core = s.core
  slots : ∀ j, j ≠ s.ctl.cur → t.slot j = s.slot j
  cl : t.cl = s.cl
  part : t.part = s.part
  pkg : t.pkg = s.pkg
  mem : SameMem s.mem t.mem
  inbox : t.inbox = s.inbox
  agenda : t.agenda = s.agenda
  out : t.out = s.out

/-- A near vector packet: FP Exception, or v in d with its flags. -/
def WritesV (s : State) (h : Hdr) (i : Instr) (d : VNum) (m : RMode) (n : Nat) (v : VVal) (fl : Flags) : Prop :=
  (∀ e, fpTrap s fl = some e → exec i s = .next (takeTrap s s.ctl.cur e)) ∧
  (fpTrap s fl = none → ∃ t, exec i s = .next t ∧ Vectored s t fl (seedThen s h m n) ∧ SetsV s t d ⟨v, s.me.seq⟩ ∧ KeptThread s t)

/-- A far vector value v is owed to d, flags fl with it where its packet can set them: the old vector is read until its arrival
(R36, R38, R198, R199). -/
structure OwesV (s t : State) (d : VNum) (v : FarVal) (fl : Flags) (fp : Bool) (seed : Word) : Prop where
  rest : Vectored s t 0 seed
  vectors : SameV s t
  entry : t.me.far = s.me.far ++ [⟨s.me.seq, s.me.inc, .vec d, some v, fl, false, s.me.cur.no, false, fp⟩]

/-- Register r of the running frame's window, counted from its first (R60). -/
def wname (i : Nat) : SReg := BitVec.ofNat 5 (8 + i)

/-! Steps that are no packet. -/

/-- Nothing has changed but the thread of slot i, its trap record and its stop bits. -/
structure OnlyAt (s t : State) (i : SlotN) : Prop where
  slots : ∀ j, j ≠ i → t.slot j = s.slot j
  ctl : t.ctl = s.ctl
  core : t.core = s.core
  cl : t.cl = s.cl
  part : t.part = s.part
  pkg : t.pkg = s.pkg
  mem : SameMem s.mem t.mem
  inbox : t.inbox = s.inbox
  agenda : t.agenda = s.agenda
  out : t.out = s.out

/-- Nothing has changed but the core's own units. -/
def OnlyCore (s t : State) : Prop := t = { s with core := t.core }
/-- Nothing has changed but the core's own units, the agenda and the messages that leave. -/
def CoreSays (s t : State) : Prop := t = { s with core := t.core, agenda := t.agenda, out := t.out }
/-- Nothing has changed but the privileged registers. -/
def OnlyPriv (s t : State) (p : Priv) : Prop := t = { s with core := { s.core with priv := p } }

end Machine
end Sys2Proof
end

