-- ==== Sys2Proof/Certificates/Slice0/Obligations.lean ====
section
/-! DEFINITION. The statements about the model. -/
open Sys2Proof Sys2Proof.Machine

/-! Scalar integer (R187 to R195). -/

/-- R188. The two-source operations; under .w (m = true) they compute on the low 32 bits and sign-extend. -/
def Obligations.ScalarTwoSource : Prop := ∀ (s : State) (h : Hdr) (d a b : SReg),
  let x := (s.s a).v
  let y := (s.s b).v
  let p := (s.s a).p || (s.s b).p
  let is (i : Instr) (v : Word) : Prop := ComputesS s h (N2 d a b) i d v p
  let w (v : BitVec 32) : Word := v.signExtend 64
  let x4 : BitVec 32 := x.truncate 32
  let y4 : BitVec 32 := y.truncate 32
  is (.add h d a b false) (x + y) ∧ is (.add h d a b true) (w (x4 + y4)) ∧
  is (.sub h d a b false) (x - y) ∧ is (.sub h d a b true) (w (x4 - y4)) ∧
  is (.mul h d a b false) (x * y) ∧ is (.mul h d a b true) (w (x4 * y4)) ∧
  is (.and h d a b false) (x &&& y) ∧ is (.and h d a b true) (w (x4 &&& y4)) ∧
  is (.or h d a b false) (x ||| y) ∧ is (.or h d a b true) (w (x4 ||| y4)) ∧
  is (.xor h d a b false) (x ^^^ y) ∧ is (.xor h d a b true) (w (x4 ^^^ y4)) ∧
  is (.andn h d a b false) (x &&& ~~~y) ∧ is (.andn h d a b true) (w (x4 &&& ~~~y4)) ∧
  is (.shl h d a b false) (x <<< (y.extractLsb' 0 6)) ∧ is (.shl h d a b true) (w (x4 <<< (y.extractLsb' 0 5))) ∧
  is (.mulh h d a b false) ((x.signExtend 128 * y.signExtend 128).extractLsb' 64 64) ∧
  is (.mulh h d a b true) ((x.setWidth 128 * y.setWidth 128).extractLsb' 64 64) ∧
  is (.min h d a b false) (if x.toInt ≤ y.toInt then x else y) ∧ is (.min h d a b true) (if x.toNat ≤ y.toNat then x else y) ∧
  is (.max h d a b false) (if x.toInt ≤ y.toInt then y else x) ∧ is (.max h d a b true) (if x.toNat ≤ y.toNat then y else x)

/-- R189. Shifts and rotates by a register or an immediate, bit by bit: source bits of b above the amount field are ignored.
CLZ, CTZ and POPC of a, or of a[31:0] under .w; the counts are zero-extended and the count of zero is the width. Fields that
the forms leave unused are reserved. -/
def Obligations.ScalarShiftsAndCounts : Prop :=
  (∀ (s : State) (h : Hdr) (d a b : SReg) (n : BitVec 6),
  let x := (s.s a).v
  let k := (s.s b).v.toNat % 64
  let by2 (i : Instr) (f : Nat → Bool) : Prop :=
    ∃ v, HasBits v f ∧ ComputesS s h (N2 d a b) i d v ((s.s a).p || (s.s b).p)
  let by1 (i : Instr) (f : Nat → Bool) : Prop := ∃ v, HasBits v f ∧ ComputesS s h (N1 d a) i d v (s.s a).p
  let right (ar : Bool) (k j : Nat) : Bool := if j + k < 64 then x.getLsbD (j + k) else ar && x.getLsbD 63
  (∀ ar, by2 (.shr h d a b ar) (right ar k)) ∧ (∀ ar, by1 (.shri h d a n ar) (right ar n.toNat)) ∧
  by1 (.shli h d a n) (fun j => decide (n.toNat ≤ j) && x.getLsbD (j - n.toNat)) ∧
  by2 (.rot h d a b false) (fun j => x.getLsbD ((j + k) % 64)) ∧
  by2 (.rot h d a b true) (fun j => x.getLsbD ((j + 64 - k) % 64))) ∧
  (∀ (s : State) (h : Hdr) (d a : SReg) (m : Bool),
  let x := (s.s a).v
  let w : Nat := if m then 32 else 64
  let clear (lo hi : Nat) : Prop := ∀ j, lo ≤ j → j < hi → x.getLsbD j = false
  (∃ n, n ≤ w ∧ clear (w - n) w ∧ (n < w → x.getLsbD (w - 1 - n) = true) ∧
    ComputesS s h (N1 d a) (.clz h d a m) d (BitVec.ofNat 64 n) (s.s a).p) ∧
  (∃ n, n ≤ w ∧ clear 0 n ∧ (n < w → x.getLsbD n = true) ∧
    ComputesS s h (N1 d a) (.ctz h d a m) d (BitVec.ofNat 64 n) (s.s a).p) ∧
  ComputesS s h (N1 d a) (.popc h d a m) d (BitVec.ofNat 64 ((List.range w).filter x.getLsbD).length) (s.s a).p) ∧
  Reserved 0x050 26 6 ∧ Reserved 0x051 27 5

/-- R55, R190, R192 to R194. The immediate forms: 22-bit immediates are sign-extended, MOVI's 48 bits too; MOVK replaces one
halfword of the old D; MOV copies, or sign-extends the low 32 bits under .w. SEL passes the selected value, poisoned by it and
by the predicate alone; LEA adds a shifted index and a displacement in bytes. GETK reads a reach zero-extended and unpoisoned;
SETK writes the low 16 bits of a scalar to a reach and nothing else; a poisoned source of SETK raises Poison Consumed. -/
def Obligations.ImmediatesSelectsAndReaches : Prop :=
  ((∀ (s : State) (h : Hdr) (d a : SReg) (i : BitVec 22) (l : BitVec 48) (q : BitVec 16)
    (hw : BitVec 2),
  let x := (s.s a).v
  ComputesS s h (N1 d a) (.addi h d a i) d (x + i.signExtend 64) (s.s a).p ∧
  ComputesS s h (N1 d a) (.andi h d a i) d (x &&& i.signExtend 64) (s.s a).p ∧
  ComputesS s h (N1 d a) (.ori h d a i) d (x ||| i.signExtend 64) (s.s a).p ∧
  ComputesS s h (N1 d a) (.xori h d a i) d (x ^^^ i.signExtend 64) (s.s a).p ∧
  ComputesS s h ⟨[], [d], [], [], [], false, false, .near⟩ (.movi h d l) d (l.signExtend 64) false ∧
  (∃ v, HasBits v (fun j => if j / 16 = hw.toNat then q.getLsbD (j % 16) else (s.s d).v.getLsbD j) ∧
    ComputesS s h (N1 d d) (.movk h d q hw) d v (s.s d).p) ∧
  ComputesS s h (N1 d a) (.mov h d a false) d x (s.s a).p ∧
  ComputesS s h (N1 d a) (.mov h d a true) d ((x.truncate 32).signExtend 64) (s.s a).p) ∧
  ∀ (s : State) (h : Hdr) (d a b : SReg) (q : PReg) (neg : Bool) (sh : BitVec 2)
    (disp : BitVec 10),
  let c : Bool := (s.p q).m.getLsbD 0 ^^ neg
  ComputesS s h ⟨[a, b], [d], [], [q], [], false, false, .near⟩ (.sel h d a b q neg) d (if c then (s.s a).v else (s.s b).v)
    ((if c then (s.s a).p else (s.s b).p) || (s.p q).p) ∧
  ComputesS s h (N2 d a b) (.lea h d a b sh disp) d ((s.s a).v + ((s.s b).v <<< sh.toNat) + disp.signExtend 64)
    ((s.s a).p || (s.s b).p)) ∧
  ∀ (s : State) (h : Hdr) (d : SReg) (a : SReg) (k : KReg),
  ComputesS s h ⟨[], [d], [], [], [], false, false, .near⟩ (.getk h d k) d ((s.k k).setWidth 64) false ∧
  (Acts s h ⟨[a], [], [], [], [], false, false, .near⟩ → (s.s a).p = false →
    ∃ t, exec (.setk h k a) s = .next t ∧ Went s t s.next ∧ (∀ j, t.k j = if j = k then (s.s a).v.truncate 16 else s.k j) ∧
      SameS s t ∧ SameP s t ∧ SameV s t ∧ SameCtl s t ∧ SameFlags s t ∧ OnlySlot s t ∧ KeptThread s t) ∧
  (Acts s h ⟨[a], [], [], [], [], false, false, .near⟩ → (s.s a).p = true →
    exec (.setk h k a) s = .next (takeTrap s s.ctl.cur ⟨cPoison, 0, 0⟩)) ∧
  Reserved 0x05B 5 11 ∧ Reserved 0x05C 5 5 ∧ Reserved 0x05C 28 4 ∧ Reserved 0x05E 19 1 ∧ Reserved 0x05E 20 12 ∧ Reserved 0x05F 15 5

/-- R191. The bit-field operations on position p and length n + 1; a word whose field does not fit, or whose B or C is not
zero, is refused. -/
def Obligations.BitFields : Prop := ∀ (s : State) (h : Hdr) (d a : SReg) (p n : BitVec 6),
  let x := (s.s a).v
  let len := n.toNat + 1
  let by1 (i : Instr) (f : Nat → Bool) : Prop := ∃ v, HasBits v f ∧ ComputesS s h (N1 d a) i d v (s.s a).p
  (p.toNat + len ≤ 64 →
    by1 (.ext h d a p n) (fun j => decide (j < len) && x.getLsbD (p.toNat + j)) ∧
    by1 (.exts h d a p n) (fun j => x.getLsbD (p.toNat + min j n.toNat)) ∧
    ∃ v, HasBits v (fun j => if p.toNat ≤ j ∧ j < p.toNat + len then x.getLsbD (j - p.toNat) else (s.s d).v.getLsbD j) ∧
      ComputesS s h (N2 d d a) (.ins h d a p n) d v ((s.s d).p || (s.s a).p)) ∧
  ∀ (hd : BitVec 16) (tl : BitVec 64) (op : BitVec 9), op ∈ [(0x058 : BitVec 9), 0x059, 0x05A] →
    (headOp hd = op → 64 < (tl.extractLsb' 20 6).toNat + (tl.extractLsb' 26 6).toNat + 1 → decode hd tl = .illegal) ∧
      Reserved op 10 5 ∧ Reserved op 15 5




/-- R195. DIV and REM owe their result: signed division truncates toward zero and the remainder takes the sign of the
dividend, .n is unsigned; a divisor of zero raises Divide by Zero; with a poisoned operand the machine goes on and owes a
poisoned value (its bits are the model's free value of log 13). -/
def Obligations.DivideAndRemainder : Prop := ∀ (s : State) (h : Hdr) (d a b : SReg) (m : Bool),
  let x := (s.s a).v
  let y := (s.s b).v
  let q : Word := if m then BitVec.ofNat 64 (x.toNat / y.toNat) else BitVec.ofInt 64 (x.toInt.tdiv y.toInt)
  let clean : Prop := (s.s a).p = false ∧ (s.s b).p = false
  Acts s h (NDiv d a b) →
    (clean → y ≠ 0 → (∃ t, exec (.div h d a b m) s = .next t ∧ OwesS s t d ⟨q, false⟩) ∧
      ∃ t, exec (.rem h d a b m) s = .next t ∧ OwesS s t d ⟨x - y * q, false⟩) ∧
    (clean → y = 0 → exec (.div h d a b m) s = .next (takeTrap s s.ctl.cur ⟨cDivide, 0, 0⟩) ∧
      exec (.rem h d a b m) s = .next (takeTrap s s.ctl.cur ⟨cDivide, 0, 0⟩)) ∧
    (¬ clean → (∃ t v, exec (.div h d a b m) s = .next t ∧ OwesS s t d ⟨v, true⟩) ∧
      ∃ t v, exec (.rem h d a b m) s = .next t ∧ OwesS s t d ⟨v, true⟩)

/-! Control (R162 to R186). -/

/-- R42, R151, R157, R162 to R164, R168. NOP goes on at Next; BR at its target, a signed number of lines from its own line;
JMP at the value of a register; none of them changes anything else. LOOP takes one from its counter and goes to its target
while the counter is not zero. A control transfer under a false guard goes on at Next and changes nothing; under a poisoned
guard it raises Poison Consumed, as JMP and LOOP do on a poisoned operand. A LOOP whose D and A differ is refused. -/
def Obligations.Jumps : Prop :=
  (∀ (s : State) (h : Hdr) (a : SReg) (j : BitVec 5) (l : BitVec 27) (l2 : BitVec 17),
  let line : Word := s.me.pc &&& (~~~63 : Word)
  (Acts s h .empty → (∃ t, exec (.nop h) s = .next t ∧ Moves s t s.next ∧ OnlySlot s t ∧ KeptThread s t) ∧
    ∃ t, exec (.br h j l) s = .next t ∧ Moves s t (line + (l.signExtend 64 <<< 6) + j.setWidth 64) ∧ OnlySlot s t ∧ KeptThread s t) ∧
  (Acts s h (NS [a]) → (s.s a).p = false →
    ∃ t, exec (.jmp h a) s = .next t ∧ Moves s t (s.s a).v ∧ OnlySlot s t ∧ KeptThread s t) ∧
  (Acts s h (N1 a a) → (s.s a).p = false →
    let n := (s.s a).v - 1
    ∃ t, exec (.loop h a a j l2) s = .next t ∧
      WritesS s t (if n = 0 then s.next else line + (l2.signExtend 64 <<< 6) + j.setWidth 64) a n false) ∧
  ((s.s a).p = true → (Acts s h (NS [a]) → exec (.jmp h a) s = .next (takeTrap s s.ctl.cur ⟨cPoison, 0, 0⟩)) ∧
    (Acts s h (N1 a a) → exec (.loop h a a j l2) s = .next (takeTrap s s.ctl.cur ⟨cPoison, 0, 0⟩)))) ∧
  (∀ (hd : BitVec 16) (tl : BitVec 64), headOp hd = 0x008 → tl.extractLsb' 0 5 ≠ tl.extractLsb' 5 5 → decode hd tl = .illegal) ∧
  ∀ (s : State) (h : Hdr) (a : SReg) (j : BitVec 5) (l : BitVec 27) (l2 : BitVec 17)
    (n : Names) (i : Instr),
  (i = .nop h ∧ n = .empty ∨ i = .br h j l ∧ n = .empty ∨ i = .jmp h a ∧ n = NS [a] ∨ i = .loop h a a j l2 ∧ n = N1 a a ∨
    i = .call h j l ∧ n = { Names.empty with noGuest := true } ∨ i = .calli h a ∧ n = { NS [a] with noGuest := true } ∨
    i = .ret h ∧ n = { Names.empty with noGuest := true }) →
  Issues s h n →
    (gpois s h = true → exec i s = .next (takeTrap s s.ctl.cur ⟨cPoison, 0, 0⟩)) ∧
    (gpois s h = false → gbit s h = false →
      ∃ t, exec i s = .next t ∧ Moves s t s.next ∧ OnlySlot s t ∧ KeptThread s t)

/-- R60, R61, R164 to R166. CALL and CALLI mark the frame pending, keep Next as the return PC and go to their target; where
Next does not fit a frame record's 58 bits they raise Illegal Target. FRAME at a call's target opens the callee's frame: its
first o names are the caller's top o registers, the others read zero, the call is no longer pending, the depth has gone up.
FRAME of a size alone reshapes the outermost frame: the names it adds read zero. The globals s1 to s7 stand. RET goes on at
the return PC of its frame's record and gives the caller its frame back: the callee's names move up past the record by the
record's slide, the entries under it are the caller's. (Of a thread that has spilled nothing; the caller's size is the model's
own field, log 20.) A poisoned record raises Poison Consumed; in the outermost frame RET raises Illegal Target. -/
def Obligations.CallsFramesAndReturns : Prop :=
  (∀ (s : State) (h : Hdr) (a : SReg) (j : BitVec 5) (l : BitVec 27),
  let goesTo (t : State) (pc : Word) : Prop :=
    Went s t pc ∧ t.me.regs.win = { s.me.regs.win with pend := true, retpc := s.next } ∧ SameS s t ∧ SameP s t ∧ SameK s t ∧
      SameV s t ∧ SameFlags s t ∧ OnlySlot s t ∧ KeptThread s t
  let fits : Prop := s.next.toNat < 2 ^ 58
  (Acts s h { Names.empty with noGuest := true } →
    (fits → ∃ t, exec (.call h j l) s = .next t ∧ goesTo t ((s.me.pc &&& (~~~63 : Word)) + (l.signExtend 64 <<< 6) + j.setWidth 64)) ∧
    (¬ fits → exec (.call h j l) s = .next (takeTrap s s.ctl.cur ⟨cTarget, 0, 0⟩))) ∧
  (Acts s h { NS [a] with noGuest := true } → (s.s a).p = false →
    (fits → ∃ t, exec (.calli h a) s = .next t ∧ goesTo t (s.s a).v) ∧
    (¬ fits → exec (.calli h a) s = .next (takeTrap s s.ctl.cur ⟨cTarget, 0, 0⟩)))) ∧
    (∀ (s : State) (h : Hdr) (k o : BitVec 5),
  let w := s.me.regs.win
  let ent (i : Nat) : SVal := let c := s.me.regs.w.get (fin64 (w.base.toNat + i)); ⟨c.val, c.p⟩
  let issues : Prop := campBlocks s.me = false ∧ farBlocks s h { Names.empty with noGuest := true } = false ∧
    isGuest s.ctl.cur = false ∧ overLimit s.me.cur = false ∧ h.g = 0 ∧ s.ctl.awaits = false
  issues → 0 < k.toNat → k.toNat ≤ 24 → o.toNat ≤ 8 → o.toNat ≤ k.toNat →
    (w.pend = true → o.toNat ≤ w.size.toNat → w.live + (k.toNat - o.toNat + 1) ≤ 64 →
      ∃ t, exec (.frame h k o) s = .next t ∧ Went s t s.next ∧
        (∀ i, i < o.toNat → t.s (wname i) = ent (w.size.toNat - o.toNat + i)) ∧
        (∀ i, o.toNat ≤ i → i < k.toNat → t.s (wname i) = ⟨0, false⟩) ∧
        (∀ r : SReg, r.toNat < 8 → t.s r = s.s r) ∧
        t.me.regs.win.pend = false ∧ t.me.regs.win.depth = w.depth + 1 ∧ t.me.regs.win.size = k ∧
        SameP s t ∧ SameK s t ∧ SameV s t ∧ SameFlags s t ∧ OnlySlot s t ∧ KeptThread s t) ∧
    (w.pend = false → w.depth = 1 → o = 0 →
      ∃ t, exec (.frame h k o) s = .next t ∧ Went s t s.next ∧ t.me.regs.win = { w with size := k } ∧
        (∀ i, i < k.toNat → t.s (wname i) = if w.size.toNat ≤ i then ⟨0, false⟩ else ent i) ∧
        (∀ r : SReg, r.toNat < 8 → t.s r = s.s r) ∧
        SameP s t ∧ SameK s t ∧ SameV s t ∧ SameFlags s t ∧ OnlySlot s t ∧ KeptThread s t)) ∧
  ∀ (s : State) (h : Hdr) (k : BitVec 5) (rest : List (BitVec 5)),
  let w := s.me.regs.win
  let under (i : Nat) : SCell := s.me.regs.w.get (fin64 (w.base.toNat + 64 - i))
  let rec_ := (under 1).val
  let slide := (rec_.extractLsb' 58 5).toNat
  Acts s h { Names.empty with noGuest := true } →
    ((under 1).p = false → w.depth ≠ 1 → s.me.spill = none → w.sizes = k :: rest → slide ≤ k.toNat → k.toNat ≤ 24 →
      ∃ t, exec (.ret h) s = .next t ∧ Went s t ((rec_.extractLsb' 0 58).setWidth 64) ∧
        t.me.regs.win.depth = w.depth - 1 ∧ t.me.regs.win.size = k ∧
        (∀ i, i < k.toNat → t.s (wname i) = if i < slide then ⟨(under (slide + 1 - i)).val, (under (slide + 1 - i)).p⟩
          else ⟨(s.me.regs.w.get (fin64 (w.base.toNat + (i - slide)))).val, (s.me.regs.w.get (fin64 (w.base.toNat + (i - slide)))).p⟩) ∧
        (∀ r : SReg, r.toNat < 8 → t.s r = s.s r) ∧
        SameP s t ∧ SameK s t ∧ SameV s t ∧ SameFlags s t ∧ OnlySlot s t ∧ KeptThread s t) ∧
    ((under 1).p = true → w.depth ≠ 1 → s.me.spill = none → exec (.ret h) s = .next (takeTrap s s.ctl.cur ⟨cPoison, 0, 0⟩)) ∧
    (w.depth = 1 → exec (.ret h) s = .next (takeTrap s s.ctl.cur ⟨cTarget, 0, 0⟩))



/-- R16, R64, R170, R171, R179 to R181. TSTAMP and CYCLE write a reading of the timebase and of the region cycles, unpoisoned
(how far a clock has moved is free, and it never goes back, log 3); WAKEAT parks the slot while its reading is below the operand, unsigned; YIELD
waits for the other runnable slots, at most 16 opportunities. TRAP raises Software Trap with its number; CHKERR reads CHECK
and clears it as a pending update of the chunk, once the thread is owed nothing; CHKERR.trap raises Poison Consumed while a
flag of CHECK is set. -/
def Obligations.ClocksTurnsAndTraps : Prop :=
  (∀ (s : State) (h : Hdr) (d a : SReg),
  let now := BitVec.ofNat 64 (min (s.pkg.timeb.toNat + Config.ticks s.ctl.free) (2 ^ 64 - 1))
  let cyc := BitVec.ofNat 64 (min (s.pkg.cyc.toNat + Config.cycles s.ctl.free) (2 ^ 64 - 1))
  let rest (t : State) : Prop := SameP s t ∧ SameK s t ∧ SameV s t ∧ SameCtl s t ∧ SameFlags s t ∧ SameMem s.mem t.mem ∧ t.core = s.core ∧
    t.cl = s.cl ∧ t.part = s.part
  (Acts s h ⟨[], [d], [], [], [], false, false, .near⟩ →
    (∃ t, exec (.tstamp h d) s = .next t ∧ Went s t s.next ∧ SetsS s t d now false ∧ t.pkg = { s.pkg with timeb := now } ∧ rest t) ∧
    ∃ t, exec (.cycle h d) s = .next t ∧ Went s t s.next ∧ SetsS s t d cyc false ∧ t.pkg = { s.pkg with cyc := cyc } ∧ rest t) ∧
  (Acts s h (NS [a]) → (s.s a).p = false →
    ∃ t, exec (.wakeat h a) s = .next t ∧ Went s t s.next ∧ SameS s t ∧ t.pkg = { s.pkg with timeb := now } ∧ rest t ∧
      t.me.park = if (s.s a).v.toNat ≤ now.toNat then none else some (.wakeAt (s.s a).v)) ∧
  (Acts s h .empty →
    ∃ t, exec (.yield h) s = .next t ∧ Moves s t s.next ∧ OnlySlot s t ∧ KeptThread s t ∧
      t.me.yield = let m := runMask s &&& ~~~((1 : BitVec 16) <<< s.ctl.cur.val); if m = 0 then none else some (m, 16))) ∧
  ∀ (s : State) (h : Hdr) (d : SReg) (n : BitVec 5) (m : Bool),
  (Acts s h .empty → exec (.trap h n) s = .next (takeTrap s s.ctl.cur ⟨0x0F, n.setWidth 64, 0⟩)) ∧
  (Acts s h ⟨[], [d], [], [], [], false, false, .near⟩ → s.me.far = [] →
    ((m = false ∨ (readCheck s.me).extractLsb' 0 3 = 0) →
      ∃ t, exec (.chkerr h d m) s = .next t ∧ Went s t s.next ∧ SetsS s t d ((readCheck s.me).setWidth 64) false ∧
        readCheck t.me = 0 ∧ t.me.check = s.me.check ∧ OnlySlot s t ∧ SameP s t ∧ SameK s t ∧ SameV s t ∧ SameCtl s t ∧ SameFlags s t) ∧
    (m = true → (readCheck s.me).extractLsb' 0 3 ≠ 0 →
      exec (.chkerr h d m) s = .next (takeTrap s s.ctl.cur ⟨0x0B, 0, 0⟩)))

/-- R63 to R65, R186. GETSR reads a special register zero-extended and unpoisoned: CORE, SLOT, FARCNT, CHECK, REGION, SEED,
FPCTL, FPFLAGS and the rest near, a window format far; CHECK waits for every owed value, FPFLAGS for owed flags. SETSR: zero
stored to SEED is 1; RMODE 6 and 7 keep FPCTL's RMODE; FPFLAGS takes six bits; CHECK is written 1 to clear as an update of the
chunk; a window format leaves with the chunk's commit; every other register ignores the write. -/
def Obligations.SpecialRegisters : Prop :=
  (∀ (s : State) (h : Hdr) (d : SReg) (x : BitVec 12),
  let n : Names := ⟨[], [d], [], [], [], false, false, if isWfmt x then .scalar else .near⟩
  Acts s h n → Instr.wf (.getsr h d x) = true →
    (isWfmt x = true → ∃ t, exec (.getsr h d x) s = .next t ∧
      OwesS s t d ⟨(s.cl.wfmt.get (fin8 (x.toNat - 0x10))).setWidth 64, false⟩) ∧
    (isWfmt x = false → x ≠ 0x20 → x ≠ 0x21 → (x = 4 → s.me.far = []) → (x = 10 → flagsOwed s.me = false) →
      ∃ t v, exec (.getsr h d x) s = .next t ∧ WritesS s t s.next d v false ∧
        (x = 0 → v = s.core.id.setWidth 64) ∧ (x = 1 → v = BitVec.ofNat 64 s.ctl.cur.val) ∧ (x = 2 → v = launchWord s s.ctl.cur) ∧
        (x = 3 → v = BitVec.ofNat 64 s.me.far.length) ∧ (x = 4 → v = (readCheck s.me).setWidth 64) ∧
        (x = 5 → v = s.me.region.setWidth 64) ∧ (x = 6 → v = windowWord s s.ctl.cur) ∧ (x = 7 → v = vpoolWord s s.ctl.cur) ∧
        (x = 8 → v = s.me.regs.seed) ∧ (x = 9 → v = s.me.regs.fpctl.setWidth 64) ∧ (x = 10 → v = s.me.regs.fpflags.setWidth 64) ∧
        (x = 0x18 → v = tabstat s)) ∧
    (x = 0x20 → ∃ t, exec (.getsr h d x) s = .next t ∧ Went s t s.next ∧ SetsS s t d t.pkg.timeb false ∧ s.pkg.timeb.toNat ≤ t.pkg.timeb.toNat ∧ SameMem s.mem t.mem) ∧
    (x = 0x21 → ∃ t, exec (.getsr h d x) s = .next t ∧ Went s t s.next ∧ SetsS s t d t.pkg.cyc false ∧ s.pkg.cyc.toNat ≤ t.pkg.cyc.toNat ∧ SameMem s.mem t.mem)) ∧
  ∀ (s : State) (h : Hdr) (a : SReg) (x : BitVec 12),
  let v := (s.s a).v
  Acts s h { NS [a] with far := if isWfmt x then .scalar else .near } → Instr.wf (.setsr h a x) = true →
    ((s.s a).p = true → exec (.setsr h a x) s = .next (takeTrap s s.ctl.cur ⟨0x0B, 0, 0⟩)) ∧
    ((s.s a).p = false → (x = 10 → flagsOwed s.me = false) →
      ∃ t, exec (.setsr h a x) s = .next t ∧ Went s t s.next ∧ SameS s t ∧ SameP s t ∧ SameK s t ∧ SameV s t ∧ OnlySlot s t ∧
        t.me.regs.win = s.me.regs.win ∧
        t.me.regs.seed = (if x = 8 then (if v = 0 then 1 else v) else s.me.regs.seed) ∧
        t.me.regs.fpctl.extractLsb' 3 5 = (if x = 9 then v.extractLsb' 3 5 else s.me.regs.fpctl.extractLsb' 3 5) ∧
        t.me.regs.fpctl.extractLsb' 0 3 =
          (if x = 9 ∧ (v.extractLsb' 0 3).toNat < 6 then v.extractLsb' 0 3 else s.me.regs.fpctl.extractLsb' 0 3) ∧
        t.me.regs.fpflags = (if x = 10 then v.extractLsb' 0 6 else s.me.regs.fpflags) ∧
        readCheck t.me = (if x = 4 then readCheck s.me &&& ~~~(v.extractLsb' 0 32) else readCheck s.me) ∧
        t.me.cur.wfmts = (if isWfmt x then s.me.cur.wfmts ++ [(fin8 (x.toNat - 0x10), v.extractLsb' 0 4)] else s.me.cur.wfmts))

/-- R182 to R185, R288, R300. PITCH opens a region whose chunk starts at Next, with its fallback; CHUNK ends the chunk and the
thread issues on; both leave the chunk before as it stands, counted with this packet. In an open region DOUSE discards the
region's chunk and goes to the fallback with the registers of the region's start and REGION saying so; STRIKE closes the
region once its chunk has committed, with 0 in D, or 1 where the commit repaired it. Outside a region both raise Illegal
Instruction. FENCE of a thread with nothing uncommitted goes on, and parks the slot unless what its scope and its token flag
wait for is already over; IFLUSH, once the thread's older chunks have committed, empties the core's instruction cache and nothing else of the core. -/
def Obligations.RegionsChunksAndFences : Prop :=
  ((∀ (s : State) (h : Hdr) (j : BitVec 5) (l : BitVec 27),
  let ended (t : State) : Prop := ∃ c, t.me.ended = s.me.ended ++ [c] ∧ c.npkts = s.me.cur.npkts + 1 ∧ c.pc = s.me.cur.pc ∧
    c.stores = s.me.cur.stores ∧ t.me.cur.npkts = 0 ∧ t.me.cur.pc = s.next ∧ t.me.cur.stores = []
  s.me.reg.isOpen = false →
    (Acts s h { Names.empty with noGuest := true, noRanger := true } →
      ∃ t, exec (.pitch h j l) s = .next t ∧ Moves s t s.next ∧ OnlySlot s t ∧ ended t ∧
        t.me.reg = ⟨true, (s.me.pc &&& (~~~63 : Word)) + (l.signExtend 64 <<< 6) + j.setWidth 64, s.next, 0, 0⟩) ∧
    (Acts s h .empty → ∃ t, exec (.chunk h) s = .next t ∧ Moves s t s.next ∧ OnlySlot s t ∧ ended t ∧ t.me.reg = s.me.reg)) ∧
  ∀ (s : State) (h : Hdr) (d : SReg),
  let r := s.me.reg
  let n : Names := ⟨[], [d], [], [], [], false, false, .near⟩
  (Acts s h .empty → r.isOpen = true → ∃ t, exec (.douse h) s = .next t ∧ t.me.pc = r.fallback ∧ t.me.reg.isOpen = false ∧
      t.me.region = BitVec.ofNat 12 (3 + 4 * r.n + 256 * 5) ∧ (∀ q : SReg, t.s q = ⟨(s.me.cur.ckpt.s q).val, (s.me.cur.ckpt.s q).p⟩) ∧
      t.me.ended = s.me.ended ∧ t.me.cur.npkts = 0 ∧ t.me.cur.stores = [] ∧ SameMem s.mem t.mem) ∧
  (Acts s h .empty → r.isOpen = false → exec (.douse h) s = .next (takeTrap s s.ctl.cur ⟨0x01, 0, 0⟩)) ∧
  (Acts s h n → r.isOpen = false → exec (.strike h d) s = .next (takeTrap s s.ctl.cur ⟨0x01, 0, 0⟩)) ∧
  (Acts s h n → r.isOpen = true → s.me.ended = [] → commitReady s s.ctl.cur = true →
    let c := commitChunk s s.ctl.cur
    (c.2 = .clean ∨ c.2 = .repaired) →
      ∃ t, exec (.strike h d) s = .next t ∧ t.me.pc = s.next ∧ t.me.from_ = s.me.pc ∧ t.ctl.cur = s.ctl.cur ∧ t.me.reg.isOpen = false ∧ t.me.ended = [] ∧ t.me.cur.npkts = 0 ∧
        (d ≠ 0 → t.s d = ⟨if c.2 = .clean then 0 else 1, false⟩) ∧ SameMem c.1.mem t.mem)) ∧
  ∀ (s : State) (h : Hdr) (sc : Scope) (m : Bool),
  (Acts s h { Names.empty with far := .scalar } → Calm s →
    ∃ t, exec (.fence h sc m) s = .next t ∧ Moves s t s.next ∧ OnlySlot s t ∧
      t.me.park = if fenceDone s s.ctl.cur sc m then none else some (.fence sc m)) ∧
  (Acts s h .empty → s.me.ended ≠ [] → exec (.iflush h) s = .next (passTurn s)) ∧
  (Acts s h .empty → s.me.ended = [] →
    ∃ t, exec (.iflush h) s = .next t ∧ Moves s t s.next ∧ t.core = { s.core with icache := [] } ∧ t.cl = s.cl ∧
      SameMem s.mem t.mem ∧ KeptThread s t)


/-! Scalar floating point, predicates (R196 to R215). -/

/-- R54, R138, R140, R196, R198, R200, R202 to R208, R210 to R213. The near FP operations round once, in the effective mode,
with one draw under SR; the result is poisoned by any source, the flags of an unpoisoned operation are recorded, and a flag
whose trap is enabled raises FP Exception instead. FDIV, FSQRT and FXF owe their result with its flags while no FP trap is
enabled; with one enabled they launch and wait, holding their thread, and once the value has come they raise FP Exception where
an enabled flag is raised, else the value is written and the flags recorded. A scalar compare writes its condition to one predicate and the complement to the other, in bit 0
with the other bits zero, both poisoned by a poisoned operand; integer conditions are signed, or unsigned under .n; FCMP
records its flags, or raises FP Exception where one is enabled. -/
def Obligations.ScalarFloatAndCompares : Prop :=
  ((∀ (s : State) (h : Hdr) (d a b c : SReg) (t : FTy) (rm : Rm) (op : SignOp) (dt sty : CvtTy) (inf : Bool),
  let F := FTy.fmt t
  let x := fpVal t (s.s a).v
  let y := fpVal t (s.s b).v
  let z := fpVal t (s.s c).v
  let m := effMode s rm
  let r1 := draw1 s h m
  let near (i : Instr) (srcs : List SReg) (steps : Nat) (r : FRes) : Prop :=
    Acts s h ⟨srcs, [d], [], [], [], false, false, .near⟩ →
      let p := srcs.any fun q => (s.s q).p
      let fl : Flags := if p then 0 else r.fl
      (∀ e, fpTrap s fl = some e → exec i s = .next (takeTrap s s.ctl.cur e)) ∧
      (fpTrap s fl = none → ∃ u, exec i s = .next u ∧ Went s u s.next ∧ SetsS s u d (BitVec.ofNat 64 r.bits) p ∧ SameP s u ∧ SameK s u ∧ SameV s u ∧
        u.me.regs.fpflags = s.me.regs.fpflags ||| fl ∧ u.me.regs.fpctl = s.me.regs.fpctl ∧ u.me.regs.win = s.me.regs.win ∧
        u.me.regs.seed = (if steps = 1 ∧ m = .sr then seedAfter 1 s.me.regs.seed else s.me.regs.seed) ∧ OnlySlot s u ∧ KeptThread s u)
  let cv := fcvt dt sty inf m r1 (s.s a).v
  near (.fadd h d a b t rm) [a, b] 1 (fAdd F m r1 x y) ∧ near (.fsub h d a b t rm) [a, b] 1 (fAdd F m r1 x y.negate) ∧
  near (.fmul h d a b t rm) [a, b] 1 (fMul F m .arith r1 x y) ∧ near (.ffma h d a b c t rm) [a, b, c] 1 (fFma F m r1 x y z) ∧
  near (.frnd h d a t rm) [a] 1 (fRnd F m r1 (fpArg t (s.s a).v)) ∧
  near (.fcvt h d a dt sty rm inf) [a] 1 ⟨cv.1.toNat, cv.2⟩ ∧
  near (.fmin h d a b t) [a, b] 0 (fMinMax F false (fpArg t (s.s a).v) (fpArg t (s.s b).v)) ∧
  near (.fmax h d a b t) [a, b] 0 (fMinMax F true (fpArg t (s.s a).v) (fpArg t (s.s b).v)) ∧
  near (.fsgn h d a b t op) (if op = .abs then [a] else [a, b]) 0 ⟨fSgn F op (fpArg t (s.s a).v) (fpArg t (s.s b).v), 0⟩ ∧
  near (.fcls h d a t) [a] 0 ⟨fCls F (fpArg t (s.s a).v), 0⟩) ∧
  ∀ (s : State) (h : Hdr) (d a b : SReg) (t : FTy) (rm : Rm) (fn : Fun),
  let F := FTy.fmt t
  let m := effMode s rm
  let r1 := draw1 s h m
  let far (i : Instr) (srcs : List SReg) (r : FRes) : Prop :=
    Acts s h ⟨srcs, [d], [], [], [], false, false, .scalar⟩ →
      let p := srcs.any fun q => (s.s q).p
      let fl : Flags := if p then 0 else r.fl
      let v : Word := BitVec.ofNat 64 r.bits
      let seed := if m = .sr then seedAfter 1 s.me.regs.seed else s.me.regs.seed
      (anyEnable s = false → ∃ u, exec i s = .next u ∧ Went s u s.next ∧ SameS s u ∧ SameP s u ∧ SameK s u ∧ SameV s u ∧ SameFlags s u ∧
        OnlySlot s u ∧ u.me.regs.seed = seed ∧
        u.me.far = s.me.far ++ [⟨s.me.seq, s.me.inc, .scalar d, some (.scalar ⟨v, p⟩ none), fl, false, s.me.cur.no, false, true⟩] ∧
        (d ≠ 0 → (u.me.regs.s d).far = true ∧ (u.me.regs.s d).wseq = s.me.seq)) ∧
      (anyEnable s = true → s.ctl.came = false → ∃ u, exec i s = .next u ∧ u.me.await = some (i, s.ctl.curN) ∧ u.me.park = some .value ∧
        u.me.pc = s.me.pc ∧ SameRegs s u ∧ OnlySlot s u ∧
        u.me.far = s.me.far ++ [⟨s.me.seq, s.me.inc, .none, some .discard, 0, false, s.me.cur.no, false, true⟩]) ∧
      (anyEnable s = true → s.ctl.came = true → (∀ e, fpTrap s fl = some e → exec i s = .next (takeTrap s s.ctl.cur e)) ∧
        (fpTrap s fl = none → ∃ u, exec i s = .next u ∧ Went s u s.next ∧ SetsS s u d v p ∧ SameP s u ∧ SameK s u ∧ SameV s u ∧
          u.me.regs.seed = seed ∧
          u.me.regs.fpflags = s.me.regs.fpflags ||| fl ∧ u.me.far = s.me.far ∧ OnlySlot s u))
  far (.fdiv h d a b t rm) [a, b] (fDiv F m r1 (fpVal t (s.s a).v) (fpVal t (s.s b).v)) ∧
  far (.fsqrt h d a t rm) [a] (fSqrt F m r1 (fpVal t (s.s a).v)) ∧
  far (.fxf h d a t rm fn) [a] (fXf F fn m r1 (fpArg t (s.s a).v))) ∧
  ∀ (s : State) (h : Hdr) (d c : PReg) (a b : SReg) (cd : Cond) (un : Bool) (i12 : BitVec 12) (t : FTy),
  let sets (u : State) (r p : Bool) : Prop :=
    Went s u s.next ∧ (∀ q, (u.p q).m = (if q = c ∧ c ≠ 0 then (if r then 0 else 1) else if q = d ∧ d ≠ 0 then (if r then 1 else 0) else (s.p q).m) ∧
      (u.p q).p = if q = c ∧ c ≠ 0 ∨ q = d ∧ d ≠ 0 then p else (s.p q).p) ∧
    SameS s u ∧ SameK s u ∧ SameV s u ∧ SameCtl s u ∧ OnlySlot s u ∧ KeptThread s u
  let icond (x y : Word) : Bool := if un then iCond cd x.toNat y.toNat else iCond cd x.toInt y.toInt
  (Acts s h ⟨[a, b], [], [], [], [d, c], false, false, .near⟩ → s.me.cur.cons.length + s.me.cur.ghost.cons < 32 →
    (∃ u, exec (.cmp h d c a b cd un) s = .next u ∧ sets u (icond (s.s a).v (s.s b).v) ((s.s a).p || (s.s b).p) ∧ SameFlags s u) ∧
    let r := fCond cd ((FTy.fmt t).decode (s.s a).v.toNat) ((FTy.fmt t).decode (s.s b).v.toNat)
    let fl : Flags := if (s.s a).p || (s.s b).p then 0 else r.2
    (∀ e, fpTrap s fl = some e → exec (.fcmp h d c a b t cd) s = .next (takeTrap s s.ctl.cur e)) ∧
    (fpTrap s fl = none → ∃ u, exec (.fcmp h d c a b t cd) s = .next u ∧ sets u r.1 ((s.s a).p || (s.s b).p) ∧
      u.me.regs.fpflags = s.me.regs.fpflags ||| fl)) ∧
  (Acts s h ⟨[a], [], [], [], [d, c], false, false, .near⟩ → s.me.cur.cons.length + s.me.cur.ghost.cons < 32 →
    ∃ u, exec (.cmpi h d c a cd un i12) s = .next u ∧ sets u (icond (s.s a).v (i12.signExtend 64)) (s.s a).p ∧ SameFlags s u)


/-- R53, R212, R215. PLOG, PFROM and PLIM compute 64 bits under the guard mask, bit by bit: governed bits are new, the others
old; PTOS, PCNT and PFIRST bring a predicate to a scalar, the position of no set bit being 64. Fields that the rule calls
reserved are refused. -/
def Obligations.PredicateOperations : Prop :=
  (∀ (s : State) (h : Hdr) (d : PReg) (x : SReg) (a b : PReg) (ra rb : SReg) (tt : BitVec 4) (byte : Bool),
  let mask (i : Instr) (n : Names) (f : Nat → Bool) (p : Bool) : Prop := Issues s h n →
    ∃ u, exec i s = .next u ∧ Went s u s.next ∧ SameS s u ∧ SameK s u ∧ SameV s u ∧ SameCtl s u ∧ SameFlags s u ∧ OnlySlot s u ∧ KeptThread s u ∧
      (∀ q, q ≠ d ∨ d = 0 → u.p q = s.p q) ∧
      (d ≠ 0 → HasBits (u.p d).m (fun e => if (gmask s h).getLsbD e then f e else (s.p d).m.getLsbD e) ∧
        (u.p d).p = ((p && decide (gmask s h ≠ 0)) || gpois s h || ((s.p d).p && decide (gmask s h ≠ BitVec.allOnes 64))))
  let A := (s.p a).m
  let N : Names := ⟨[], [x], [], [a], [], false, false, .near⟩
  mask (.plog h d a b tt) ⟨[], [], [], [a, b], [d], false, false, .near⟩
    (fun e => tt.getLsbD (2 * (if A.getLsbD e then 1 else 0) + (if (s.p b).m.getLsbD e then 1 else 0))) ((s.p a).p || (s.p b).p) ∧
  mask (.pfrom h d ra) ⟨[ra], [], [], [], [d], false, false, .near⟩ (fun e => (s.s ra).v.getLsbD e) (s.s ra).p ∧
  mask (.plim h d ra rb byte) ⟨[ra, rb], [], [], [], [d], false, false, .near⟩
    (fun e => decide ((s.s ra).v.toNat + (if byte then 2 * e else e) < (s.s rb).v.toNat)) ((s.s ra).p || (s.s rb).p) ∧
  ComputesS s h N (.ptos h x a) x A (s.p a).p ∧
  ComputesS s h N (.pcnt h x a) x (BitVec.ofNat 64 ((List.range 64).filter A.getLsbD).length) (s.p a).p ∧
  ∃ n, n ≤ 64 ∧ (∀ j, j < n → A.getLsbD j = false) ∧ (n < 64 → A.getLsbD n = true) ∧
    ComputesS s h N (.pfirst h x a) x (BitVec.ofNat 64 n) (s.p a).p) ∧
  Reserved 0x0C3 15 5 ∧ Reserved 0x0C3 24 8 ∧ Reserved 0x0C4 10 6 ∧ Reserved 0x0C5 10 6 ∧ Reserved 0x0C8 15 5 ∧ Reserved 0x0C8 21 11

/-! Threads and messages (R75 to R94, R169 to R178). -/

/-- R80, R81, R93, R94, R169, R172, R173, R176, R177. Of a thread with nothing uncommitted: EXIT frees its slot once nothing
is owed, and a task's join word is to be counted down; FORK sends its task to be pushed; JOIN goes on where the word's COUNT
is zero and parks otherwise; SETTLE, BARC and BARG park, the barriers after sending their arrival. -/
def Obligations.ThreadsEndForkAndWait : Prop := ∀ (s : State) (h : Hdr) (a b c : SReg) (lvl : BitVec 2) (d : BarN) (as : List Nat),
  Calm s →
    (Acts s h { Names.empty with noRanger := true } → s.me.far = [] →
      ∃ t, exec (.exit h) s = .next t ∧ (t.slot s.ctl.cur).occ = false ∧ (∀ j, j ≠ s.ctl.cur → (t.slot j).occ = (s.slot j).occ) ∧
        ∀ j, s.me.kind = .task j → .joinDecrement j s.ctl.cur ∈ t.agenda) ∧
    (Acts s h { NF [a, b, c] with noRanger := true } → (s.s a).p = false → (s.s c).p = false → (s.s c).v.toNat % 8 = 0 →
      translated s (s.k 0) (s.s c).v 8 [permA] none = .ok as → joinBreak s c = none → (isGuest s.ctl.cur = true → runsSpace s s.me.space = true) →
      ∃ t, exec (.fork h a b c lvl) s = .next t ∧ Moves s t s.next ∧ SameMem s.mem t.mem ∧
        t.agenda = s.agenda ++ [.taskPush ⟨⟨(s.s a).v, s.s b, ⟨s.me.space, s.k 0, (s.s c).v⟩, lvl, s.core.id⟩, false⟩]) ∧
    (Acts s h { NF [a] with noRanger := true } → (s.s a).p = false → (s.s a).v.toNat % 8 = 0 →
      translated s (s.k 0) (s.s a).v 8 [permA] none = .ok as → joinBreak s a = none → adding s (joinRef s a) = false →
      ∃ t, exec (.join h a) s = .next t ∧ Moves s t s.next ∧ OnlySlot s t ∧
        t.me.park = if s.mem.nat (as.headD 0) 8 % 2 ^ 32 = 0 then s.me.park else some (.join ⟨s.me.space, s.k 0, (s.s a).v⟩ 1)) ∧
    (Acts s h { Names.empty with noRanger := true, far := .scalar } → isResident s.ctl.cur = false → replyGuest s.me = false → runsSpace s s.me.space = true →
      ∃ t, exec (.settle h) s = .next t ∧ Moves s t s.next ∧ OnlySlot s t ∧ t.me.park = some .settle) ∧
    (Acts s h { NF [a] with noGuest := true, noRanger := true } → (s.s a).p = false → 1 ≤ (s.s a).v.toNat → (s.s a).v.toNat ≤ 128 →
      (∀ n, (barOf s d).armed = some n → n = (s.s a).v.toNat) →
      ∃ t, exec (.barc h d a) s = .next t ∧ Moves s t s.next ∧ SameMem s.mem t.mem ∧ t.me.park = some (.barc d (s.s a).v.toNat false) ∧
        t.agenda = s.agenda ++ [.barrierArrival ⟨s.core.id, s.ctl.cur⟩ d (s.s a).v.toNat]) ∧
    (∀ l, Acts s h { Names.empty with noGuest := true, noRanger := true, far := .scalar } → s.core.launch = some l → l.sh.info.flags.getLsbD 0 = true →
      ∃ t, exec (.barg h) s = .next t ∧ Moves s t s.next ∧ SameMem s.mem t.mem ∧ t.me.park = some (.barg (openBarg s)) ∧
        t.agenda = s.agenda ++ [.bargArrival (some s.ctl.cur) (if s.me.kind = .index then 1 else 0)])

/-- R83 to R85, R90, R174, R175, R178, R350. With nothing uncommitted, a credit in hand and a destination that its checks
accept: HIKE leaves the slot and sends the thread's context on, its PC at Next; to its own core it goes on in place; POST
sends a new hiker with its entry PC and payload and goes on; FANOUT of a dispatched launch whose packet passes its checks fans
the launch out. A context whose unused bits are zero reads back from its 192 bytes as it was written. -/
def Obligations.ThreadsTravelAndLaunch : Prop := ∀ (s : State) (h : Hdr) (a b c : SReg) (n : BitVec 4) (m reply : Bool) (dest : CoreId)
    (s1 : State),
  Calm s → (s.s a).p = false →
    (Acts s h { NF [a] with noRanger := true } → destOf s a m (cannotHike s) = .ok dest s1 → s.me.far = [] →
      (dest = s.core.id → ∃ t, exec (.hike h a m) s = .next t ∧ Moves s t s.next ∧ SameMem s.mem t.mem) ∧
      (dest ≠ s.core.id → (creditOf s dest false).held ≠ 0 →
        ∃ t k, exec (.hike h a m) s = .next t ∧ (t.slot s.ctl.cur).occ = false ∧ .hiker (hikerMsg k) ∈ t.out ∧ k.pc = s.next ∧ k.dest = dest ∧
          k.src = s.core.id ∧ k.space = s.me.space ∧ k.k = s.me.regs.k ∧ k.reply = false ∧
          ∀ j, j < 15 → nameOk s s.ctl.cur (BitVec.ofNat 5 (j + 1)) = true → k.s.items[j]? = some (s.s (BitVec.ofNat 5 (j + 1))))) ∧
    (Acts s h (NF ([a, b] ++ payload c n.toNat)) → payloadOk s c n.toNat = true → (s.s b).p = false → replyGuest s.me = false →
      destOf s a m (streamBound s) = .ok dest s1 → (creditOf s dest reply).held ≠ 0 →
      ∃ t k, exec (.post h a b c n m reply) s = .next t ∧ Moves s t s.next ∧ SameMem s.mem t.mem ∧
        (if dest = s.core.id then .hikerArrival (hikerMsg k) ∈ t.agenda else .hiker (hikerMsg k) ∈ t.out) ∧
        k.pc = (s.s b).v ∧ k.dest = dest ∧ k.reply = reply ∧ k.space = s.me.space ∧ k.k = s.me.regs.k ∧
        ∀ j, j < 15 → k.s.items[j]? = some (if j < n.toNat then s.s (BitVec.ofNat 5 (c.toNat + j)) else ⟨0, false⟩)) ∧
    (∀ as l cf hd sh q, Acts s h { NF [a] with noRanger := true } → (s.s a).v.toNat % 256 = 0 →
      translated s (s.k 0) (s.s a).v 256 [permR] none = .ok as → breakAt s (s.k 0) (s.s a).v 256 true false none = none →
      markOf s s.me = some (q, (s.s a).v) → s.part.cfg = some cf → findLaunch s q = some l → l.st = .dispatched → s.mem.gatherP as = false →
      checkPacket (useRegs s [a]) cf (s.mem.gather as) = .ok hd sh →
      ∃ t l2, exec (.fanout h a) s = .next t ∧ Moves s t s.next ∧ SameMem s.mem t.mem ∧ findLaunch t q = some l2 ∧ l2.st = .fanned ∧
        l2.nshares = sh.length) ∧
    ∀ k : Hiker, k.q.getLsbD 0 = false → k.qp.getLsbD 0 = false → (hikerMsg k).bytes.length = 192 ∧ hikerOf (hikerMsg k) = k

/-! Memory (R228 to R251). -/

/-- R152. A store changes the bytes it names and no other; a poisoned store poisons every word it touches, an unpoisoned one
clears the poison of the words it writes whole and leaves that of the others; full/empty bits stand. -/
def Obligations.StoreLaw : Prop := ∀ (m : Memory) (a : Nat) (data : List Byte) (p : Bool), m.wf = true →
  let n := data.length
  let m' := m.store a data p
  m'.wf = true ∧
  (∀ i b, data[i]? = some b → m'.byte (a + i) = b) ∧
  (∀ x, x < a ∨ a + n ≤ x → m'.byte x = m.byte x) ∧
  (∀ x, m'.full x = m.full x) ∧
  ∀ w, m'.pois (8 * w) = if 8 * w < a + n ∧ a < 8 * w + 8 ∧ 0 < n then
      (if p then true else if a ≤ 8 * w ∧ 8 * w + 8 ≤ a + n then false else m.pois (8 * w))
    else m.pois (8 * w)

/-- R228, R232, R279. LD and LDO owe D the bytes of the thread's own view of memory, extended as the type says and poisoned by
their word; ST and STO hold the low bytes of D for the chunk's commit at the translated address, and memory itself stands. A
poisoned operand raises Poison Consumed, an offset that the size does not divide Misaligned, a translation that fails its own
cause. -/
def Obligations.ScalarAccess : Prop := ∀ (s : State) (h : Hdr) (d a b : SReg) (k : KReg) (t : IType) (sh : BitVec 2) (disp : BitVec 5)
    (i : BitVec 48),
  let n := IType.size t
  let r := s.k k
  let ix := (s.s a).v + ((s.s b).v <<< sh.toNat) + BitVec.ofInt 64 (disp.toInt * n)
  let im := (s.s a).v + i.signExtend 64
  let stops (ins : Instr) (addr : List SReg) (off : Word) (p : Nat) : Prop :=
    ((∃ q, q ∈ addr ∧ (s.s q).p = true) → exec ins s = .next (takeTrap s s.ctl.cur ⟨cPoison, 0, 0⟩)) ∧
    ((∀ q, q ∈ addr → (s.s q).p = false) → off.toNat % n ≠ 0 →
      exec ins s = .next (takeTrap s s.ctl.cur ⟨cMisaligned, off, r.setWidth 64⟩)) ∧
    (∀ c o, (∀ q, q ∈ addr → (s.s q).p = false) → off.toNat % n = 0 → xlate s s.ctl.cur s.me.space [p] (vaOf r off) n = .bad c o →
      exec ins s = .next (takeTrap s s.ctl.cur ⟨c, o, r.setWidth 64⟩))
  let loads (ins : Instr) (nm : Names) (addr : List SReg) (off : Word) : Prop :=
    Acts s h { nm with far := .scalar } → stops ins addr off permR ∧
      ∀ as, (∀ q, q ∈ addr → (s.s q).p = false) → off.toNat % n = 0 → access s r off n [permR] true false none = .ok as →
        crosses s (loadAt s d addr r off t) = false →
        let m := viewMem s s.ctl.cur
        ∃ u, exec ins s = .next u ∧ OwesS s u d ⟨IType.extend t (leNat (as.map m.byte)), as.any m.pois⟩
  let offs (ins : Instr) (nm : Names) : Prop := gpois s h = false → gbit s h = false →
    (Issues s h { nm with far := .scalar } → ∃ u, exec ins s = .next u ∧ WritesS s u s.next d (s.s d).v (s.s d).p) ∧
    (MayIssue s h { nm with far := .scalar } → (armGuard s h).ctl.awaits = true → s.me.reg.isOpen = false →
      ∃ u g c, exec ins s = .next u ∧ u.me.pc = s.next ∧ SameS s u ∧ SameV s u ∧ OnlySlot s u ∧ u.me.cur.stores = (if c = s.me.cur.no then s.me.cur.stores else []) ∧
        u.me.far = s.me.far ++ [⟨s.me.seq, s.me.inc, .scalar d, some (.scalar (s.s d) g), 0, false, c, false, false⟩])
  let stores (ins : Instr) (nm : Names) (addr : List SReg) (off : Word) : Prop :=
    Acts s h nm → stops ins addr off permW ∧
      ∀ as, (∀ q, q ∈ addr → (s.s q).p = false) → off.toNat % n = 0 → access s r off n [permW] false true none = .ok as →
        crosses s (storeAt s d addr r off t) = false →
        ∃ u g, exec ins s = .next u ∧ Moves s u s.next ∧ OnlySlot s u ∧ u.me.far = s.me.far ∧
          u.me.cur.stores = s.me.cur.stores ++ [⟨as.headD 0, leBytes n (s.s d).v.toNat, (s.s d).p, g⟩]
  loads (.ld h d a b k t sh disp) (N2 d a b) [a, b] ix ∧ loads (.ldo h d a k t i) (N1 d a) [a] im ∧
  offs (.ld h d a b k t sh disp) (N2 d a b) ∧ offs (.ldo h d a k t i) (N1 d a) ∧
  stores (.st h d a b k t sh disp) (NF [d, a, b]) [a, b] ix ∧ stores (.sto h d a k t i) (NF [d, a]) [a] im

/-- R228, R233 to R235. VLD and VLDG owe the whole vector: governed elements from memory, as the pairing of type and window
has them, the others old. -/
def Obligations.VectorLoads : Prop := ∀ (s : State) (h : Hdr) (d b : VNum) (a c : SReg) (disp : BitVec 5) (k : KReg) (t : VTy) (sh : BitVec 2)
    (sgn : Bool) (as : List (List Nat)),
  let w := VTy.width t
  let r := s.k k
  let m := viewMem s s.ctl.cur
  let owes (i : Instr) (w : Nat) (es : List Nat) (f : Nat → Nat → Nat × Bool) : Prop :=
    ∃ u v g, exec i s = .next u ∧ OwesV s u d (.vec v) 0 false s.me.regs.seed ∧ Elems w (gmask s h) false (s.v d) g v ∧
      ∀ x, x ∈ es.zip as → g x.1 = ((f x.1 (leNat (x.2.map m.byte))).1, (f x.1 (leNat (x.2.map m.byte))).2 || x.2.any m.pois)
  let acts (n : Names) (vs : List VNum) : Prop :=
    Issues s h { n with far := .vec w (some d) } ∧ gpois s h = false ∧ gany s h w = true ∧ Plain s vs
  (acts (NV [d] [a, c] [] []) [d] → (s.s a).p = false → (s.s c).p = false →
    let off := offVector s a c sh disp
    let p := pairAt s r off t false
    let bits := pairBits t p
    let es := governed s h w (VTy.count t)
    let spots := es.map fun e => (laneOf w e, elemOff off bits e, elemLen bits)
    off.toNat % elemLen bits = 0 → translatedAll s r [permR] spots = .ok as → p ≠ .illegal → breakAll s r true false spots = none →
      crosses s (finLoad s h d w [a, c] es (spots.map fun x => vaOf r x.2.1) as (loadElem s t p)) = false →
      owes (.vld h d a c disp k t sh) w es (loadElem s t p)) ∧
  (acts (NV [d, b] [a] [] []) [d, b] →
    let es := governed s h 32 32
    laneAccess s h a (s.v b) r sh sgn [permR] es = .ok as →
      crosses s (finLoad s h d 32 [a] es (es.map fun e => vaOf r (offLane s a (s.v b) sh sgn e)) as fun _ x => (x, false)) = false →
      owes (.vldg h d a b k t sh sgn) 32 es fun _ x => (x, false))

/-- R228, R233 to R235. VST and VSTS hold their governed elements for the chunk's commit, in element and in lane order, a
narrowing VST with its draws and its flags; memory itself stands. -/
def Obligations.VectorStores : Prop := ∀ (s : State) (h : Hdr) (d b : VNum) (a c : SReg) (disp : BitVec 5) (k : KReg) (t : VTy) (sh : BitVec 2)
    (rm : Rm) (nar sgn : Bool) (as : List (List Nat)),
  let w := VTy.width t
  let r := s.k k
  let v := s.v d
  let held (u : State) (xs : List (Nat × List Byte × Bool)) : Prop :=
    u.me.cur.stores = s.me.cur.stores ++ (mergeParts xs).map fun x => ⟨x.1, x.2.1, x.2.2, none⟩
  let room (xs : List (Nat × List Byte × Bool)) : Prop :=
    overLimit { s.me.cur with stores := s.me.cur.stores ++ (mergeParts xs).map fun x => ⟨x.1, x.2.1, x.2.2, none⟩ } = false
  let acts (n : Names) (vs : List VNum) : Prop := Issues s h { n with far := .vec w none } ∧ gpois s h = false ∧ gany s h w = true ∧ Plain s vs
  (acts (NV [d] [a, c] [] []) [d] → (s.s a).p = false → (s.s c).p = false →
    let off := offVector s a c sh disp
    let p := pairAt s r off t true
    let bits := pairBits t p
    let es := governed s h w (VTy.count t)
    let spots := es.map fun e => (laneOf w e, elemOff off bits e, elemLen bits)
    let m := effMode s rm
    let el (e : Nat) : Nat × Flags := narrowed t p m (draws s h m (storeSteps p)) nar e (velt w v.bits e)
    let xs := (es.zip as).map fun x => (x.2.headD 0, leBytes (elemLen bits) (el x.1).1, vpois w v x.1)
    off.toNat % elemLen bits = 0 → translatedAll s r [permW] spots = .ok as → p ≠ .illegal → breakAll s r false true spots = none →
      room xs →
      ∃ fl, (∀ j, j < 6 → (fl.getLsbD j = true ↔ ∃ x, x ∈ es.zip as ∧ vpois w v x.1 = false ∧ (el x.1).2.getLsbD j = true)) ∧
        (∀ e, fpTrap s fl = some e → exec (.vst h d a c disp k t sh rm nar) s = .next (takeTrap s s.ctl.cur e)) ∧
        (fpTrap s fl = none → ∃ u, exec (.vst h d a c disp k t sh rm nar) s = .next u ∧
          Vectored s u fl (seedThen s h m (storeSteps p)) ∧ held u xs ∧ u.me.far = s.me.far)) ∧
  (acts (NV [d, b] [a] [] []) [d, b] →
    let es := governed s h 32 32
    let xs := (es.zip as).map fun x => (x.2.headD 0, leBytes 4 (velt 32 v.bits x.1), v.poison.getLsbD x.1)
    laneAccess s h a (s.v b) r sh sgn [permW] es = .ok as →
      room xs →
      ∃ u, exec (.vsts h d a b k t sh sgn) s = .next u ∧ Vectored s u 0 s.me.regs.seed ∧ held u xs ∧ u.me.far = s.me.far)

/-- R230, R236, R237. LDF, LDFE, STEF, STF and FESET are performed at their word's home where it is ready, data and full/empty
bit in one step, and only there; where it is not, the thread goes on beside the waiting packet and memory stands. -/
def Obligations.FullEmptyWords : Prop := ∀ (s : State) (h : Hdr) (d a b : SReg) (k : KReg) (t : IType) (sh : BitVec 2) (disp : BitVec 5)
    (f : Bool) (as : List Nat),
  let n := IType.size t
  let off := offIndexed s a b sh disp t
  let x := as.headD 0
  let z : SVal := ⟨0, false⟩
  let v : SVal := ⟨IType.extend t (s.mem.nat x n), s.mem.poisAny x n⟩
  let put := (s.mem.store x (leBytes n (s.s d).v.toNat) (s.s d).p).setFull x true
  let runs (i : Instr) (nm : Names) (addr : List SReg) (off : Word) (n : Nat) (ps : List Nat) (op : HomeOp) (ready : Bool) (m : Memory)
      (owed : Option (SReg × SVal)) : Prop :=
    Acts s h nm → Calm s → homeAccess s addr (s.k k) off n n ps true = .ok as → isRemote s x = false →
      (ready = true → opFree s s.ctl.cur op = true → ∃ u, exec i s = .next u ∧ Performs s u m owed) ∧
      (ready = false → ∃ u q c, exec i s = .next u ∧ Moves s u s.next ∧ OnlySlot s u ∧ u.me.sync = some ⟨op, q, 0, s.me.pc, c, false, none⟩)
  runs (.ldf h d a b k t sh disp) (NL d a b) [a, b] off n [permR] ⟨.ldf, x, t, true, z, z, ⟨0, 0⟩, 0⟩ (s.mem.full x) s.mem (some (d, v)) ∧
  runs (.ldfe h d a b k t sh disp) (NL d a b) [a, b] off n [permR, permW] ⟨.ldfe, x, t, true, z, z, ⟨0, 0⟩, 0⟩ (s.mem.full x)
    (s.mem.setFull x false) (some (d, v)) ∧
  runs (.stef h d a b k t sh disp) (NF [d, a, b]) [a, b] off n [permW] ⟨.stef, x, t, true, s.s d, z, ⟨0, 0⟩, 0⟩ (!s.mem.full x) put none ∧
  runs (.stf h d a b k t sh disp) (NF [d, a, b]) [a, b] off n [permW] ⟨.stf, x, t, true, s.s d, z, ⟨0, 0⟩, 0⟩ true put none ∧
  runs (.feset h k a f) (NF [a]) [a] (s.s a).v 8 [permW] ⟨.feset f, x, .i64, true, z, z, ⟨0, 0⟩, 0⟩ true (s.mem.setFull x f) none

/-- R239, R240. ATOM and CAS read, compute and write at the home in one step, owe the old value zero-extended, and poison the
word by the old word or an operand; the integer operations are those of the rule. -/
def Obligations.Atomics : Prop := ∀ (s : State) (h : Hdr) (d a b c : SReg) (k : KReg) (op : AtomOp) (w4 : Bool) (as : List Nat),
  let n : Nat := if w4 then 4 else 8
  let M := 2 ^ (8 * n)
  let x := as.headD 0
  let old := s.mem.nat x n
  let B := (s.s b).v.toNat % M
  let sg (v : Nat) : Int := Int.bmod v M
  let runs (i : Instr) (nm : Names) (o : HomeOp) (new : Nat) (p : Bool) : Prop :=
    Acts s h nm → Calm s → homeAccess s [a] (s.k k) (s.s a).v n n [permR, permW, permA] false = .ok as → isRemote s x = false →
      opFree s s.ctl.cur o = true →
      ∃ u, exec i s = .next u ∧ Performs s u (s.mem.store x (leBytes n new) (s.mem.poisAny x n || p))
        (some (d, ⟨BitVec.ofNat 64 old, s.mem.poisAny x n⟩))
  let z : SVal := ⟨0, false⟩
  (∃ new, (op = .add → new = (old + B) % M) ∧ (op = .and → new = old &&& B) ∧ (op = .or → new = old ||| B) ∧
    (op = .xor → new = old ^^^ B) ∧ (op = .exch → new = B) ∧ (op = .min → new = if sg old ≤ sg B then old else B) ∧
    (op = .max → new = if sg old ≤ sg B then B else old) ∧ (op = .minu → new = min old B) ∧ (op = .maxu → new = max old B) ∧
    (op = .fadd32 → new = (fAdd fmtF32 .rne 0 (fmtF32.decode old) (fmtF32.decode B)).bits) ∧
    (op = .fmin → new = (fMinMax (if w4 then fmtF32 else fmtF64) false old B).bits) ∧
    (op = .fmax → new = (fMinMax (if w4 then fmtF32 else fmtF64) true old B).bits) ∧
    (op = .faddbf → new = (fAdd fmtBF16 .rne 0 (fmtBF16.decode (old % 2 ^ 16)) (fmtBF16.decode (B % 2 ^ 16))).bits +
      2 ^ 16 * (fAdd fmtBF16 .rne 0 (fmtBF16.decode (old / 2 ^ 16 % 2 ^ 16)) (fmtBF16.decode (B / 2 ^ 16 % 2 ^ 16))).bits) ∧
    runs (.atom h d a b k op w4) (NL d a b) ⟨.atom op w4, x, .i64, false, s.s b, z, ⟨0, 0⟩, 0⟩ new (s.s b).p) ∧
  runs (.cas h d a b c k w4) { NL d a b with src := [a, b, c] } ⟨.cas w4, x, .i64, false, s.s b, s.s c, ⟨0, 0⟩, 0⟩
    (if old = B then (s.s c).v.toNat % M else old) ((s.s b).p || (s.s c).p)

/-- R241 to R247, R249 to R251, R260. VRED combines every governed element of its vector with memory at the home and leaves
every other byte; GATHN leaves the core with the addresses of its governed lanes and is owed the whole vector; PREF changes
nothing. STASH maps, or zeroes and fills, the pad lines that it names; UNSTASH returns the lines of the span that begins at
its offset to anonymous use, zero and full, frees the entry, and owes a token. FLUSH, COPY, MCAST and TLOAD, their checks
passed and a queue entry free, hand their command to its walker, engine or table and owe a token; memory stands until the unit
works. -/
def Obligations.ReduceGatherPadAndEngines : Prop :=
  (∀ (s : State) (h : Hdr) (a : SReg) (d b : VNum) (k : KReg) (op : FoldOp) (t : VTy)
    (sh : BitVec 2) (sgn m : Bool) (x : Nat) (es : List (Nat × Nat)) (ls : List (List Nat)),
  let w := VTy.width t
  let v := s.v b
  let r := s.k k
  let o : HomeOp := ⟨.vred op t es, (es.head?.map (·.2)).getD 0, .i64, false, ⟨0, false⟩, ⟨0, false⟩, v, gmask s h⟩
  (Issues s h { NV [b] [a] [] [] with far := .vec w none } → gpois s h = false → gany s h w = true → Plain s [b] → Calm s →
    redAccess s h a r t = .ok es → x % 128 = 0 → (∀ y, y ∈ es → y.2 = x + w / 8 * y.1) →
    s.mem.wf = true → isRemote s o.addr = false → opFree s s.ctl.cur o = true →
    ∃ u, exec (.vred h a b k op t) s = .next u ∧ Homed s u ∧ u.me.far = s.me.far ∧
      (∀ e, e < VTy.count t → u.mem.nat (x + w / 8 * e) (w / 8) = if govBit w (gmask s h) e then
        redElem op t (s.mem.nat (x + w / 8 * e) (w / 8)) (velt w v.bits e) % 2 ^ w else s.mem.nat (x + w / 8 * e) (w / 8)) ∧
      (∀ e, e < VTy.count t → govBit w (gmask s h) e = true → vpois w v e = true → u.mem.pois (x + w / 8 * e) = true) ∧
      (∀ y, y < x ∨ x + 128 ≤ y → u.mem.byte y = s.mem.byte y ∧ u.mem.pois y = s.mem.pois y) ∧ ∀ y, u.mem.full y = s.mem.full y) ∧
  (Issues s h { NV [d, b] [a] [] [] with far := .vec w (some d) } → gpois s h = false → gany s h w = true → Plain s [d, b] → Calm s →
    laneAccess s h a v r sh sgn [permR] (governed s h 32 32) = .ok ls →
    ∃ u lanes, exec (.gathn h d a b k t sh sgn) s = .next u ∧ Moves s u s.next ∧ SameMem s.mem u.mem ∧ SameV s u ∧ u.core = s.core ∧
      u.agenda = s.agenda ++ [.gatherReturn ⟨s.ref, d, lanes, s.v d⟩] ∧
      (∀ e, e < 32 → lanes[e]? = some (if govBit 32 (gmask s h) e then
        (((governed s h 32 32).zip ls).find? (fun y => y.1 = e)).map (fun y => y.2.headD 0) else none)) ∧
      u.me.far = s.me.far ++ [⟨s.me.seq, s.me.inc, .vec d, none, 0, false, s.me.cur.no, false, false⟩]) ∧
  (Issues s h ⟨[a], [], [], [], [], false, false, .near⟩ →
    ∃ u, exec (.pref h k a m) s = .next u ∧ Moves s u s.next ∧ OnlySlot s u ∧ KeptThread s u)) ∧
    (∀ (s : State) (h : Hdr) (d a b c : SReg), s.mem.wf = true →
  let p := (s.s a).v.toNat
  let n := (s.s c).v.toNat
  let zeroed (m m' : Memory) (p n : Nat) : Prop := ∀ y, if padBase + p ≤ y ∧ y < padBase + p + n then
    m'.byte y = 0 ∧ m'.pois y = false ∧ m'.full y = true else m'.byte y = m.byte y ∧ m'.pois y = m.pois y ∧ m'.full y = m.full y
  (Acts s h (NF [a, b, c]) → Calm s →
    causes (stashEarly (s.s a) (s.s b) (s.s c) (s.k 0) ++ stashLate s (s.s a) (s.s b) (s.s c)) = none →
    ∃ u, exec (.stash h a b c) s = .next u ∧ Moves s u s.next ∧ u.core = s.core ∧ u.part = s.part ∧
      ((n = 0 ∨ (s.s b).v = 0) → zeroed s.mem u.mem p n ∧ u.cl = s.cl) ∧
      ((n ≠ 0 ∧ (s.s b).v ≠ 0) → SameMem s.mem u.mem ∧
        u.cl = { s.cl with spans := s.cl.spans ++ [⟨p, n, ⟨s.me.space, s.k 0, (s.s b).v⟩, []⟩] })) ∧
  (∀ sp, Acts s h { N1 d a with far := .scalar } → Calm s → (s.s a).p = false → spanFrom s (s.s a).v = some sp → meetsBedroll s sp.pad sp.len = false → sp.pad % 8 = 0 →
      sp.len % 8 = 0 →
    ∃ u, exec (.unstash h d a) s = .next u ∧ OwesToken s u d ∧ zeroed s.mem u.mem sp.pad sp.len ∧ u.core = s.core ∧
      u.cl = { s.cl with spans := s.cl.spans.filter fun x => decide (x.pad ≠ sp.pad) } ∧
      u.agenda = s.agenda ++ [.walkerRun (.unstash s.ref sp.global sp.len)])) ∧
  ∀ (s : State) (h : Hdr) (d a b c : SReg) (k : KReg) (desc ring : Bool) (as : List Nat),
  let used : List SReg := if ring then [a, c] else [a, b, c]
  let w (r : SReg) (k : KReg) : WordRef := ⟨s.me.space, s.k k, (s.s r).v⟩
  let takes (i : Instr) (op : EngOp) : Prop := ∃ u, exec i s = .next u ∧ OwesToken s u d ∧ SameMem s.mem u.mem ∧ u.core = s.core ∧
    u.cl = { s.cl with engq := s.cl.engq ++ [engNew op s.ref] } ∧ u.agenda = s.agenda
  (Acts s h { N2 d a b with far := .scalar } → Calm s → (s.s a).p = false → (s.s b).p = false →
    spanAccess s (s.k k) (s.s a).v (s.s b).v.toNat [permR] = none →
    ∃ u, exec (.flush h d a b k) s = .next u ∧ OwesToken s u d ∧ SameMem s.mem u.mem ∧ u.core = s.core ∧ u.cl = s.cl ∧
      u.agenda = s.agenda ++ [.walkerRun (.flush s.ref (w a k) (s.s b).v.toNat)]) ∧
  (Acts s h { NF used with dst := [d] } → Calm s → s.cl.engq.length < 16 →
    (copyChecks s a b c desc ring = none → takes (.copy h d a b c desc ring) (.copy (w a 0) (w b 1) (if ring then some b else none)
      (if desc then some (w c 0) else none) (if desc then 0 else (s.s c).v.toNat))) ∧
    (mcastChecks s a b c ring = none → takes (.mcast h d a b c ring) (.mcast (w a 0) (if ring then some b else none)
      (((padOff (s.s b).v).map (·.1)).getD 0) (mcastUnit s b ring) (getRing s b).kind (s.s c).v))) ∧
  (Acts s h { N1 d a with far := .scalar, noGuest := true } → Calm s → (s.s a).p = false → (s.s a).v.toNat % 64 = 0 →
    spanAccess s (s.k 0) (s.s a).v 1024 [permR] = none → xlate s s.ctl.cur s.me.space [permR] (vaOf (s.k 0) (s.s a).v) 1024 = .ok as →
    ∃ u, exec (.tload h d a) s = .next u ∧ OwesToken s u d ∧ SameMem s.mem u.mem ∧ u.cl = s.cl ∧
      u.core = { s.core with tabBusy := s.core.tabBusy + 1 } ∧
      u.agenda = s.agenda ++ [.tableLoadComplete ⟨s.ref, (List.range 16).map fun j => as.getD (64 * j) 0⟩])



/-! Vectors (R214 to R227, R252 to R259). -/

/-- R217, R218, R220 to R222, R224 to R227. The near vector arithmetic, element by element under the guard's mask, with names
to which no stream is bound: every governed element is the operation's, its poison that of its sources, every other element
old; the flags are those of governed, unpoisoned elements, and one whose trap is enabled refuses the packet. -/
def Obligations.VectorArithmetic : Prop := ∀ (s : State) (h : Hdr) (d a b c : VNum) (t st : VTy) (rm : Rm) (na nb nc sat sb x : Bool)
    (op : SignOp) (q : PReg),
  let m := effMode s rm
  let A (w e : Nat) := velt w (s.v a).bits e
  let pA (w e : Nat) := vpois w (s.v a) e
  let B (w e : Nat) := if sb then (s.s b).v.toNat % 2 ^ w else velt w (s.v b).bits e
  let pB (w e : Nat) := if sb then (s.s b).p else vpois w (s.v b) e
  let C (w e : Nat) := velt w (s.v c).bits e
  let pC (w e : Nat) := vpois w (s.v c) e
  let near (i : Instr) (srcs : List VNum) (sc : List SReg) (ps : List PReg) (m : RMode) (n w : Nat) (f : Nat → Elem) : Prop :=
    Issues s h (NV (d :: srcs) sc [] ps) → Plain s (d :: srcs) → s.me.cur.vregs.length < 16 →
      ∃ v fl, Elems w (gmask s h) (gpois s h) (s.v d) (fun e => ((f e).bits, (f e).p)) v ∧ Raises w (gmask s h) (gpois s h) f fl ∧
        WritesV s h i d m n v fl
  let two (i : Instr) (m : RMode) (n w : Nat) (f : Nat → Elem) : Prop := near i (a :: vecB sb b) (scaB sb b) [] m n w f
  let w := VTy.width t
  let n := stepsOf t
  let R (e : Nat) : Nat := rnd24 (draws s h m n) e
  let el (r : Nat × Flags) (p : Bool) : Elem := ⟨r.1, p, r.2⟩
  let z (u : Int) : Nat := (u % 2 ^ w).toNat
  let int (e : Nat → Nat) (k : Nat) : Int := if VTy.signed t then Int.bmod (e k) (2 ^ w) else (e k : Int)
  two (.vadd h d a b t rm na nb sat sb) m n w (fun e => el (eArith .add t m (R e) na nb false sat (A w e) (B w e) 0) (pA w e || pB w e)) ∧
  two (.vsub h d a b t rm na nb sat sb) m n w (fun e => el (eArith .sub t m (R e) na nb false sat (A w e) (B w e) 0) (pA w e || pB w e)) ∧
  two (.vmul h d a b t rm na nb sat sb) m n w (fun e => el (eArith .mul t m (R e) na nb false sat (A w e) (B w e) 0) (pA w e || pB w e)) ∧
  near (.vfma h d a b c t rm na nb nc sat sb) (a :: c :: vecB sb b) (scaB sb b) [] m n w
    (fun e => el (eArith .fma t m (R e) na nb nc sat (A w e) (B w e) (C w e)) (pA w e || pB w e || pC w e)) ∧
  two (.vmin h d a b t sb) .rne 0 w (fun e => el (eMinMax t false (A w e) (B w e)) (pA w e || pB w e)) ∧
  two (.vmax h d a b t sb) .rne 0 w (fun e => el (eMinMax t true (A w e) (B w e)) (pA w e || pB w e)) ∧
  near (.vclamp h d a b c t sb) (a :: c :: vecB sb b) (scaB sb b) [] .rne 0 w (fun e =>
    let r := eMinMax t true (A w e) (B w e)
    let y := eMinMax t false r.1 (C w e)
    ⟨y.1, pA w e || pB w e || pC w e, r.2 ||| y.2⟩) ∧
  near (.vsgn h d a b t op sb) (a :: if op = .abs then [] else vecB sb b) (if op = .abs then [] else scaB sb b) [] .rne 0 w (fun e =>
    ⟨fSgn ((VTy.fmt t).getD fmtF32) op (A w e) (if op = .abs then 0 else B w e), pA w e || (decide (op ≠ .abs) && pB w e), 0⟩) ∧
  two (.vand h d a b t sb) .rne 0 w (fun e => ⟨A w e &&& B w e, pA w e || pB w e, 0⟩) ∧
  two (.vor h d a b t sb) .rne 0 w (fun e => ⟨A w e ||| B w e, pA w e || pB w e, 0⟩) ∧
  two (.vxor h d a b t sb) .rne 0 w (fun e => ⟨A w e ^^^ B w e, pA w e || pB w e, 0⟩) ∧
  (VTy.fmt t = none →
    two (.vshr h d a b t sb) .rne 0 w (fun e => ⟨z (int (A w) e / 2 ^ (B w e % w)), pA w e || pB w e, 0⟩) ∧
    two (.vmulh h d a b t sb) .rne 0 w (fun e => ⟨z (int (A w) e * int (B w) e / 2 ^ w), pA w e || pB w e, 0⟩) ∧
    two (.vshl h d a b t sat sb) .rne 0 w (fun e =>
      let u := int (A w) e * 2 ^ (B w e % w)
      let lo : Int := if VTy.signed t then -2 ^ (w - 1) else 0
      let hi : Int := if VTy.signed t then 2 ^ (w - 1) - 1 else 2 ^ w - 1
      ⟨if sat then z (max lo (min hi u)) else z u, pA w e || pB w e, if sat && (decide (u < lo) || decide (hi < u)) then flSAT else 0⟩)) ∧
  near (.vcvt h d a t st rm x) [a] [] [] m (if t.isInt && st.isInt then 0 else VTy.count t) w (fun e =>
    el (eCvt t st m (rnd24 (draws s h m (if t.isInt && st.isInt then 0 else VTy.count t)) e) x (A w e)) (pA w e)) ∧
  near (.vsel h d a b q x t sb) (a :: vecB sb b) (scaB sb b) [q] .rne 0 w (fun e =>
    if govBit w (if x then ~~~(s.p q).m else (s.p q).m) e then ⟨A w e, pA w e || (s.p q).p, 0⟩ else ⟨B w e, pB w e || (s.p q).p, 0⟩) ∧
  near (.vdot h d a b t rm na nb sat sb) (d :: a :: vecB sb b) (scaB sb b) [] m (if t.isInt then 0 else 32) 32 (fun e =>
    let D := velt 32 (s.v d).bits e
    let a0 := A 16 (2 * e)
    let a1 := A 16 (2 * e + 1)
    let y := B 32 e
    let b0 := y % 2 ^ 16
    let b1 := y / 2 ^ 16
    let p := vpois 32 (s.v d) e || pA 32 e || pB 32 e
    match VTy.fmt t with
    | some F => el (eDotF F m (rnd24 (draws s h m (if t.isInt then 0 else 32)) e) na nb D a0 a1 b0 b1) p
    | none =>
      let sg (k v : Nat) : Int := if VTy.signed t then Int.bmod v (2 ^ k) else (v : Int)
      let ng (f : Bool) (u : Int) : Int := if f then -u else u
      let u := sg 32 D + ng na (sg 16 a0) * ng nb (sg 16 b0) + ng na (sg 16 a1) * ng nb (sg 16 b1)
      let lo : Int := if VTy.signed t then -2 ^ 31 else 0
      let hi : Int := if VTy.signed t then 2 ^ 31 - 1 else 2 ^ 32 - 1
      ⟨((if sat then max lo (min hi u) else u) % 2 ^ 32).toNat, p, if sat && (decide (u < lo) || decide (hi < u)) then flSAT else 0⟩)

/-- R131, R217, R220. An integer element of VADD, VSUB, VMUL and VFMA: operands negated exactly, the exact result wrapped
modulo 2^w, or clamped under .sat with SAT where it does not fit; a float element rounds once in its own format. -/
def Obligations.ArithmeticElements : Prop := ∀ (t : VTy) (m : RMode) (rnd : Nat) (na nb nc sat : Bool) (a b c : Nat),
  let w := VTy.width t
  let sg (v : Nat) : Int := if VTy.signed t then Int.bmod v (2 ^ w) else (v % 2 ^ w : Nat)
  let x := if na then -sg a else sg a
  let y := if nb then -sg b else sg b
  let k := if nc then -sg c else sg c
  let lo : Int := if VTy.signed t then -2 ^ (w - 1) else 0
  let hi : Int := if VTy.signed t then 2 ^ (w - 1) - 1 else 2 ^ w - 1
  let ints (op : ArithOp) (u : Int) : Prop :=
    (eArith op t m rnd na nb nc false a b c = ((u % 2 ^ w).toNat, 0)) ∧
    eArith op t m rnd na nb nc true a b c = ((max lo (min hi u) % 2 ^ w).toNat, if u < lo ∨ hi < u then flSAT else 0)
  (VTy.fmt t = none → ints .add (x + y) ∧ ints .sub (x - y) ∧ ints .mul (x * y) ∧ ints .fma (x * y + k)) ∧
  ∀ F, VTy.fmt t = some F →
    let u := if na then (F.decode a).negate else F.decode a
    let v := if nb then (F.decode b).negate else F.decode b
    let r := if nc then (F.decode c).negate else F.decode c
    eArith .add t m rnd na nb nc sat a b c = ((fAdd F m rnd u v).bits, (fAdd F m rnd u v).fl) ∧
    eArith .sub t m rnd na nb nc sat a b c = ((fAdd F m rnd u v.negate).bits, (fAdd F m rnd u v.negate).fl) ∧
    eArith .mul t m rnd na nb nc sat a b c = ((fMul F m .arith rnd u v).bits, (fMul F m .arith rnd u v).fl) ∧
    eArith .fma t m rnd na nb nc sat a b c = ((fFma F m rnd u v r).bits, (fFma F m rnd u v r).fl)

/-- R254, R255, R257 to R259. The near moves, scans, unpacks, scales and table conversions, element by element under the mask:
no move raises a flag; a scan's running value passes through ungoverned elements as the identity. VGET brings a lane to a
scalar under the scalar guard. VFOLD writes its scalar under every guard but G = 0b1000: the tree's value of the governed
elements, the others entering as the identity; for integers the sum, the least or the greatest of the elements extended to 64
bits. -/
def Obligations.VectorMovesAndLanes : Prop :=
  (∀ (s : State) (h : Hdr) (d a b : VNum) (t : VTy) (rm : Rm) (lane : BitVec 5) (sl : BitVec 6)
    (op : FoldOp) (sty : PackTy) (sb x : Bool),
  let A (w e : Nat) := velt w (s.v a).bits e
  let pA (w e : Nat) := vpois w (s.v a) e
  let B (w e : Nat) := if sb then (s.s b).v.toNat % 2 ^ w else velt w (s.v b).bits e
  let pB (w e : Nat) := if sb then (s.s b).p else vpois w (s.v b) e
  let near (i : Instr) (srcs : List VNum) (sc : List SReg) (m : RMode) (n w : Nat) (mask : Word) (f : Nat → Elem) : Prop :=
    Issues s h (NV (d :: srcs) sc [] []) → Plain s (d :: srcs) → s.me.cur.vregs.length < 16 →
      ∃ v fl, Elems w mask (gpois s h) (s.v d) (fun e => ((f e).bits, (f e).p)) v ∧ Raises w mask (gpois s h) f fl ∧ WritesV s h i d m n v fl
  let moves (i : Instr) (srcs : List VNum) (sc : List SReg) (w : Nat) (f : Nat → Nat × Bool) : Prop :=
    near i srcs sc .rne 0 w (gmask s h) fun e => ⟨(f e).1, (f e).2, 0⟩
  let w := VTy.width t
  let E := 1024 / w
  let m := effMode s rm
  let T (k : Nat) : TEntry := s.core.table.items.getD k ⟨0, false⟩
  moves (.vmov h d a) [a] [] 32 (fun e => (A 32 e, pA 32 e)) ∧
  moves (.vbcast h d a t) [] [a] w (fun _ => ((s.s a).v.toNat % 2 ^ w, (s.s a).p)) ∧
  moves (.vperm h d a b t sb) (a :: vecB sb b) (scaB sb b) w (fun e => (A w (B w e % E), pA w (B w e % E) || pB w e)) ∧
  moves (.vslide h d a t sl) [a] [] w (fun e =>
    if 0 ≤ (e : Int) + sl.toInt ∧ (e : Int) + sl.toInt < E then (A w ((e : Int) + sl.toInt).toNat, pA w ((e : Int) + sl.toInt).toNat)
    else (0, false)) ∧
  moves (.vidx h d x) [] [] (if x then 16 else 32) (fun e => (e, false)) ∧
  near (.vins h d a lane) [] [a] .rne 0 32 (gmask s h &&& ((1 : Word) <<< lane.toNat)) (fun _ => ⟨(s.s a).v.toNat % 2 ^ 32, (s.s a).p, 0⟩) ∧
  moves (.tdec h d a) [a] [] 32 (fun e => ((toF32 fmtF19 (T (A 8 (4 * e))).v.toNat).bits, pA 32 e || (T (A 8 (4 * e))).p)) ∧
  near (.tenc h d a) [a] [] .rne 0 32 (gmask s h) (fun e =>
    let r := tEnc s.core.table.items (A 32 e)
    ⟨r.bits, r.p || pA 32 e, r.fl⟩) ∧
  moves (.vunpk h d a sty x) [a] [] 32 (fun e =>
    let k := PackTy.width sty
    let code := A k e
    let p := (s.v a).poison.getLsbD (k * e / 32)
    let ext (k : Nat) : Nat := if x then code else (Int.bmod code (2 ^ k) % 2 ^ 32).toNat
    match sty with
    | .t8 => ((toF32 fmtF19 (T code).v.toNat).bits, p || (T code).p)
    | .i8 => (ext 8, p)
    | .i16 => (ext 16, p)
    | _ => ((fToF fmtF32 .rne .arith 0 (((PackTy.fmt sty).getD fmtF16).decode code)).bits, p)) ∧
  near (.vmxs h d a b rm x sb) (a :: vecB sb b) (scaB sb b) m 32 32 (gmask s h) (fun e =>
    let k := B 32 0 % 256
    let r : FRes := if k = 255 then nanRes fmtF32 true else
      fToF fmtF32 m (if x then .arith else .saturate) (rnd24 (draws s h m 32) e) (scaleVal (k - 127) (fmtF32.decode (A 32 e)))
    ⟨r.bits, pA 32 e || pB 32 0, r.fl⟩) ∧
  (let n := foldSteps t op
   let g (e : Nat) : Nat × Bool := if govBit w (gmask s h) e then (A w e, pA w e) else (foldId t op, false)
   let comb (i p q : Nat) : Nat × Flags :=
     match VTy.fmt t with
     | some F => let r := foldF F op m (rnd24 (draws s h m n) (i - 1)) p q; (r.bits, r.fl)
     | none => if op = .add then ((p + q) % 2 ^ w, 0) else eMinMax t (decide (op = .max)) p q
   ∃ acc : Nat → Elem, acc 0 = ⟨(g 0).1, (g 0).2, 0⟩ ∧
     (∀ e, acc (e + 1) = ⟨(comb (e + 1) (acc e).bits (g (e + 1)).1).1, (acc e).p || (g (e + 1)).2,
       (comb (e + 1) (acc e).bits (g (e + 1)).1).2⟩) ∧
     near (.vscan h d a t rm op) [a] [] m n w (gmask s h) acc)) ∧
  ∀ (s : State) (h : Hdr) (d : SReg) (a : VNum) (lane : BitVec 5) (x : Bool) (t : VTy) (rm : Rm)
    (op : FoldOp),
  let y : BitVec 32 := BitVec.ofNat 32 (velt 32 (s.v a).bits lane.toNat)
  let w := VTy.width t
  let m := effMode s rm
  let n := foldSteps t op
  let r := vFold t op m (draws s h m n) (gmask s h) (s.v a)
  let fl : Flags := if gpois s h then 0 else r.2
  let live := (List.range (VTy.count t)).filter (govBit w (gmask s h))
  let int (e : Nat) : Int := let c := velt w (s.v a).bits e; if VTy.signed t then Int.bmod c (2 ^ w) else (c : Int)
  (Plain s [a] → ComputesS s h (NV [a] [] [d] []) (.vget h d a lane x) d (if x then y.signExtend 64 else y.setWidth 64)
    (vpois 32 (s.v a) lane.toNat)) ∧
  (Issues s h (NV [a] [] [d] []) → Plain s [a] →
    (gnever h = true → ∃ u, exec (.vfold h d a t rm op) s = .next u ∧ Moves s u s.next ∧ OnlySlot s u) ∧
    (gnever h = false → (∀ e, fpTrap s fl = some e → exec (.vfold h d a t rm op) s = .next (takeTrap s s.ctl.cur e)) ∧
      (fpTrap s fl = none → ∃ u, exec (.vfold h d a t rm op) s = .next u ∧ Went s u s.next ∧ SetsS s u d r.1.v (r.1.p || gpois s h) ∧
        SameP s u ∧ SameK s u ∧ SameV s u ∧ u.me.regs.fpflags = s.me.regs.fpflags ||| fl ∧ u.me.regs.seed = seedThen s h m n ∧
        OnlySlot s u))) ∧
  r.1.p = live.any (vpois w (s.v a)) ∧
  (VTy.fmt t = none → r.2 = 0 ∧
    (op = .add → r.1.v = BitVec.ofInt 64 ((live.map int).foldl (· + ·) 0)) ∧
    (op = .min → live ≠ [] → ∃ e, e ∈ live ∧ r.1.v = BitVec.ofInt 64 (int e) ∧ ∀ k, k ∈ live → int e ≤ int k) ∧
    (op = .max → live ≠ [] → ∃ e, e ∈ live ∧ r.1.v = BitVec.ofInt 64 (int e) ∧ ∀ k, k ∈ live → int k ≤ int e))


/-- R54, R200, R211, R212, R214, R218, R223. VDIV and VXF owe their vector and its flags while no FP trap is enabled, launch and
hold their thread until it has come where one is, are near and keep the old vector where their guard governs nothing, and raise Poison Consumed under a
poisoned guard. VCMP writes its condition to one predicate and the complement to the other, one bit per element (per two bytes
for byte types), where governed; other bits of its range are old, bits above it zero. -/
def Obligations.VectorFarAndCompare : Prop :=
  (∀ (s : State) (h : Hdr) (d a b : VNum) (t : VTy) (rm : Rm) (fn : Fun) (sb : Bool),
  let m := effMode s rm
  let w := VTy.width t
  let n := stepsOf t
  let F := (VTy.fmt t).getD fmtF32
  let A (e : Nat) := velt w (s.v a).bits e
  let B (e : Nat) := if sb then (s.s b).v.toNat % 2 ^ w else velt w (s.v b).bits e
  let pB (e : Nat) := if sb then (s.s b).p else vpois w (s.v b) e
  let R (e : Nat) : Nat := rnd24 (draws s h m n) e
  let far (i : Instr) (srcs : List VNum) (sc : List SReg) (f : Nat → Elem) : Prop :=
    Issues s h { NV (d :: srcs) sc [] [] with far := .vec w (some d) } → Plain s (d :: srcs) → s.me.cur.vregs.length < 16 →
      (gpois s h = true → exec i s = .next (takeTrap s s.ctl.cur ⟨cPoison, 0, 0⟩)) ∧
      (gpois s h = false → gany s h w = false → ∃ u, exec i s = .next u ∧
        Vectored s u 0 (seedThen s h m n) ∧ SetsV s u d ⟨s.v d, s.me.seq⟩ ∧ u.me.far = s.me.far) ∧
      (gpois s h = false → gany s h w = true → ∃ v fl, Elems w (gmask s h) false (s.v d) (fun e => ((f e).bits, (f e).p)) v ∧
        Raises w (gmask s h) false f fl ∧
        (anyEnable s = false → ∃ u, exec i s = .next u ∧ OwesV s u d (.vec v) fl true (seedThen s h m n)) ∧
        (anyEnable s = true → s.ctl.came = false → ∃ u, exec i s = .next u ∧ u.me.await = some (i, s.ctl.curN) ∧ u.me.park = some .value ∧
          u.me.pc = s.me.pc ∧ SameRegs s u ∧ OnlySlot s u ∧
          u.me.far = s.me.far ++ [⟨s.me.seq, s.me.inc, .none, some .discard, 0, false, s.me.cur.no, false, true⟩]) ∧
        (anyEnable s = true → s.ctl.came = true → WritesV s h i d m n v fl))
  far (.vdiv h d a b t rm sb) (a :: vecB sb b) (scaB sb b)
    (fun e => let r := fDiv F m (R e) (F.decode (A e)) (F.decode (B e)); ⟨r.bits, vpois w (s.v a) e || pB e, r.fl⟩) ∧
  far (.vxf h d a t rm fn) [a] [] (fun e => let r := fXf F fn m (R e) (A e); ⟨r.bits, vpois w (s.v a) e, r.fl⟩)) ∧
  ∀ (s : State) (h : Hdr) (d c : PReg) (a b : VNum) (t : VTy) (cd : Cond) (sb : Bool),
  let w := VTy.width t
  let n := if w = 32 then 32 else 64
  let at_ (j : Nat) : Nat := if w = 8 then 2 * j else j
  let A (e : Nat) := velt w (s.v a).bits e
  let B (e : Nat) := if sb then (s.s b).v.toNat % 2 ^ w else velt w (s.v b).bits e
  let po (e : Nat) : Bool := vpois w (s.v a) e || if sb then (s.s b).p else vpois w (s.v b) e
  let int (v : Nat) : Int := if VTy.signed t then Int.bmod v (2 ^ w) else (v : Int)
  let res (e : Nat) : Bool × Flags := match VTy.fmt t with
    | some F => fCond cd (F.decode (A e)) (F.decode (B e))
    | none => (iCond cd (int (A e)) (int (B e)), 0)
  let live := (List.range n).filter fun j => (gmask s h).getLsbD j
  let p := live.any fun j => po (at_ j)
  let all := decide (live.length = n)
  let sets (u : State) (q : PReg) (neg : Bool) : Prop :=
    HasBits (u.p q).m (fun j => if n ≤ j then false else if (gmask s h).getLsbD j then (res (at_ j)).1 ^^ neg else (s.p q).m.getLsbD j) ∧
    (u.p q).p = (p || gpois s h || ((s.p q).p && !all))
  Issues s h ⟨scaB sb b, [], a :: vecB sb b, [], [d, c], false, false, .near⟩ → Plain s (a :: vecB sb b) → c ≠ d →
    ∃ fl : Flags, (∀ k, k < 6 → (fl.getLsbD k = true ↔
        gpois s h = false ∧ ∃ j, j ∈ live ∧ po (at_ j) = false ∧ (res (at_ j)).2.getLsbD k = true)) ∧
      (∀ e, fpTrap s fl = some e → exec (.vcmp h d c a b t cd sb) s = .next (takeTrap s s.ctl.cur e)) ∧
      (fpTrap s fl = none → ∃ u, exec (.vcmp h d c a b t cd sb) s = .next u ∧ Went s u s.next ∧ SameS s u ∧ SameK s u ∧ SameV s u ∧ SameCtl s u ∧
        OnlySlot s u ∧ u.me.regs.fpflags = s.me.regs.fpflags ||| fl ∧ (d ≠ 0 → sets u d false) ∧ (c ≠ 0 → sets u c true) ∧
        ∀ q, q ≠ d → q ≠ c → u.p q = s.p q)


/-- R145, R256. VPACK under any guard but G = 0b1000 writes D whole: element e from lane e, the code of +0 where ungoverned (zero
but for T8, whose code of it is TEnc's), zero above the packed elements; for E2M1 it also writes the block's scale to lane 0 of B. -/
def Obligations.VectorPack : Prop := ∀ (s : State) (h : Hdr) (d a b : VNum) (dt : PackTy) (rm : Rm) (nar : Bool),
  let w := PackTy.width dt
  let m := effMode s rm
  let n := if PackTy.rounds dt then 32 else 0
  let g := gmask s h
  let L (e : Nat) := velt 32 (s.v a).bits e
  let int (e : Nat) : Int := Int.bmod (L e) (2 ^ 32)
  let clamp (k : Nat) (e : Nat) : Nat := ((if nar then max (-2 ^ (k - 1)) (min (2 ^ (k - 1) - 1) (int e)) else int e) % 2 ^ k).toNat
  let sc := mxScale 2 (((List.range 32).filter (govBit 32 g)).map fun e => fmtF32.decode (L e))
  let code (e : Nat) : Nat :=
    match dt with
    | .t8 => (tEnc s.core.table.items (L e)).bits
    | .i8 => clamp 8 e
    | .i16 => clamp 16 e
    | .e2m1 => if sc.2 then 0 else
      (fToF fmtE2M1 m (if nar then .arith else .saturate) (rnd24 (draws s h m n) e) (scaleVal (127 - (sc.1 : Int)) (fmtF32.decode (L e)))).bits
    | _ => (fToF ((PackTy.fmt dt).getD fmtF16) m (if nar then .arith else .saturate) (rnd24 (draws s h m n) e) (fmtF32.decode (L e))).bits
  let off : Elem := if dt = .t8 then tEnc s.core.table.items 0 else ⟨0, false, 0⟩
  let p (e : Nat) : Bool := if govBit 32 g e then vpois 32 (s.v a) e || (decide (dt = .t8) && (tEnc s.core.table.items (L e)).p) else off.p
  Issues s h (NV (d :: a :: (if dt = .e2m1 then [b] else [])) [] [] []) → Plain s [d, a, b] → s.me.cur.vregs.length < 15 → gnever h = false →
    b ≠ d →
    ∃ (v : VVal) (fl : Flags),
      (∀ e, e < 1024 / w → velt w v.bits e = if e < 32 then (if govBit 32 g e then code e else off.bits) % 2 ^ w else 0) ∧
      (∀ l, l < 32 → (v.poison.getLsbD l = true ↔ gpois s h = true ∨ ∃ e, e < 32 ∧ w * e / 32 = l ∧ p e = true)) ∧
      (∀ e, fpTrap s fl = some e → exec (.vpack h d a b dt rm nar) s = .next (takeTrap s s.ctl.cur e)) ∧
      (fpTrap s fl = none → ∃ u, exec (.vpack h d a b dt rm nar) s = .next u ∧
        (dt ≠ .e2m1 → Vectored s u fl (seedThen s h m n) ∧ SetsV s u d ⟨v, s.me.seq⟩) ∧
        (dt = .e2m1 → ∃ y, Vectored s u fl (seedThen s h m n) ∧
          (∀ r, u.vreg s.ctl.cur r = if r = b then ⟨y, s.me.seq⟩ else if r = d then ⟨v, s.me.seq⟩ else s.vreg s.ctl.cur r) ∧
          velt 32 y.bits 0 = sc.1 ∧ (∀ l, 0 < l → l < 32 → velt 32 y.bits l = velt 32 (s.v b).bits l) ∧
          (y.poison.getLsbD 0 = true ↔ gpois s h = true ∨ ∃ e, e < 32 ∧ govBit 32 g e = true ∧ vpois 32 (s.v a) e = true)))

/-- R57, R266, R268. A vector name bound to a `.pop` stream with an element in hand gives that element to the packet that
reads it, which moves the stream on and notes the element for its chunk; a name bound to a `.push` stream with room takes a
result, ungoverned lanes zero, and reserves its place in the ring. -/
def Obligations.StreamElements : Prop := ∀ (s : State) (h : Hdr) (d a : VNum) (k : Fin 4) (r : RingN) (x : VVal) (e g : Bool)
    (y : Option (BitVec 8 × Word)) (rest : List (VVal × Bool × Bool × Option (BitVec 8 × Word))),
  let bd := s.me.binds.get k
  let n : Names := NV [d, a] [] [] []
  Issues s h n → s.ctl.taken = [] → s.me.cur.vregs.length < 16 → gpois s h = false → gnever h = false → d ≠ a → bd.desc = none →
    badWindow s r = false →
    (bindIdx s a = some k → bd.kind = .pop r → bd.buf = (x, e, g, y) :: rest →
      elemBad s s.ctl.cur (getRing s r) ((getRing s r).head.toNat + (getRing s r).resvPop - bd.buf.length) 128 [permR] = none → (∀ j, bindIdx s d = some j → (s.binding j).kind = .unbound) →
      ∃ u v, exec (.vmov h d a) s = .next u ∧ Vectored s u 0 s.me.regs.seed ∧ SetsV s u d ⟨v, s.me.seq⟩ ∧
        Elems 32 (gmask s h) false (s.v d) (fun l => (velt 32 x.bits l, vpois 32 x l)) v ∧
        u.me.binds.get k = { bd with pos := bd.pos + 1, buf := rest } ∧ (∀ j, j ≠ k → u.me.binds.get j = s.me.binds.get j) ∧
        u.me.cur.taken = (k, x, e, g) :: s.me.cur.taken) ∧
    (bindIdx s d = some k → bd.kind = .push r → (getRing s r).room ≠ 0 →
      elemBad s s.ctl.cur (getRing s r) ((getRing s r).tail.toNat + (getRing s r).resvPush) 128 [permW] = none → (∀ j, bindIdx s a = some j → (s.binding j).kind = .unbound) →
      ∃ u v, exec (.vmov h d a) s = .next u ∧ Went s u s.next ∧ SameRegs s u ∧ u.core = s.core ∧
        Elems 32 (gmask s h) false ⟨0, 0⟩ (fun l => (velt 32 (s.v a).bits l, vpois 32 (s.v a) l)) v ∧
        u.me.binds.get k = { bd with pos := bd.pos + 1 } ∧ u.me.cur.pushed = s.me.cur.pushed ++ [(k, v, false)] ∧
        getRing u r = { getRing s r with resvPush := (getRing s r).resvPush + 1 } ∧ SameMem s.mem u.mem)

/-! Rings, streams, the matrix unit (R167, R261 to R275). -/

/-- R52, R57, R167, R266, R267. JTAB whose index is not below its length reads nothing and goes on at Next; else it launches,
holding its thread, and goes on, once the value has come, at the 64-bit entry of its table in k0, which the chunk has then read; a misaligned entry and a poisoned operand or entry trap.
BIND of a free vector name to a free vector ring without a descriptor, or to what a sound descriptor in memory says, binds it
at element 0; UNBIND returns the name to its register and the ring to no stream. A name that can hold no stream is illegal, for
v0 to v27 whatever the guard. -/
def Obligations.TableJumpsAndStreams : Prop :=
  (∀ (s : State) (h : Hdr) (a b : SReg) (x : BitVec 12) (as : List Nat),
  let ix := (s.s a).v
  let ea := (s.s b).v + ix * 8
  let m := viewMem s s.ctl.cur
  Acts s h (NF [a, b]) →
    ((s.s a).p = true ∨ (s.s b).p = true → exec (.jtab h a b x) s = .next (takeTrap s s.ctl.cur ⟨cPoison, 0, 0⟩)) ∧
    ((s.s a).p = false → (s.s b).p = false →
      (x.toNat ≤ ix.toNat → ∃ u, exec (.jtab h a b x) s = .next u ∧ Moves s u s.next ∧ OnlySlot s u ∧ KeptThread s u) ∧
      (ix.toNat < x.toNat → ea.toNat % 8 ≠ 0 →
        exec (.jtab h a b x) s = .next (takeTrap s s.ctl.cur ⟨cMisaligned, ea, (s.k 0).setWidth 64⟩)) ∧
      (ix.toNat < x.toNat → ea.toNat % 8 = 0 → access s (s.k 0) ea 8 [permR] true false none = .ok as →
        (s.ctl.came = false → ∃ u, exec (.jtab h a b x) s = .next u ∧ u.me.await = some (.jtab h a b x, s.ctl.curN) ∧ u.me.park = some .value ∧
          u.me.pc = s.me.pc ∧ SameRegs s u ∧ OnlySlot s u ∧
          ∃ e, u.me.far = s.me.far ++ [e] ∧ e.dest = .none ∧ e.value = some .discard) ∧
        (s.ctl.came = true → as.any m.pois = true →
          exec (.jtab h a b x) s = .next (takeTrap s s.ctl.cur ⟨cPoison, ea, (s.k 0).setWidth 64⟩)) ∧
        (s.ctl.came = true → as.any m.pois = false → overLimit (loadPlain s as (vaOf (s.k 0) ea)).2.me.cur = false →
          ∃ u, exec (.jtab h a b x) s = .next u ∧ Moves s u (BitVec.ofNat 64 (leNat (as.map m.byte))) ∧ OnlySlot s u ∧ KeptThread s u)))) ∧
  ∀ (s : State) (h : Hdr) (d a : VNum) (mode : BindMode) (k : KReg) (i : Fin 4) (as : List Nat),
  let n : Names := { Names.empty with vec := [d], noGuest := true, far := .scalar }
  let nd : Names := { NF [a] with vec := [d], noGuest := true }
  let others (u : State) : Prop := ∀ j, j ≠ i → u.me.binds.get j = s.me.binds.get j
  let ringFree (r : RingN) : Prop :=
    (getRing s r).defd = true ∧ (getRing s r).kind = 1 ∧ (if mode = .pop then (getRing s r).popb else (getRing s r).pushb) = false ∧
      (getRing s r).pendDef = none
  let kindOf (r : RingN) : BindKind := if mode = .pop then .pop r else .push r
  let mark (u : State) (r : RingN) : Prop :=
    getRing u r = (if mode = .pop then { getRing s r with popb := true } else { getRing s r with pushb := true }) ∧
      ∀ q, q ≠ r → getRing u q = getRing s q
  (Issues s h n → d.toNat < 28 → exec (.bind h d a mode false k) s = .next (takeTrap s s.ctl.cur ⟨0x01, 0, 0⟩) ∧
    exec (.unbind h d) s = .next (takeTrap s s.ctl.cur ⟨0x01, 0, 0⟩)) ∧
  (Acts s h n → (∀ dsc, bindIdx s d = none → dsc = false → exec (.bind h d a mode dsc k) s = .next (takeTrap s s.ctl.cur ⟨0x01, 0, 0⟩)) ∧
    (Calm s → bindIdx s d = some i → ringMode mode = true → (s.binding i).kind = .unbound → ringFree a →
      ∃ u, exec (.bind h d a mode false k) s = .next u ∧ Moves s u s.next ∧ SameMem s.mem u.mem ∧ u.core = s.core ∧ others u ∧ mark u a ∧
        u.me.binds.get i = ⟨kindOf a, none, [], [], 0, []⟩) ∧
    (Calm s → bindIdx s d = some i → 28 ≤ d.toNat →
      ∃ u, exec (.unbind h d) s = .next u ∧ Moves s u s.next ∧ SameMem s.mem u.mem ∧ u.core = s.core ∧ others u ∧ u.me.binds.get i = .idle ∧
        (∀ r, (s.binding i).kind = .pop r → (getRing u r).popb = false ∧ ∀ q, q ≠ r → getRing u q = getRing s q) ∧
        (∀ r, (s.binding i).kind = .push r → (getRing u r).pushb = false ∧ ∀ q, q ≠ r → getRing u q = getRing s q))) ∧
  (Acts s h nd → Calm s → bindIdx s d = some i → (s.binding i).kind = .unbound → (s.s a).p = false → (s.s a).v.toNat % 64 = 0 →
    translated s (s.k k) (s.s a).v 64 [permR] none = .ok as → breakAt s (s.k k) (s.s a).v 64 true false none = none →
    let y := readBind (viewMem s s.ctl.cur) as
    let r : RingN := BitVec.ofNat 5 y.ring
    descBad y (!ringMode mode) = false → (ringMode mode = true → ringFree r) →
      ∃ u, exec (.bind h d a mode true k) s = .next u ∧ Moves s u s.next ∧ SameMem s.mem u.mem ∧ u.core = s.core ∧ others u ∧
        u.me.binds.get i = ⟨if mode = .rd then .rd y.reach y.base else if mode = .wr then .wr y.reach y.base else kindOf r,
          some ((s.s a).v, s.k k), y.used, y.usedSteps, 0, []⟩ ∧ (ringMode mode = true → mark u r))

/-- R261, R263 to R265, R275. RPUSH reserves a place and RPOP an element, and their thread goes on; at its chunk's commit the push
writes its word, or its vector as sixteen words, into the slot of TAIL and moves TAIL on, the pop takes the element at HEAD and
moves HEAD on, and its value reaches the register it is owed to, a vector governed lane by lane. A ring undefined, bound or
of another kind raises Ring Fault. RDEF of good operands defines an empty ring at once where nothing is reserved, and stands
pending where something is; RSTAT owes the ring's status word, zero for a ring not defined; RQUERY owes what the map says of
its address. -/
def Obligations.RingsAndRanges : Prop :=
  (∀ (s : State) (h : Hdr) (r : RingN) (a d : VNum),
  let g := getRing s r
  let NG (n : Names) : Names := { n with noGuest := true }
  let k := g.slotOf g.tail.toNat
  let others (u : State) : Prop := ∀ q, q ≠ r → getRing u q = getRing s q
  let accepted (i : Instr) (g2 : Ring) (a : ChunkAct) (far : List FarEntry) : Prop := ∃ u c, exec i s = .next u ∧ Moves s u s.next ∧ others u ∧
    getRing u r = g2 ∧ SameMem s.mem u.mem ∧ u.core = s.core ∧ u.me.ended = [c] ∧ c.no = s.me.cur.no ∧ c.act = some a ∧ u.me.far = s.me.far ++ far
  let sound (kind : BitVec 2) (bound : Bool) : Prop := g.defd = true ∧ g.kind = kind ∧ bound = false ∧ badWindow s r = false
  let pushable (n : Nat) : Prop := g.room ≠ 0 ∧ elemBad s s.ctl.cur g (g.tail.toNat + g.resvPush) n [permW] = none
  let poppable (n : Nat) : Prop := g.avail ≠ 0 ∧ elemBad s s.ctl.cur g (g.head.toNat + g.resvPop) n [permR] = none
  let vec (n : Names) (vs : List VNum) : Prop := Issues s h (NG n) ∧ gpois s h = false ∧ gany s h 32 = true ∧ Plain s vs
  let more := { g with resvPush := g.resvPush + 1 }
  let fewer := { g with resvPop := g.resvPop + 1 }
  (g.pendDef = none → Calm s →
    (Acts s h (NG (NF [a])) → sound 0 g.pushb → pushable 8 →
      accepted (.rpush h r a false) more (.push r [(leBytes 8 (s.s a).v.toNat, (s.s a).p)]) []) ∧
    (vec { NV [a] [] [] [] with far := .vec 32 none } [a] → sound 1 g.pushb → pushable 128 →
      accepted (.rpush h r a true) more (.push r (vecWords (s.v a))) []) ∧
    (Acts s h (NG ⟨[], [d], [], [], [], false, false, .scalar⟩) → sound 0 g.popb → poppable 8 →
      accepted (.rpop h d r false) fewer (.pop r s.ref none)
        [⟨s.me.seq, s.me.inc, .scalar d, none, 0, false, s.me.cur.no, false, false⟩]) ∧
    (vec { NV [d] [] [] [] with far := .vec 32 (some d) } [d] → sound 1 g.popb → poppable 128 →
      accepted (.rpop h d r true) fewer (.pop r s.ref (some (gmask s h, s.v d)))
        [⟨s.me.seq, s.me.inc, .vec d, none, 0, false, s.me.cur.no, false, false⟩]) ∧
    (Acts s h (NG (NF [a])) → (g.defd = false ∨ g.kind ≠ 0 ∨ g.pushb = true) →
      exec (.rpush h r a false) s = .next (takeTrap s s.ctl.cur ⟨cRing, r.setWidth 64, 0⟩))) ∧
  ∀ (c : Chunk) (ws : List (List Byte × Bool)) (ref : FarRef) (m : Word) (old : VVal),
    let top := elemAddrs s g g.head.toNat 8
    let x := readVec s g g.head.toNat
    let pops (u : State) (v : FarVal) : Prop := others u ∧ getRing u r = { g with head := g.head + 1, resvPop := g.resvPop - 1 } ∧
      SameMem s.mem u.mem ∧ ((s.slot ref.slot).occ = true → (∃ e, e ∈ (s.th ref.slot).far ∧ e.seq = ref.seq ∧ e.inc = ref.inc) →
        (u.th ref.slot).far = (fillFar (s.th ref.slot) ref.seq ref.inc v).far)
    (c.act = some (.push r ws) → ∃ u, commitAct s c = (u, []) ∧ others u ∧ SameMem (storeElem s (g.off g.tail.toNat) 0 ws s.mem) u.mem ∧
      getRing u r = { g with tail := g.tail + 1, resvPush := g.resvPush - 1, ends := setDel g.ends k, engs := setDel g.engs k }) ∧
    (c.act = some (.pop r ref none) → ∃ u, commitAct s c = (u, if s.mem.gatherP top then [.loaded] else []) ∧
      pops u (.scalar ⟨BitVec.ofNat 64 (leNat (s.mem.gather top)), s.mem.gatherP top⟩ none)) ∧
    (c.act = some (.pop r ref (some (m, old))) → ∃ u us v, commitAct s c = (u, us) ∧ pops u (.vec v) ∧
      Elems 32 m false old (fun e => (velt 32 x.bits e, vpois 32 x e)) v)) ∧
  ∀ (s : State) (h : Hdr) (r : RingN) (a b d : SReg) (k : KReg) (x : RangeDesc) (p w : Nat),
  let g := getRing s r
  let A := (s.s a).v
  let B := (s.s b).v
  let owes (u : State) (v : Word) : Prop :=
    u.me.far = s.me.far ++ [⟨s.me.seq, s.me.inc, .scalar d, some (.scalar ⟨v, false⟩ none), 0, false, s.me.cur.no, false, false⟩]
  let bits (v : Word) (lo n x : Nat) : Prop := (v.extractLsb' lo n).toNat = x
  (Acts s h { NF [a, b] with noGuest := true } → Calm s → (s.s a).p = false → (s.s b).p = false → rdefBad s r A B = false →
    ∃ u, exec (.rdef h r a b) s = .next u ∧ Moves s u s.next ∧ SameMem s.mem u.mem ∧ u.core = s.core ∧
      (∀ q, q ≠ r → getRing u q = getRing s q) ∧
      getRing u r = if g.resvPush = 0 ∧ g.resvPop = 0 then
        ⟨true, A.extractLsb' 20 3, (A.extractLsb' 0 19).toNat, B.extractLsb' 0 2, B.extractLsb' 8 4,
          strideOf (fmtOf s (A.extractLsb' 20 3).toNat) (B.extractLsb' 0 2).toNat, 0, 0, 0, 0, false, false, false, [], [], none⟩
      else { g with pendDef := some (A, B) }) ∧
  (Acts s h ⟨[], [d], [], [], [], true, false, .scalar⟩ → Calm s →
    ∃ u v, exec (.rstat h d r) s = .next u ∧ Moves s u s.next ∧ OnlySlot s u ∧ owes u v ∧ (g.defd = false → v = 0) ∧
      (g.defd = true → g.occ < 2 ^ 13 → bits v 0 13 g.occ ∧ bits v 13 1 1 ∧ bits v 14 1 g.popb.toNat ∧ bits v 15 1 g.pushb.toNat ∧
        bits v 16 2 g.kind.toNat ∧ bits v 18 4 g.log2n.toNat ∧ bits v 22 3 g.win.toNat ∧ bits v 25 1 g.broken.toNat ∧ bits v 26 6 0 ∧
        bits v 32 32 g.head.toNat)) ∧
  (Acts s h { N1 d a with noGuest := true, far := .scalar } → (s.s a).p = false →
    (s.k k = localReach → padOff A = some (p, w) → ∃ u v, exec (.rquery h d a k) s = .next u ∧ Moves s u s.next ∧ OnlySlot s u ∧ owes u v ∧
      bits v 0 1 1 ∧ bits v 6 2 0 ∧ bits v 8 1 1 ∧ bits v 16 48 (padSize - p) ∧
      (spanAt s p = none → inBedroll s p = false → bits v 1 5 0x1B)) ∧
    (s.k k ≠ localReach → rcFind s.core.rcache s.me.space (vaOf (s.k k) A) = some x → ∃ u v, exec (.rquery h d a k) s = .next u ∧
      Moves s u s.next ∧ OnlySlot s u ∧ owes u v ∧ bits v 0 1 1 ∧ bits v 1 5 (x.perm.toNat % 32) ∧ bits v 6 1 x.sync.toNat ∧
      bits v 7 1 x.stashOk.toNat ∧ bits v 8 1 (if vaOf (s.k k) A < x.wmark then 1 else 0) ∧
      bits v 16 48 (min (x.wmark - vaOf (s.k k) A) (2 ^ 48 - 1))) ∧
    (s.k k ≠ localReach → rcFind s.core.rcache s.me.space (vaOf (s.k k) A) = none → s.me.miss = some (vaOf (s.k k) A) →
      ∃ u, exec (.rquery h d a k) s = .next u ∧ Moves s u s.next ∧ OnlySlot s u ∧ owes u 0))


/-- R262, R269, R271, R272. MMA, MZERO, MFILL and MDRAIN, their causes passed and an entry free, stand last in the matrix queue with
the operands they had when they retired, until their chunk has committed; the thread goes on; MDRAIN owes a token. No tile and no
byte has changed yet. -/
def Obligations.MatrixCommands : Prop := ∀ (s : State) (h : Hdr) (d : TileN) (a b : RingN) (n : BitVec 6) (r c : SReg) (k : KReg),
  let NG (n : Names) : Names := { n with noGuest := true, far := .scalar }
  let ref : WordRef := ⟨s.me.space, s.k k, (s.s r).v⟩
  let queued (i : Instr) (op : MOp) (fs : List FarEntry) : Prop := ∃ u c hd tl, exec i s = .next u ∧ Moves s u s.next ∧
    SameMem s.mem u.mem ∧ u.cl = s.cl ∧ u.part = s.part ∧ u.pkg = s.pkg ∧ u.agenda = s.agenda ∧ (∀ j, j ≠ s.ctl.cur → u.slot j = s.slot j) ∧
    u.core = { s.core with mq := s.core.mq ++ [⟨op, s.ctl.cur, .slot s.ctl.cur, hd, tl, false, s.me.pc, some s.me.cur.no⟩] } ∧
    u.me.far = s.me.far ++ fs ∧ u.me.ended = s.me.ended ++ [c] ∧ c.no = s.me.cur.no
  s.me.reg.isOpen = false → s.core.mq.length < 8 →
    (Acts s h (NG .empty) → queued (.mzero h d) (.mzero d) [] ∧
      (tileRingBad s a = false → tileRingBad s b = false → a ≠ b → tilesBad s a (n.toNat + 1) = none → tilesBad s b (n.toNat + 1) = none →
        queued (.mma h d a b n) (.mma d a b (n.toNat + 1) 0) [])) ∧
    (Acts s h (NG (NS [r])) → causes (tileChecks s r (s.k k) [permR] false) = none → queued (.mfill h d r k) (.mfill d ref) []) ∧
    (Acts s h (NG { NS [r] with dst := [c] }) → causes (tileChecks s r (s.k k) [permW] true) = none →
      queued (.mdrain h d r c k) (.mdrain d ref s.ref) [⟨s.me.seq, s.me.inc, .scalar c, none, 0, true, s.me.cur.no, false, false⟩])

/-! The ranger (R117, R118, R304, R313 to R341). -/

/-- R117, R118. Every privileged instruction outside slot 15 raises Privileged, whatever its guard, and does nothing else. -/
def Obligations.PrivilegedOutsideTheRanger : Prop := ∀ (s : State) (h : Hdr) (d a b : SReg) (x : BitVec 12) (i : Instr),
  i ∈ [.rett h, .idle h, .ctxsave h d a b, .ctxload h d a b, .rload h d a b, .rinval h d a b, .rsplit h d a b, .rmerge h d a b,
    .rgrow h d a b, .rcompact h d a b, .resume h a, .killt h a, .dbghalt h a, .wakef h a, .credsync h a, .getpr h d x, .setpr h a x] →
  s.ctl.cur ≠ 15 → exec i s = .next (takeTrap s s.ctl.cur ⟨0x04, 0, 0⟩)

/-- R304, R313, R321, R329, R330. GETPR in slot 15 writes the register it names, as the table lays it out; a number that names
none is illegal. (How far the clock has moved at a read of IRQPEND is free, log 3.) SETPR in slot 15 writes the fields that
can be written of the register it names and leaves every other privileged register; a poisoned source raises Poison Consumed,
a number that names none Illegal Instruction. -/
def Obligations.PrivilegedRegisters : Prop :=
  (∀ (s : State) (h : Hdr) (d : SReg) (x : BitVec 12),
  let n : Names := ⟨[], [d], [], [], [], false, false, .near⟩
  let p := s.core.priv
  let mask (f : SlotN → Bool) (v : Word) (lo : Nat) : Prop := ∀ k, k < 16 → v.getLsbD (lo + k) = if h : k < 15 then f ⟨k, by omega⟩ else false
  s.ctl.cur = 15 → Acts s h n →
    (isPriv x = false → exec (.getpr h d x) s = .next (takeTrap s s.ctl.cur ⟨0x01, 0, 0⟩)) ∧
    (isPriv x = true → x ≠ 0x10A → x ≠ 0x103 → ∃ t v, exec (.getpr h d x) s = .next t ∧ WritesS s t s.next d v false ∧
      (x = 0x100 → v = p.cause.setWidth 64) ∧ (x = 0x101 → v = p.pc) ∧ (x = 0x102 → v = p.tsel.setWidth 64) ∧ (x = 0x104 → v = p.info) ∧
      (x = 0x105 → v = p.fromPc) ∧ (x = 0x106 → v = p.aux) ∧ (x = 0x108 → v = p.vtab) ∧ (x = 0x10B → v = p.irqmask.setWidth 64) ∧
      (x = 0x10C → v = p.timercmp) ∧ (x = 0x10D → v = p.hostmsg) ∧ (x = 0x111 → v = p.spillctl) ∧ (x = 0x112 → v = p.packspill) ∧
      (x = 0x113 → p.packBlocks < 256 → (v.extractLsb' 0 8).toNat = p.packBlocks ∧ v.extractLsb' 8 8 = p.packLimit ∧ v.getLsbD 16 = p.packFrozen) ∧
      (x = 0x114 → v = if s.core.mqHalted then 1 else 0) ∧
      (x = 0x109 → v.getLsbD 0 = p.handling ∧ (s.core.events.length < 128 → (v.extractLsb' 8 7).toNat = s.core.events.length) ∧
        (s.core.events.length < 256 → mask (trapped s) v 16)) ∧
      (x = 0x110 → mask (fun i => (s.slot i).stop) v 0 ∧ mask (fun i => (s.slot i).stopped) v 16 ∧ mask (fun i => !(s.slot i).occ) v 32)) ∧
    (∀ w, tregRead s = some w → ∃ t, exec (.getpr h d 0x103) s = .next t ∧ WritesS s t s.next d w false) ∧
    (tregRead s = none → exec (.getpr h d 0x103) s = .next (takeTrap s s.ctl.cur ⟨0x01, 0, 0⟩)) ∧
    ∃ t c, exec (.getpr h d 0x10A) s = .next t ∧ Went s t s.next ∧
      SetsS s t d ((if p.timercmp.toNat ≤ (c : Word).toNat then 1 else 0) ||| (p.irqpend.setWidth 64 &&& 0x1E)) false ∧ SameP s t ∧ SameK s t ∧
      t.pkg = { s.pkg with timeb := c } ∧ t.core = s.core ∧ SameMem s.mem t.mem) ∧
  ∀ (s : State) (h : Hdr) (a : SReg) (x : BitVec 12),
  let v := (s.s a).v
  let p := s.core.priv
  let sets (x : BitVec 12) (q : Priv) : Prop := ∃ t, exec (.setpr h a x) s = .next t ∧ Moves s t s.next ∧ OnlySlot { s with core := { s.core with priv := q } } t
  s.ctl.cur = 15 → Acts s h (NS [a]) →
    ((s.s a).p = true → exec (.setpr h a x) s = .next (takeTrap s s.ctl.cur ⟨cPoison, 0, 0⟩)) ∧
    ((s.s a).p = false → isPriv x = false → exec (.setpr h a x) s = .next (takeTrap s s.ctl.cur ⟨0x01, 0, 0⟩)) ∧
    ((s.s a).p = false →
      sets 0x100 p ∧ sets 0x102 { p with tsel := v.extractLsb' 0 9 } ∧ sets 0x104 p ∧ sets 0x105 p ∧ sets 0x106 p ∧
      sets 0x108 { p with vtab := v &&& (~~~511 : Word) } ∧ sets 0x109 p ∧ sets 0x10A { p with irqpend := (p.irqpend &&& ~~~(v.extractLsb' 0 5)) ||| (if guestsStarved s then p.irqpend &&& 8 else 0) } ∧
      sets 0x10B { p with irqmask := v.extractLsb' 0 5 } ∧ sets 0x10C { p with timercmp := v } ∧ sets 0x10D p ∧
      sets 0x111 { p with spillctl := v } ∧ sets 0x112 { p with packspill := v } ∧
      (∃ t, exec (.setpr h a 0x113) s = .next t ∧ Moves s t s.next ∧
        OnlySlot { s with core := { s.core with priv := { p with packLimit := v.extractLsb' 8 8, packFrozen := p.packFrozen && !v.getLsbD 16 } },
                          agenda := s.agenda ++ if v.getLsbD 16 then [.packSpillRetry] else [] } t) ∧
      (bedrollUsed s = false → sets 0x115 { p with bedroll := v &&& 0x01FF01FF }) ∧
      (bedrollUsed s = true → exec (.setpr h a 0x115) s = .next (takeTrap s s.ctl.cur ⟨0x01, 0, 0⟩)) ∧
      (∀ i r, tregOf s = .reg i r → i ≠ 15 → ∃ t, exec (.setpr h a 0x103) s = .next t ∧ Moves s t s.next ∧
        ((t.th i).regs.s r).val = v ∧ ((t.th i).regs.s r).p = false ∧ ∀ q, q ≠ r → (t.th i).regs.s q = (s.th i).regs.s q) ∧
      (∀ i r, i = fin16 (p.cause.extractLsb' 8 4).toNat → i ≠ 15 → (s.slot i).trap = some r →
        ∃ t, exec (.setpr h a 0x101) s = .next t ∧ Moves s t s.next ∧ (t.slot i).trap = some { r with resume := v }))

/-- R316, R327, R328. RETT and IDLE with nothing to handle clear HANDLING, and IDLE parks; with work they load the item's
registers and go on at the vector's handler. -/
def Obligations.RangerReturns : Prop := ∀ (s s1 : State) (h : Hdr) (pc : Word), s.ctl.cur = 15 → Acts s h .empty → Calm s →
  (nextWork s = .none →
    (∃ t, exec (.rett h) s = .next t ∧ Moves s t s.next ∧ OnlySlot { s with core := { s.core with priv := { s.core.priv with handling := false } } } t ∧
      t.me.park = s.me.park) ∧
    ∃ t, exec (.idle h) s = .next t ∧ Moves s t s.next ∧ OnlySlot { s with core := { s.core with priv := { s.core.priv with handling := false } } } t ∧
      t.me.park = some .idle) ∧
  (nextWork s = .go s1 pc → ∀ i, i = .rett h ∨ i = .idle h → ∃ t, exec i s = .next t ∧ Moves s t pc ∧ t.core = s1.core ∧ t.core.priv.handling = true ∧
    SameMem s.mem t.mem)

/-- R45, R316, R317, R330. Taking a trap in slots 0 to 14: the record holds cause, TRAPINFO, TRAPAUX, the PC and the resume PC,
which is Next of the PITCH in an open region; the slot's incarnation moves on, it leaves rotation, a kill packet is on its way;
registers, other slots and memory stand. At the foot, no packet of the slot being in flight, the kill ends the chunk and leaves the
registers; in an open region it restores those of the region's start, and the PC; a slot that was to stop has stopped. In slot 15
the trap contains the core. A write of TRAPPC sets the resume PC of the slot that TRAPCAUSE names; a read
of it gives the faulting PC. -/
def Obligations.TakingATrap : Prop := ∀ (s : State) (i : SlotN) (x : TrapInfo),
  let t := takeTrap s i x
  let th := s.th i
  (i ≠ 15 →
    (t.slot i).trap = some ⟨x, th.pc, th.pc, if th.reg.isOpen then th.reg.next else th.pc, true⟩ ∧ (t.slot i).occ = (s.slot i).occ ∧
    (t.slot i).stopped = (s.slot i).stopped ∧ (t.th i).inc = th.inc + 1 ∧ (t.th i).park = none ∧
    (t.th i).pc = th.pc ∧ (t.th i).reg = th.reg ∧ (t.th i).space = th.space ∧ (t.th i).regs = th.regs ∧
    (∀ j, j ≠ i → t.slot j = s.slot j) ∧ SameMem s.mem t.mem ∧ t.core = s.core ∧ t.cl = s.cl ∧ t.part = s.part ∧ t.pkg = s.pkg ∧
    t.out = s.out ∧ t.agenda = s.agenda ++ [.killApply i]) ∧
  (∀ r, i ≠ 15 → (s.slot i).trap = some r → th.flight = [] →
    let u := killFoot s i
    let v := u.th i
    (u.slot i).trap = some r ∧ (u.slot i).occ = (s.slot i).occ ∧ (u.slot i).halting = false ∧
    (u.slot i).stopped = ((s.slot i).stopped || (s.slot i).halting || (s.slot i).stop) ∧ v.cur.npkts = 0 ∧
    (∀ j, j ≠ i → u.slot j = s.slot j) ∧ SameMem s.mem u.mem ∧
    (th.reg.isOpen = false → (∀ r, (v.regs.s r).val = (th.regs.s r).val ∧ (v.regs.s r).p = (th.regs.s r).p) ∧ v.pc = th.pc ∧ v.ended = th.ended ++ (if th.cur.npkts = 0 then [] else [th.cur])) ∧
    (th.reg.isOpen = true → v.pc = th.reg.next ∧ v.ended = th.ended ∧ v.reg = th.reg ∧
      ∀ r, (v.regs.s r).val = (th.cur.ckpt.s r).val)) ∧
  (i = 15 → t = { s with core := { s.core with halted := true }, agenda := s.agenda ++ [.coreContain 3] }) ∧
  ∀ (h : Hdr) (a : SReg), s.ctl.cur = 15 →
    (Acts s h ⟨[], [a], [], [], [], false, false, .near⟩ →
      ∃ u, exec (.getpr h a 0x101) s = .next u ∧ WritesS s u s.next a s.core.priv.pc false) ∧
    (∀ r, Acts s h (NS [a]) → (s.s a).p = false → i = fin16 (s.core.priv.cause.extractLsb' 8 4).toNat → i ≠ 15 → (s.slot i).trap = some r →
      ∃ u, exec (.setpr h a 0x101) s = .next u ∧ (u.slot i).trap = some { r with resume := (s.s a).v } ∧ u.core.priv.pc = s.core.priv.pc)

/-- R331, R332, R339 to R341. RESUME hands its operand to the core it names; KILLT of a stopped thread that has drained frees
its slot; WAKEF ends the parks that it names and no other, and has a JOIN look at its word again; DBGHALT halts the core, or the cluster; CREDSYNC with a core toward
which nothing is held does nothing, else it sends both counts and waits. -/
def Obligations.RangerCommands : Prop := ∀ (s : State) (h : Hdr) (a : SReg) (i : SlotN), s.ctl.cur = 15 → (s.s a).p = false →
  let v := (s.s a).v
  (Acts s h (NF [a]) → Calm s → v.toNat < 2 ^ 18 → inPartition s (v.extractLsb' 0 14) = true →
    ∃ t, exec (.resume h a) s = .next t ∧ Moves s t s.next ∧ SameMem s.mem t.mem ∧ t.core = s.core ∧
      (v.extractLsb' 0 14 = s.core.id → t.agenda = s.agenda ++ [.resumeCommand (v.extractLsb' 0 18)] ∧ t.out = s.out) ∧
      (v.extractLsb' 0 14 ≠ s.core.id → t.out = s.out ++ [.resume (v.extractLsb' 0 14) (v.extractLsb' 0 18)] ∧ t.agenda = s.agenda)) ∧
  (Acts s h (NF [a]) → Calm s → v.toNat = i.val → i ≠ 15 → (s.slot i).occ = true → (s.slot i).stopped = true → drained s i = true →
    ∃ t, exec (.killt h a) s = .next t ∧ Went s t s.next ∧ (t.slot i).occ = false ∧ ∀ j, j ≠ i → (t.slot j).occ = (s.slot j).occ) ∧
  (Acts s h (NS [a]) → v.toNat = i.val → i ≠ 15 → ∃ t, exec (.wakef h a) s = .next t ∧ Moves s t s.next ∧ SameMem s.mem t.mem ∧ t.core = s.core ∧
    (∀ p, (s.th i).park = some p → (∀ r n, p ≠ .join r n) → (t.th i).park = if wakefEnds p then none else some p) ∧ ((s.th i).park = none → (t.th i).park = none) ∧
    (∀ r n y, (s.th i).park = some (.join r n) → homeOf s r = .at_ y →
      (t.th i).park = if s.mem.nat y 8 % 2 ^ 32 = 0 then none else some (.join r n)) ∧
    ∀ j, j ≠ i → j ≠ 15 → t.slot j = s.slot j) ∧
  (Acts s h (NS [a]) → Calm s → v.toNat < 2 → ∃ t, exec (.dbghalt h a) s = .next t ∧ t.core.halted = true ∧ t.me.pc = s.next ∧ SameMem s.mem t.mem ∧
    (v.toNat = 1 → t.cl.dbg.halted = true ∧ t.out = s.out ++ [.halt s.core.id])) ∧
  (Acts s h (NF [a]) → Calm s → v.toNat < 2 ^ 14 →
    let c := v.extractLsb' 0 14
    (creditState s c = false → ∃ t, exec (.credsync h a) s = .next t ∧ Moves s t s.next ∧ OnlySlot s t) ∧
    (creditState s c = true → c ≠ s.core.id → ∃ t, exec (.credsync h a) s = .next t ∧ Moves s t s.next ∧ t.me.park = some .command ∧
      t.core = { s.core with credSync := some c } ∧
      t.out = s.out ++ [.creditReport c ⟨(creditOf s c false).held, (creditOf s c true).held, promisedTo s c false, promisedTo s c true, true⟩]))

/-- R323, R333, R334. CTXSAVE of a settled slot to memory vacates it, keeps its thread as an image there and owes the address;
CTXLOAD of an image that fits a vacant, stopped slot puts its thread there, stopped, and owes its STATE word. -/
def Obligations.ContextsSavedAndLoaded : Prop := ∀ (s : State) (h : Hdr) (d a b : SReg) (i : SlotN) (ls : List Nat),
  let off := (s.s b).v
  let owes (u : State) (v : Word) : Prop :=
    u.me.far = s.me.far ++ [⟨s.me.seq, s.me.inc, .scalar d, some (.scalar ⟨v, false⟩ none), 0, false, s.me.cur.no, false, false⟩]
  s.ctl.cur = 15 → Acts s h { N2 d a b with far := .scalar } → Calm s → (s.s a).p = false → (s.s b).p = false → (s.s a).v.toNat = i.val →
    i ≠ 15 →
    (saveIllegal s i = false → settledSlot s i = true → off ≠ 0 → causes (kibChecks s off (imageBytes (s.allot i)) [permW] false true) = none →
      blocksAt s off (imageBytes (s.allot i) / 64) [permW] = .ok ls →
      ∃ u m, exec (.ctxsave h d a b) s = .next u ∧ Went s u s.next ∧ owes u off ∧ (u.slot i).occ = false ∧
        (∀ j, j ≠ i → (u.slot j).occ = (s.slot j).occ) ∧ m ∈ u.core.images ∧ m.slot = i ∧ m.lines = ls ∧ m.th.regs = (s.th i).regs ∧
        m.th.space = (s.th i).space ∧ m.th.pc = (match (s.slot i).trap with | some r => r.resume | none => (s.th i).pc)) ∧
    ((s.slot i).occ = false → (s.slot i).stop = true → imageSource s off = .ok ls → imageFits s i (readWord s.mem ls 1) = true →
      field (readWord s.mem ls 24) 0 5 = 0 → (∀ m, recordOf s ls = some m → m.owed = []) →
      (stateKind (readWord s.mem ls 1) ≠ 0 → entryFree s (decide (stateKind (readWord s.mem ls 1) = 2)) = true) →
      ∃ u, exec (.ctxload h d a b) s = .next u ∧ Went s u s.next ∧ owes u (BitVec.ofNat 64 (readWord s.mem ls 1)) ∧ (u.slot i).occ = true ∧
        (u.slot i).stopped = true ∧ (u.th i).pc = BitVec.ofNat 64 (readWord s.mem ls 0) ∧ SameMem s.mem u.mem)

/-- R336. The six range instructions in slot 15, their causes passed, hand the walker their command block's address and their
space and owe a token. -/
def Obligations.RangeInstructions : Prop := ∀ (s : State) (h : Hdr) (d a b : SReg) (i : Instr) (op : RangeOp),
  (i, op) ∈ [(.rload h d a b, .rload), (.rinval h d a b, .rinval), (.rsplit h d a b, .rsplit), (.rmerge h d a b, .rmerge),
    (.rgrow h d a b, .rgrow), (.rcompact h d a b, RangeOp.rcompact)] →
  s.ctl.cur = 15 → Acts s h { N2 d a b with far := .scalar } → Calm s → (s.s a).p = false → (s.s b).p = false →
  (s.s a).v.toNat % 64 = 0 → (s.s b).v.toNat < 2 ^ 16 → spanAccess s (s.k 0) (s.s a).v 64 [permR] = none →
    ∃ t, exec i s = .next t ∧ Moves s t s.next ∧ SameMem s.mem t.mem ∧ t.core = s.core ∧ t.cl = s.cl ∧ t.part = s.part ∧ t.agenda = s.agenda ∧
      t.pkg = { s.pkg with rjobs := s.pkg.rjobs ++ [⟨⟨op, some s.ref, ⟨s.me.space, s.k 0, (s.s a).v⟩, (s.s b).v.truncate 16⟩, .new⟩] } ∧
      t.me.far = s.me.far ++ [⟨s.me.seq, s.me.inc, .scalar d, none, 0, true, s.me.cur.no, false, false⟩]

/-- R10, R32, R34, R36 to R38, R45, R93, R113, R171, R178. A far value that the siding has reaches every register that still expects
it, its flags and its entry's end with it, and nothing else; a vector's that is ahead of its packet's seal entry waits. A seal entry
applied, its staged vector stands in the pool. The crown takes a fault found late at its packet, keeps its record and its resume PC,
and sends the kill, which acts at the foot. A packet that replays is parked under a new incarnation, its kill under way; what it
waits for over, it issues again. A line that was missing is in the instruction cache, the newest of 256, as memory holds it. A wake
time reached, its slot issues again. -/
def Obligations.StepsOfThePipe : Prop := ∀ (s : State) (i : SlotN),
  (∀ (e : FarEntry) (v : FarVal) (l r : List FarEntry), (s.th i).far = l ++ e :: r → (∀ x ∈ l ++ r, x.seq ≠ e.seq) →
    e.value = some v → (s.th i).await = none →
    (∀ x d, v = .vec x → e.dest = .vec d → awaitsSeal (s.th i) e = true →
      ∃ t, exec (.farArrival i e.seq) s = .next t ∧ t.slots = s.slots ∧ t.core.pool = s.core.pool ∧ SameMem s.mem t.mem) ∧
    ((∀ x d, v = .vec x → e.dest = .vec d → awaitsSeal (s.th i) e = false) →
    ∃ t, exec (.farArrival i e.seq) s = .next t ∧ (t.th i).far = l ++ r ∧ (t.th i).pc = (s.th i).pc ∧ SameMem s.mem t.mem ∧
      (∀ j, j ≠ i → t.slot j = s.slot j) ∧ t.cl = s.cl ∧ t.part = s.part ∧ t.pkg = s.pkg ∧
      (t.th i).regs.fpflags = (s.th i).regs.fpflags ||| e.fl ∧
      (∀ q : SReg, let c := (s.th i).regs.s q
        match v with
        | .scalar x _ => if c.far ∧ c.wseq = e.seq then
            ((t.th i).regs.s q).val = x.v ∧ ((t.th i).regs.s q).p = x.p ∧ ((t.th i).regs.s q).far = false
          else (t.th i).regs.s q = c
        | _ => (t.th i).regs.s q = c) ∧
      (∀ q : PReg, (t.th i).regs.p q = (s.th i).regs.p q) ∧
      ∀ n, t.core.pool.get n = match v, e.dest with
        | .vec x, .vec d => let o := s.core.pool.get n
                            if n = s.vent i d ∧ o.wseq = e.seq then ⟨x, o.wseq⟩ else o
        | _, _ => s.core.pool.get n)) ∧
  (∀ (x : Seal) (rest : List Seal) (y : Staged), (s.th i).flight = x :: rest → (s.th i).staged = [y] → y.x.wseq = x.seq →
    (∀ e ∈ (s.th i).far, e.seq ≠ x.seq) →
    let t := applySeal s i
    (t.th i).flight = rest ∧ (t.th i).staged = [] ∧ (t.th i).regs = (s.th i).regs ∧ (t.th i).pc = (s.th i).pc ∧ SameMem s.mem t.mem ∧
      ∀ n, t.core.pool.get n = if n = s.vent i y.reg then y.x else s.core.pool.get n) ∧
  (∀ (f : TrapInfo) (pc : Word), (s.th i).late = some (f, pc) → i ≠ ranger →
    ∃ t, exec (.crownTrap i) s = .next t ∧
      (t.slot i).trap = some ⟨f, pc, pc, if (s.th i).reg.isOpen then (s.th i).reg.next else pc, true⟩ ∧
      (t.th i).inc = (s.th i).inc + 1 ∧ (t.th i).late = none ∧ t.agenda = s.agenda ++ [.killApply i] ∧
      (t.th i).regs = (s.th i).regs ∧ (∀ j, j ≠ i → t.slot j = s.slot j) ∧ SameMem s.mem t.mem) ∧
  ((s.slot i).occ = true → exec (.killApply i) s = .next (killFoot s i)) ∧
  (∀ (p : Park), runnable s i = true →
    ∃ t, exec (.crownReplay i p) s = .next t ∧ OnlyAt s { t with agenda := s.agenda } i ∧ t.agenda = s.agenda ++ [.killApply i] ∧ t.th i = { s.th i with inc := (s.th i).inc + 1, park := some p }) ∧
  (∀ (p : Park), (s.th i).park = some p → parkOver s i p = true →
    ∃ t, exec (.replayWake i) s = .next t ∧ OnlyAt s t i ∧ t.th i = { s.th i with park := none }) ∧
  (∀ (a : Nat) (fe : Bool), (s.slot i).occ = true → lineTag s i = 0 → patchWaits s i = false →
    xByte s i (s.th i).space (vaOf (s.th i).creach (pcLine (s.th i).pc)) [permX] = .ok a fe →
    ∃ t c, exec (.lineFill i) s = .next t ∧ findLine t i = some c ∧ c.bits = BitVec.ofNat 512 (s.mem.nat a 64) ∧
      (∀ k, k < 8 → c.poison.getLsbD k = s.mem.pois (a + 8 * k)) ∧ c.badPatch = false ∧ c.headFault = [] ∧
      t.core = { s.core with icache := (c :: s.core.icache).take 256 } ∧ (t.th i).park ≠ some .fill ∧ SameMem s.mem t.mem) ∧
  ∀ w, (s.th i).park = some (.wakeAt w) →
    ∃ t, exec (.wakeatExpiry i) s = .next t ∧ t.th i = { s.th i with park := none } ∧ w.toNat ≤ t.pkg.timeb.toNat ∧
      (∀ j, j ≠ i → t.slot j = s.slot j) ∧ t.core = s.core ∧ SameMem s.mem t.mem

/-- R295, R297, R298, R383. The arbiter commits a thread's oldest chunk as it stands, with its stores in memory in program
order and its updates of CHECK applied; repairs it, with every store and every register of an input rewritten to the input's
present word and its constant; or squashes it and every later one, and the thread goes back to the chunk's start with the
registers it had there; at the fourth squash it asks for the solo grant. The grant goes to the request that has waited
longest. A paired chunk commits once its trailer's agrees; a first disagreement squashes it, uncounted. -/
def Obligations.ChunksCommitted : Prop := ∀ (s : State) (i : SlotN) (c : Chunk) (r : List Chunk),
  let start (t : State) : Prop := (t.th i).pc = c.pc ∧ (t.th i).ended = [] ∧ (t.th i).cur.npkts = 0 ∧ SameMem s.mem t.mem ∧
    ∀ q : SReg, ((t.th i).regs.s q).val = (c.ckpt.s q).val ∧ ((t.th i).regs.s q).p = (c.ckpt.s q).p
  let f (k : Nat) : Word := ((c.inputs[k]?).map (inputNow s.mem c)).getD 0
  ((s.slot i).occ = true → (s.th i).ended = c :: r →
    (∀ e : Instr, (e = .chunkCommit (.own i) ∧ paired s i = false) ∨ (e = .shadowCompare i true ∧ paired s i = true) →
      commitReady s i = true → c.pushed = [] → c.act = none → (∀ h ∈ c.stores, isHost h.addr = false ∧ isRemote s h.addr = false) →
      (judge s i c = .clean → ∃ t, exec e s = .next t ∧ SameMem (heldTo s.mem c.stores) t.mem ∧ (t.th i).ended = r ∧
        (t.th i).regs = (s.th i).regs ∧ (t.th i).pc = (s.th i).pc ∧ (t.th i).squash = 0 ∧ (t.th i).solo = false ∧
        (t.th i).check = applyCheck (s.th i).check c.check) ∧
      (judge s i c = .repaired → ∃ t, exec e s = .next t ∧ (t.th i).ended = [] ∧ (t.th i).squash = 0 ∧
        SameMem (heldTo s.mem (c.stores.map fun h => { h with data := match h.sym with
          | some (k, o) => leBytes h.data.length (f k + o).toNat
          | none => h.data })) t.mem ∧
        let k := r.headD (s.th i).cur
        (t.th i).pc = k.pc ∧ ∀ q : SReg, ((t.th i).regs.s q).val = match (k.ckpt.s q).tag with
          | some (k, o) => f k + o
          | none => (k.ckpt.s q).val) ∧
      (∀ n, judge s i c = .squash n → (s.slot i).stopped = false → (s.slot i).halting = false → ∃ t, exec e s = .next t ∧ start t ∧
        (t.th i).squash = (s.th i).squash + 1 ∧
        (4 ≤ (s.th i).squash + 1 → (s.th i).solo = false → i ∉ s.pkg.soloQueue →
          t.pkg.soloQueue = s.pkg.soloQueue ++ [i] ∧ (t.th i).park = some .solo))) ∧
    (paired s i = true → mismatchesOf s i = 0 →
      ∃ t, exec (.shadowCompare i false) s = .next t ∧ start t ∧ (t.th i).squash = (s.th i).squash ∧ mismatchesOf t i = 1)) ∧
  ∀ q, s.pkg.soloHolder = none → s.pkg.soloQueue = i :: q →
    ∃ t, exec (.soloGrant i) s = .next t ∧ t.pkg = { s.pkg with soloHolder := some i, soloQueue := q } ∧ (t.th i).solo = true ∧
      (t.th i).park ≠ some .solo ∧ (t.th i).regs = (s.th i).regs ∧ (∀ j, j ≠ i → t.slot j = s.slot j) ∧ SameMem s.mem t.mem

/-- R237, R238, R242, R260, R280, R285. A singleton that waits is performed once its word's state is ready: memory is the
home's, the value is owed no longer. A try that finds the state wrong counts; after the 64th the thread is saved in the
bedroll area and a waiter table names it. An operation of another package is performed as at any home. GATHN's lanes and the
code table take their words as they stand at one point; GEN counts the tables. -/
def Obligations.HomesPerform : Prop := ∀ (s : State) (i : SlotN),
  (∀ (w : SyncWait), (s.th i).sync = some w → opReady s.mem w.op = true → w.chunk.taken = [] → w.chunk.pushed = [] →
    let ends (t : State) (m : Memory) (v : SVal) : Prop := SameMem m t.mem ∧ (t.th i).sync = none ∧ (t.th i).pc = (s.th i).pc ∧
      (t.th i).regs = (s.th i).regs ∧ t.part = s.part ∧ t.pkg = s.pkg ∧
      ∀ r, w.ref = some r → r.slot = i → (s.slot i).occ = true → (∃ x ∈ (s.th i).far, x.seq = r.seq ∧ x.inc = r.inc) →
        (t.th i).far = (s.th i).far.map fun x =>
          if x.seq = r.seq ∧ x.inc = r.inc then { x with value := x.value.or (some (.scalar v none)) } else x
    (isRemote s w.op.addr = false → opFree s i w.op = true →
      ∃ t, exec (.singletonPerform (.own i)) s = .next t ∧ ends t (homeMem s.mem w.op) (homeValue s.mem w.op)) ∧
    ∀ v, ends (homeReplies s i (.done v)) (replyMem s.mem w.op v) v) ∧
  (∀ (w : SyncWait), (s.th i).sync = some w → isRemote s w.op.addr = true → w.asked = false → (s.slot i).stopped = false →
    (s.slot i).halting = false → ackedBy (s.th i) (packageOf w.op.addr) = true →
    ∃ t run b, exec (.remoteAtomicPerform (.own i) w.op) s = .next t ∧ (t.th i).sync = some { w with asked := true, run := run } ∧
      SameMem s.mem t.mem ∧ (∀ j, (t.th j).regs = (s.th j).regs ∧ (t.th j).pc = (s.th j).pc) ∧ b = run.isSome ∧ (w.n < 64 → b = false) ∧
      t.pkg.e2eKept = s.pkg.e2eKept ++ [(packageOf w.op.addr, ⟨s.pkg.mgmt.pkg, 0, nextE2E s (packageOf w.op.addr) 0,
        .atomic w.op ⟨s.core.id, i⟩ b⟩)]) ∧
  (∀ (w : SyncWait), (s.th i).sync = some w → isRemote s w.op.addr = false → opReady s.mem w.op = false → w.op.fe = true →
    (w.n < 64 → ∃ t, exec (.syncRetry i) s = .next t ∧ OnlyAt s t i ∧ t.th i = { s.th i with sync := some { w with n := w.n + 1 } }) ∧
    ∀ f, 64 ≤ w.n → mayLeave (dropSync s i) i = true → freeRun s (framesFor (s.allot i)) = some f →
      (∀ x ∈ s.cl.waiters, x.addr ≠ w.op.addr / 8 * 8) → tableRoom s (w.op.addr / 8 * 8) = true →
      ∃ t m, exec (.syncRetry i) s = .next t ∧ (t.slot i).occ = false ∧ t.core.images.getLast? = some m ∧ m.frame = some f ∧
        m.slot = i ∧ m.th.pc = w.pc ∧ m.sync = true ∧
        t.cl.waiters = s.cl.waiters ++ [⟨w.op.addr / 8 * 8, s.core.id, i, needsFull w.op.kind, some m.id⟩]) ∧
  (∀ (op : HomeOp) (src : BitVec 8) (who : Waiter) (mark : Bool), hasMemory op.addr = true → opReady s.mem op = true →
    linesFree s none (opLines op) = true →
    let beside (t : State) : Prop := SameMem (homeMem s.mem op) t.mem ∧ t.core = s.core ∧
      ∀ j, (t.th j).regs = (s.th j).regs ∧ (t.th j).pc = (s.th j).pc
    (∃ t m, exec (.remoteAtomicPerform (.other src who mark) op) s = .next t ∧ beside t ∧
      t.pkg.e2eKept.getLast? = some (src, m) ∧ m.vn = 1 ∧ m.body = .reply who (.done (homeValue s.mem op))) ∧
    ∃ t, exec (.singletonPerform (.other who op)) s = .next t ∧ beside t) ∧
  (∀ (g : Gather), (s.slot g.ref.slot).occ = true → (∃ x ∈ (s.th g.ref.slot).far, x.seq = g.ref.seq ∧ x.inc = g.ref.inc) →
    ∃ t v, exec (.gatherReturn g) s = .next t ∧ SameMem s.mem t.mem ∧
      (t.th g.ref.slot).far = (s.th g.ref.slot).far.map (fun x =>
        if x.seq = g.ref.seq ∧ x.inc = g.ref.inc then { x with value := x.value.or (some (.vec v)) } else x) ∧
      ∀ e, e < 32 → match g.lanes.getD e none with
        | some a => velt 32 v.bits e = s.mem.nat a 4 ∧ v.poison.getLsbD e = s.mem.pois a
        | none => velt 32 v.bits e = velt 32 g.old.bits e ∧ v.poison.getLsbD e = g.old.poison.getLsbD e) ∧
  ∀ (l : TableLoad), (s.slot l.ref.slot).occ = true → (∃ x ∈ (s.th l.ref.slot).far, x.seq = l.ref.seq ∧ x.inc = l.ref.inc) →
    ∃ t, exec (.tableLoadComplete l) s = .next t ∧ t.core.tabValid = true ∧
    t.core.tabGen = s.core.tabGen + 1 ∧ t.core.tabBusy = s.core.tabBusy - 1 ∧ SameMem s.mem t.mem ∧
    ∀ k : Fin 256, let a := l.lines.getD (k.val / 16) 0 + 4 * (k.val % 16)
      t.core.table.get k = ⟨BitVec.ofNat 19 (s.mem.nat a 4 / 2 ^ 13), s.mem.pois a⟩

/-- R279, R283, R284, R286, R384, R387 to R389. A thread's stores to the host and to other packages leave in order and take
their place at home in order, with their poison; chunks of the package that read their lines conflict. Stores of the host and
of other packages do the same here; a read by the host returns bytes with their poison and leaves it the lines, until a
back-invalidate is answered. A line that the host or another package takes back conflicts with the chunks that read it. -/
def Obligations.StoresAcrossTheEdge : Prop := ∀ (s : State) (i : SlotN) (o : OutStore) (l : List OutStore),
  let conflicts (t : State) (ls : List Nat) : Prop := ∀ j, (t.th j).cur = markChunk ls (s.th j).cur ∧
    (t.th j).ended = (s.th j).ended.map (markChunk ls) ∧ (t.th j).regs = (s.th j).regs ∧ (t.th j).pc = (s.th j).pc
  let here (t : State) (a : Nat) (data : List Byte) (p : Bool) : Prop := SameMem (s.mem.store a data p) t.mem ∧
    conflicts t (linesOf a data.length) ∧ t.core = s.core ∧ t.cl = s.cl ∧ t.part = s.part
  ((s.th i).pend = o :: l → isHost o.addr = true →
    ∃ t, exec (.hostStoreSend i) s = .next t ∧ (t.th i).pend = l ∧ (t.th i).sent = (s.th i).sent ++ [o] ∧
      t.agenda = s.agenda ++ [.remoteAck ⟨i, none⟩] ∧ t.out = s.out ++ [.hostStore o] ∧ SameMem s.mem t.mem) ∧
  ((s.th i).pend = o :: l → isHost o.addr = false →
    ∃ t, exec (.hostStoreSend i) s = .next t ∧ (t.th i).pend = l ∧ (t.th i).sent = (s.th i).sent ++ [o] ∧
      t.agenda = s.agenda ∧ SameMem s.mem t.mem ∧
      let m : E2EMsg := ⟨s.pkg.mgmt.pkg, 0, nextE2E s (packageOf o.addr) 0, .store o ⟨s.core.id, i⟩⟩
      t.pkg.e2eKept = s.pkg.e2eKept ++ [(packageOf o.addr, m)] ∧ nextE2E t (packageOf o.addr) 0 = m.seq + 1 ∧
      ((liveLink s).isSome = true → t.out.getLast? = some (.e2e (packageOf o.addr) m))) ∧
  (∀ dest, (s.th i).sent = o :: l → sentTo dest o = true → ∃ t, exec (.remoteAck ⟨i, dest⟩) s = .next t ∧ here t o.addr o.data o.p ∧ (t.th i).sent = l ∧
    (t.th i).pend = (s.th i).pend) ∧
  (let ls := linesOf o.addr o.data.length
   ∀ src who, hasMemory o.addr = true → linesFree s none ls = true →
    ∃ t, exec (.remoteStorePerform ⟨src, who, o⟩) s = .next t ∧ here t o.addr o.data o.p ∧
      t.pkg.e2eKept = s.pkg.e2eKept ++ [(src, ⟨s.pkg.mgmt.pkg, 1, nextE2E s src 1, .ack who⟩)]) ∧
  (∀ (a : Nat) (data : List Byte) (p : Bool), let pa := s.pkg.mgmt.pkg.toNat * 2 ^ 40 + a
    a + data.length ≤ 0xC000000000 → soloHolds s none (linesOf pa data.length) = false → heldAbroad s (linesOf pa data.length) = [] →
    ∃ t, exec (.cxlMemWrite a data p) s = .next t ∧ here t pa data p) ∧
  (∀ (a n : Nat), let pa := s.pkg.mgmt.pkg.toNat * 2 ^ 40 + a
    a + n ≤ 0xC000000000 →
    ∃ t, exec (.cxlMemRead a n) s = .next t ∧ SameMem s.mem t.mem ∧
      t.out = s.out ++ [.hostRead a (s.mem.bytes pa n) (s.mem.poisAny pa n)] ∧
      ∀ x, x ∈ t.pkg.hostLines ↔ x ∈ s.pkg.hostLines ∨ x ∈ linesOf pa n) ∧
  (∀ (n : Nat), let x := n % 2 ^ 42 + hostBase / 64
    s.mem.wf = true →
    ∃ t, exec (.hostSnoop n) s = .next t ∧ conflicts t [x] ∧ t.core = s.core ∧
      ∀ a, (a < 64 * x ∨ 64 * x + 64 ≤ a) → t.mem.byte a = s.mem.byte a) ∧
  (∀ (n : Nat), (∃ t, exec (.backInvalidate n) s = .next t ∧ t.out = s.out ++ [.backInvalidate n] ∧ t.pkg = s.pkg ∧
      SameMem s.mem t.mem) ∧
    ∃ t, exec (.backInvalidateResponse n) s = .next t ∧ SameMem s.mem t.mem ∧ t.pkg.backInv = s.pkg.backInv.erase n ∧
      t.pkg.hostLines = if n ∈ s.pkg.backInv.erase n then s.pkg.hostLines else setDel s.pkg.hostLines n) ∧
  ∀ (n : Nat) (p : BitVec 8), let b := n / 8
    (isRemote s (64 * n) = true → soloHolds s none (blockLines b) = false →
      ∃ t, exec (.remoteInvalidate n) s = .next t ∧ conflicts t (blockLines b) ∧ SameMem s.mem t.mem ∧
        t.pkg.e2eKept = s.pkg.e2eKept ++ [(packageOf (512 * b), ⟨s.pkg.mgmt.pkg, 1, nextE2E s (packageOf (512 * b)) 1, .invalAck b⟩)]) ∧
    (isRemote s (64 * n) = false → ∃ t, exec (.remoteInvalidate n) s = .next t ∧ SameMem s.mem t.mem ∧
      (∀ x ∈ t.pkg.remoteCopies, x.2.1 = b → x.2.2 = true) ∧ t.pkg.remoteCopies.length = s.pkg.remoteCopies.length) ∧
    ∀ x ∈ (copyGone s p b).pkg.remoteCopies, x ∈ s.pkg.remoteCopies ∧ (x.1 = p → x.2.1 ≠ b)

/-- R51, R66, R70, R71, R74 to R78, R127, R313, R350. A free slot takes the next task of the pack, else the next index of the
share, else a task it steals, and starts it with the registers of R66. A search tries the cores of the nearest unit first and
takes a top entry of the same launch whose level allows it; a thief is given this core's top entry, but not the last one that a
free slot here takes. A push counts in its join word and goes to the bottom of the pack; a full pack's 32 oldest entries leave
as a block, and the youngest block comes back to an empty pack. A core takes the launch that waits with its tiles as R127 has
them, and its cluster's window formats, rings and counters once. -/
def Obligations.LaunchesAndTasks : Prop := ∀ (s : State) (i : SlotN) (l : CoreLaunch), s.core.launch = some l →
  let f := l.sh.info
  let starts (t : State) (kind : TKind) (pc : Word) (a : SVal) (y z : Word) : Prop :=
    (t.slot i).occ = true ∧ (t.slot i).trap = none ∧ (t.th i).kind = kind ∧ (t.th i).pc = pc ∧ (t.th i).space = f.space ∧
    (t.th i).creach = f.creach ∧ (t.th i).far = [] ∧ (t.th i).park = none ∧ (t.th i).check = 0 ∧ (t.th i).region = 0 ∧
    (t.th i).inc = (s.th i).inc + 1 ∧
    (∀ r : SReg, ((t.th i).regs.s r).val = (match r.toNat with
      | 1 => a.v | 2 => y | 3 => z | 4 => f.param | 5 => s.core.id.setWidth 64 | 6 => BitVec.ofNat 64 i.val | _ => 0) ∧
      ((t.th i).regs.s r).p = (decide (r.toNat = 1) && a.p) ∧ ((t.th i).regs.s r).far = false) ∧
    (∀ r : KReg, (t.th i).regs.reach r = if r.toNat < 3 then f.dreach else 0xFFFF) ∧
    (∀ r : PReg, r ≠ 0 → (t.th i).regs.p r = ⟨0, false, false, 0⟩) ∧
    (t.th i).regs.seed = (let x := f.seed ^^^ a.v ^^^ (y <<< 21) ^^^ (z <<< 42); if x = 0 then 1 else x) ∧
    (t.th i).regs.fpctl = f.fpctl ∧ (t.th i).regs.fpflags = 0 ∧ (t.th i).regs.win = .outer ∧
    (∀ k, ((t.th i).binds.get k).kind = .unbound) ∧
    ∀ v : VNum, v.toNat < s.allot i → t.core.pool.get (s.vent i v) = ⟨⟨0, 0⟩, 0⟩
  let idle := slotFree s i = true ∧ l.stopped = false ∧ l.started = true ∧ settlers s = [] ∧ resumedImage s = none
  (idle → ∀ v e rest, packItem s = some (e, rest) → ∃ t, exec (.slotFill (.own i) v) s = .next t ∧ t.core.pack = rest ∧
    starts t (.task e.join) e.pc e.arg 0 0) ∧
  (idle → packItem s = none → packAway s = false → l.next < l.sh.hi →
    ∀ v, ∃ t, exec (.slotFill (.own i) v) s = .next t ∧ t.core.launch = some { l with next := l.next + 1 } ∧
      starts t .index f.entry ⟨BitVec.ofNat 64 (l.next % f.x), false⟩ (BitVec.ofNat 64 (l.next / f.x % f.y))
        (BitVec.ofNat 64 (l.next / (f.x * f.y)))) ∧
  (idle → packItem s = none → packAway s = false → l.sh.hi ≤ l.next → ∀ v c e,
    (search s.core.id f.seq v [0, 1, 2, 3] s.core.tried).1 = some (c, e) →
    ∃ t, exec (.slotFill (.own i) v) s = .next t ∧ starts t (.task e.join) e.pc e.arg 0 0 ∧ .steal c ∈ t.out) ∧
  (∀ (me c : CoreId) (v : List Sys2Proof.Victim) (b : Bank CoreId 4) (e : Task), (search me f.seq v [0, 1, 2, 3] b).1 = some (c, e) →
    (∃ x ∈ v, x.core = c ∧ x.hint = true ∧ x.top = some e ∧ x.seq = f.seq ∧ c ≠ me ∧ unitLevel me c ≤ e.level.toNat) ∧
    ∀ x ∈ v, x.hint = true → x.core ≠ me → mayTop me f.seq x ≠ none → unitLevel me c ≤ unitLevel me x.core) ∧
  (∀ (c : CoreId) (q : BitVec 32) (v : List Sys2Proof.Victim),
    let gives := q = f.seq ∧ hintBit s (unitLevel c s.core.id) = true ∧ ¬(s.core.pack.length = 1 ∧ ownTakes s = true)
    (gives → exec (.slotFill (.thief c q) v) s =
      .next { s with core := { s.core with pack := s.core.pack.drop 1 }, out := s.out ++ [.stolen c s.core.pack.head?] }) ∧
    (¬gives → exec (.slotFill (.thief c q) v) s = .next { s with out := s.out ++ [.stolen c none] })) ∧
  (s.core.priv.packFrozen = false →
    (∀ (e : Task) (a : Nat), s.core.pack.length < 64 → homeOf s e.join = .at_ a → let w := s.mem.nat a 8
      ∃ t, exec (.taskPush ⟨e, false⟩) s = .next t ∧ t.core = { s.core with pack := s.core.pack ++ [e] } ∧
        SameMem (s.mem.store a (leBytes 8 (w / 2 ^ 32 * 2 ^ 32 + (w % 2 ^ 32 + 1) % 2 ^ 32)) (s.mem.pois a)) t.mem) ∧
    ∀ as, s.core.pack = [] → s.core.priv.packBlocks ≠ 0 →
      devAddrs s f.space [permR] (vaOf (packReach s) (packOff s (s.core.priv.packBlocks - 1))) 1024 = .ok as →
      ∃ t, exec .packReadback s = .next t ∧ t.core.priv.packBlocks = s.core.priv.packBlocks - 1 ∧ t.core.pack.length = 32 ∧
        SameMem s.mem t.mem ∧
        ∀ k, k < 32 → let b := (as.drop (32 * k)).take 32
          t.core.pack[k]? = some (taskOf (s.mem.gather b) (s.mem.gatherP b))) ∧
  (∀ as, s.core.priv.packFrozen = false → s.core.pack.length = 64 → s.core.priv.packBlocks < s.core.priv.packLimit.toNat →
    devAddrs s f.space [permW] (vaOf (packReach s) (packOff s s.core.priv.packBlocks)) 1024 = .ok as →
    ∃ t, exec .packSpillRetry s = .next t ∧
      t.core.priv.packBlocks = s.core.priv.packBlocks + 1 ∧ t.core.pack = s.core.pack.drop 32) ∧
  ∀ (sh : Share), s.core.waiting = some sh → mayTake s = true → let f := sh.info
    ∃ t, exec .coreTakeLaunch s = .next t ∧ t.core.waiting = none ∧
      t.core.launch = some ⟨sh, sh.lo, 0, !f.flags.getLsbD fTimed, false, false⟩ ∧
      (∀ k, t.core.tiles.get k = ⟨0, 0, true⟩) ∧ (s.cl.launch = some f.seq → t.cl = s.cl) ∧
      (s.cl.launch ≠ some f.seq → t.cl.launch = some f.seq ∧ (∀ k, t.cl.bars.get k = ⟨none, 0⟩) ∧
      (∀ k, t.cl.wfmt.get k = f.wfmt.extractLsb' (4 * k.val) 4) ∧
      (∀ r : RingN, (∀ e ∈ f.rings, e.ring ≠ r) → (getRing t r).defd = false) ∧
      ∀ e ∈ f.rings, (∀ e' ∈ f.rings, e'.ring = e.ring → e' = e) → let g := getRing t e.ring
        g.defd = true ∧ g.win = e.win ∧ g.base = e.off ∧ g.kind = e.kind ∧ g.log2n = e.log2n ∧ g.head = 0 ∧ g.tail = 0)

/-- R80, R81, R93, R94, R177. A task's end counts its join word down and, at zero, clears a waiter's mark and reports it; a
JOIN looks again, goes on at zero, counts its tries, and after the last leaves for the bedroll area, marked in the word. A
barrier counter is armed by its first arrival, faults one of another count, and the last arrival wakes every waiter and starts
a generation; so does the launch's own barrier once every index thread has arrived or exited. -/
def Obligations.JoinsAndBarriers : Prop := ∀ (s : State) (i : SlotN),
  (∀ (r : WordRef) (a : Nat), homeOf s r = .at_ a →
    let w := s.mem.nat a 8
    let v := w / 2 ^ 32 * 2 ^ 32 + (w % 2 ^ 32 + 2 ^ 32 - 1) % 2 ^ 32
    let put (t : State) (x : Nat) : Prop := SameMem (s.mem.store a (leBytes 8 x) (s.mem.pois a)) t.mem
    (w % 2 ^ 32 ≠ 1 ∨ w < 2 ^ 63 → ∃ t, exec (.joinDecrement r i) s = .next t ∧ put t v ∧ t.agenda = s.agenda ∧ t.core = s.core) ∧
    (w % 2 ^ 32 = 1 → 2 ^ 63 ≤ w → ∃ t, exec (.joinDecrement r i) s = .next t ∧
      put t (v - 2 ^ 63 - 2 ^ 32 * (w / 2 ^ 32 % 2 ^ 18)) ∧ t.core = s.core ∧
      t.agenda = s.agenda ++ [.eventEnqueue ⟨0x0E, BitVec.ofNat 4 i.val, nameOfWord a,
        BitVec.ofNat 64 (w / 2 ^ 32 % 2 ^ 18)⟩])) ∧
  (∀ (r : WordRef) (n a : Nat), (s.th i).park = some (.join r n) → homeOf s r = .at_ a → let w := s.mem.nat a 8
    (w % 2 ^ 32 = 0 → ∃ t, exec (.joinRetry i) s = .next t ∧ OnlyAt s t i ∧ t.th i = { s.th i with park := none }) ∧
    (w % 2 ^ 32 ≠ 0 → n < 16 →
      ∃ t, exec (.joinRetry i) s = .next t ∧ OnlyAt s t i ∧ t.th i = { s.th i with park := some (.join r (n + 1)) }) ∧
    ∀ f, w % 2 ^ 32 ≠ 0 → 16 ≤ n → w < 2 ^ 63 → mayLeave s i = true → freeRun s (framesFor (s.allot i)) = some f →
      ∃ t m, exec (.joinRetry i) s = .next t ∧ (t.slot i).occ = false ∧ t.core.images.getLast? = some m ∧ m.slot = i ∧
        m.frame = some f ∧ m.th.pc = (s.th i).pc ∧ m.th.regs = (s.th i).regs) ∧
  (∀ (c : BarN) (k n : Nat), (s.slot i).occ = true → (s.th i).park = some (.barc c n false) → let b := barOf s c
    (b.armed = none ∨ b.armed = some k → b.arrived + 1 < k →
      ∃ t, exec (.barrierArrival ⟨s.core.id, i⟩ c k) s = .next t ∧ OnlyAt { s with cl := t.cl } t i ∧
        t.th i = { s.th i with park := some (.barc c n true) } ∧ barOf t c = ⟨some k, b.arrived + 1⟩) ∧
    (b.armed = none ∨ b.armed = some k → k ≤ b.arrived + 1 →
      ∃ t, exec (.barrierArrival ⟨s.core.id, i⟩ c k) s = .next t ∧ barOf t c = ⟨none, 0⟩ ∧ (t.th i).park = none ∧
        (∀ j m, (s.slot j).occ = true → (s.th j).park = some (.barc c m true) → (t.th j).park = none) ∧
        ∀ w, (c, w) ∈ s.cl.barWait → .barrierWake c w ∈ t.out) ∧
    ∀ m, b.armed = some m → m ≠ k →
      ∃ t, exec (.barrierArrival ⟨s.core.id, i⟩ c k) s = .next t ∧ OnlyAt s t i ∧
        t.th i = { s.th i with park := none, late := some (⟨0x13, 0, 0⟩, (s.th i).from_) }) ∧
  ∀ (l : CoreLaunch) (x : Launch) (o : Option SlotN) (n : Nat), s.core.launch = some l → findLaunch s l.sh.info.seq = some x →
    (x.bargAt + n + x.bargOut < x.total → ∃ t, exec (.bargArrival o n) s = .next t ∧
      findLaunch t x.seq = some { x with bargAt := x.bargAt + n } ∧ t.core = s.core ∧ SameMem s.mem t.mem ∧
      ∀ j, t.slot j = s.slot j ∨ (o = some j ∧ n ≠ 0 ∧ t.slot j = { s.slot j with th := { s.th j with barg := true } })) ∧
    (x.total ≤ x.bargAt + n + x.bargOut → ∃ t, exec (.bargArrival o n) s = .next t ∧
      findLaunch t x.seq = some { x with bargAt := 0, bargGen := x.bargGen + 1 } ∧ t.out = s.out ++ [.bargWake x.seq] ∧
      ∀ j, (t.th j).regs = (s.th j).regs ∧ (t.th j).pc = (s.th j).pc ∧
        ((s.slot j).occ = true → (s.th j).park = some (.barg x.bargGen) → (t.th j).park = none))

/-- R67 to R69, R86, R88 to R92, R325, R341, R378. A hiker that arrives takes an entry and its promise is used up; a sealed
core sends an error hiker back instead. The oldest waiting entry, reply class first, starts in an empty guest slot with what
the hiker carries in its registers and CHECK set by poison; a guest that waits in SETTLE and owes nothing takes a resident slot
first. A context is 192 bytes and reads back as written; one whose reserved bytes are not zero brings every register poisoned. A message whose tail is poisoned is dropped and reported. A
request is granted while an entry is free and no ticket waits, else refused with ticket NEXT; ticket SERVE takes the entry
kept for it. A grant is the sender's; a refusal is presented again; an unused credit goes back and its promise ends; a held
entry passes to the next ticket. Of a peer's report, a count of what this core granted that differs, a counter of free entries
that is wrong or a parity fault raises Credit Fault and ends granting to the peer; a count of what the peer granted ends granting
alone; one of a CREDSYNC sets the counts right and grants again. The watchdog sets its interrupt. -/
def Obligations.HikersGuestsAndCredits : Prop :=
  (∀ (s : State) (i : SlotN) (m : HikerMsg), let k := hikerOf m
  (s.core.sealed = false → ∃ t, exec (.hikerArrival m) s = .next t ∧ CoreSays s t ∧
    t.core.arrivals = s.core.arrivals ++ [⟨s.core.nextArr, k, false⟩] ∧ t.core.nextArr = s.core.nextArr + 1 ∧
    (ticketsOf t k.reply).promised = (ticketsOf s k.reply).promised.erase k.src) ∧
  (∀ e : Instr, (e = .hikerArrival m ∧ s.core.sealed = true) ∨ e = .sealedArrival m → k.src ≠ s.core.id →
    ∃ t r, exec e s = .next t ∧ CoreSays s t ∧ t.core.arrivals = s.core.arrivals ∧ t.out = s.out ++ [.hiker (hikerMsg r)] ∧ r.dest = k.src ∧
      r.reply = true ∧ r.pc = k.pc ∧ r.space = k.space ∧ r.src = s.core.id ∧ r.qp = 0xFE ∧
      ∀ j : Fin 15, r.s.get j = ⟨(k.s.get j).v, true⟩) ∧
  (hikerResv m.bytes = true → k.qp = 0xFE ∧ ∀ j : Fin 15, (k.s.get j).p = true) ∧
  (∀ x : Hiker, x.q.getLsbD 0 = false → x.qp.getLsbD 0 = false → (hikerMsg x).bytes.length = 192 ∧ hikerOf (hikerMsg x) = x) ∧
  (∀ (a : Arrival), guestFree s i = true → nextArrival s = some a → let k := a.hk
    ∃ t, exec (.guestStart i) s = .next t ∧ (t.slot i).occ = true ∧ (t.slot i).trap = none ∧ (t.th i).kind = .guest a.id k.reply ∧
      (t.th i).pc = k.pc ∧ (t.th i).space = k.space ∧ (t.th i).creach = k.creach ∧ (t.th i).origin = k.src ∧
      (t.th i).inc = (s.th i).inc + 1 ∧ (t.th i).far = [] ∧ (t.th i).regs.k = k.k ∧ (t.th i).regs.seed = 1 ∧
      (∀ j : Fin 15, let c := (t.th i).regs.s (BitVec.ofNat 5 (j.val + 1))
        c.val = (k.s.get j).v ∧ c.p = (k.s.get j).p ∧ c.far = false) ∧
      (∀ r : PReg, r ≠ 0 → (t.th i).regs.p r = ⟨if k.q.getLsbD r.toNat then 1 else 0, k.qp.getLsbD r.toNat, false, 0⟩) ∧
      ((t.th i).check.getLsbD 0 = bringsPoison k) ∧
      (∀ x ∈ t.core.arrivals, x.id = a.id → x.running = true) ∧ (∀ j, j ≠ i → t.slot j = s.slot j) ∧ SameMem s.mem t.mem) ∧
  (∀ (c : CoreId) (b : Bool), ∃ t, exec (.poisonedTail c b) s = .next t ∧ CoreSays s t ∧ t.core.arrivals = s.core.arrivals ∧
    (ticketsOf t b).promised = (ticketsOf s b).promised.erase c ∧
    t.agenda = s.agenda ++ [.eventEnqueue ⟨0x0B, 15, c.setWidth 64, 0⟩]) ∧
  ∀ (l : CoreLaunch) (j : SlotN) (v : List Sys2Proof.Victim), s.core.launch = some l → slotFree s i = true →
    l.stopped = false → l.started = true → (settlers s).find? (settleReady s) = some j → i ≠ j →
    ∃ t, exec (.slotFill (.own i) v) s = .next t ∧ (t.slot i).occ = true ∧ (t.slot j).occ = false ∧ (t.th i).kind = .settled ∧
      (t.th i).pc = (s.th j).pc ∧ (t.th i).space = (s.th j).space ∧ (t.th i).regs.g = (s.th j).regs.g ∧
      (t.th i).regs.q = (s.th j).regs.q ∧ (t.th i).regs.k = (s.th j).regs.k) ∧
  ∀ (s : State) (c : CoreId) (b : Bool),
  let q := ticketsOf s b
  (q.next = q.serve → entryFree s b = true → s.core.sealed = false → c ∉ s.core.creditFault → c ≠ s.core.id →
    ∃ t, exec (.creditRequest c b none) s = .next t ∧ CoreSays s t ∧ (ticketsOf t b).promised = q.promised ++ [c] ∧
      t.out = s.out ++ [.creditGrant c b]) ∧
  ((q.next ≠ q.serve ∨ entryFree s b = false) → c ≠ s.core.id →
    ∃ t, exec (.creditRequest c b none) s = .next t ∧ CoreSays s t ∧ (ticketsOf t b).promised = q.promised ∧
      (ticketsOf t b).next = q.next + 1 ∧ t.out = s.out ++ [.creditRefusal c b q.next]) ∧
  (waits q q.serve = true → q.reserved = true → s.core.sealed = false → c ∉ s.core.creditFault → c ≠ s.core.id →
    ∃ t, exec (.creditRequest c b (some q.serve)) s = .next t ∧ CoreSays s t ∧ (ticketsOf t b).serve = q.serve + 1 ∧
      (ticketsOf t b).promised = q.promised ++ [c] ∧ t.out = s.out ++ [.creditGrant c b]) ∧
  (q.reserved = true → ∃ t, exec (.creditHoldTimeout b) s = .next t ∧ OnlyCore s t ∧ (ticketsOf t b).serve = q.serve + 1 ∧
    (ticketsOf t b).promised = q.promised ∧ ((ticketsOf t b).reserved = true → q.serve + 1 ≠ q.next)) ∧
  (∃ t, exec (.creditGrant c b) s = .next t ∧ OnlyCore s t ∧ (creditOf t c b).held = (creditOf s c b).held + 1 ∧
    (creditOf t c b).ticket = none ∧ (creditOf t c b).asked = false ∧
    ∀ d e, (d, e) ≠ (c, b) → creditOf t d e = creditOf s d e) ∧
  (∀ k, c ≠ s.core.id → ∃ t, exec (.creditRetry c b k) s = .next t ∧ CoreSays s t ∧ (creditOf t c b).ticket = some k ∧
    (creditOf t c b).held = (creditOf s c b).held ∧ t.out = s.out ++ [.creditRequest c b (some k)]) ∧
  ((creditOf s c b).held ≠ 0 → c ≠ s.core.id → ∃ t, exec (.creditReturn c b false) s = .next t ∧ CoreSays s t ∧
    (creditOf t c b).held = (creditOf s c b).held - 1 ∧ t.out = s.out ++ [.creditReturn c b]) ∧
  (∃ t, exec (.creditReturn c b true) s = .next t ∧ OnlyCore s t ∧ (ticketsOf t b).promised = q.promised.erase c) ∧
  (guestsStarved s = true → ∃ t, exec .creditWatchdog s = .next t ∧
    OnlyPriv s t { s.core.priv with irqpend := s.core.priv.irqpend ||| 8 }) ∧
  ∀ (rep : CreditReport) (n : Nat) (parity : Bool),
    let count (t : State) (e : Bool) : Nat := ((ticketsOf t e).promised.filter (· = c)).length
    let granted := count s false = rep.heldO ∧ count s true = rep.heldR ∧ n = 24 - s.core.arrivals.length ∧ parity = false
    let held := (creditOf s c false).held = rep.grantedO ∧ (creditOf s c true).held = rep.grantedR
    (rep.sync = false → granted → held → exec (.creditCheck c rep ⟨n, parity⟩) s = .next s) ∧
    (rep.sync = false → (¬granted ∨ ¬held) → ∃ t, exec (.creditCheck c rep ⟨n, parity⟩) s = .next t ∧ CoreSays s t ∧
      c ∈ t.core.creditFault ∧
      t.agenda = s.agenda ++ (if granted then [] else [.eventEnqueue ⟨0x15, 15, c.setWidth 64, 0⟩])) ∧
    (rep.sync = true → ∃ t, exec (.creditCheck c rep ⟨n, parity⟩) s = .next t ∧ c ∉ t.core.creditFault ∧
      count t false = rep.heldO ∧ count t true = rep.heldR ∧
      (s.core.credSync = some c → t.core.credSync = none ∧ (t.th ranger).park ≠ some .command ∧
        ∀ j, j ≠ ranger → t.slot j = s.slot j) ∧
      (s.core.credSync ≠ some c → t.slots = s.slots ∧
        t.out = s.out ++ [.creditReport c ⟨(creditOf s c false).held, (creditOf s c true).held, rep.heldO, rep.heldR, true⟩]))


/-- R56, R270 to R274, R313, R400. The matrix queue's head clears a tile, fills it from memory, stores it there and writes its
token, or accumulates one pair of ring elements, each element by its eight groups, and moves both heads; a window that the
unit cannot read halts the queue with an event; a command whose chunk has not committed waits. SKIP drops the command, RETRY keeps it; both restart the queue. -/
def Obligations.MatrixUnitAtWork : Prop := ∀ (s : State) (c : MCmd) (cs : List MCmd), s.core.mq = c :: cs →
  let owes (r : FarRef) : Prop := (s.slot r.slot).occ = true ∧ ∃ x ∈ (s.th r.slot).far, x.seq = r.seq ∧ x.inc = r.inc
  let paid (t : State) (r : FarRef) (v : SVal) : Prop := (t.th r.slot).far = (s.th r.slot).far.map fun x =>
    if x.seq = r.seq ∧ x.inc = r.inc then { x with value := x.value.or (some (.scalar v none)) } else x
  let apart (a : Nat) : Prop := a / 64 ∉ s.pkg.hostLines ∧ ∀ z ∈ s.pkg.remoteCopies, z.2.1 ≠ a / 64 / 8
  (s.core.mqHalted = true → (∃ t, exec .skip s = .next t ∧ OnlyCore s t ∧ t.core = { s.core with mq := cs, mqHalted := false }) ∧
    ∃ t, exec .retry s = .next t ∧ OnlyCore s t ∧ t.core = { s.core with mqHalted := false }) ∧
  (mqStands s = false → c.wait.isSome = true → exec .matrixTileOp s = .next s) ∧
  (mqStands s = false → c.wait = none →
    (∀ d, c.op = .mzero d → ∃ t, exec .matrixTileOp s = .next t ∧ OnlyCore s t ∧ t.core.mq = cs ∧ getTile t d = ⟨0, 0, true⟩ ∧
      ∀ e, e ≠ d → getTile t e = getTile s e) ∧
    (∀ d r as, c.op = .mfill d r → tileHome s r [permR] = .ok as → ∃ t, exec .matrixTileOp s = .next t ∧ t.core.mq = cs ∧
      (getTile t d).valid = true ∧ (∀ e, e ≠ d → getTile t e = getTile s e) ∧ (∀ i, c.owner = .slot i → SameMem s.mem t.mem) ∧
      ∀ n, n < 1024 → let a := as.getD (4 * n) 0
        (getTile t d).elt n = s.mem.nat a 4 ∧ (getTile t d).poison.getLsbD n = s.mem.pois a) ∧
    (∀ d r k as, c.op = .mdrain d r k → owes k → let u := getTile s d
      (u.valid = false → ∃ t, exec .matrixTileOp s = .next t ∧ t.core.mq = cs ∧ SameMem s.mem t.mem ∧ paid t k (token 0 5 false)) ∧
      (u.valid = true → tileHome s r [permW] = .ok as → (∀ n, n < 512 → apart (as.getD (8 * n) 0)) → ∃ t, exec .matrixTileOp s = .next t ∧ t.core.mq = cs ∧ getTile t d = u ∧
        paid t k (token 4096 0 (decide (u.poison ≠ 0))) ∧
        SameMem ((List.range 512).foldl (fun m n => m.engineWord (as.getD (8 * n) 0)
          (leBytes 8 (u.elt (2 * n) + 2 ^ 32 * u.elt (2 * n + 1))) (u.poison.getLsbD (2 * n) || u.poison.getLsbD (2 * n + 1))) s.mem) t.mem)) ∧
    ∀ d a b n k fa fb, c.op = .mma d a b n k → a ≠ b → let ga := getRing s a
      let gb := getRing s b
      ga.occ ≠ 0 → gb.occ ≠ 0 →
      (tileFmt s ga = some fa → tileFmt s gb = some fb →
        let x := readTile s.mem fa s.core.table.items (headByte s ga)
        let y := readTile s.mem fb s.core.table.items (headByte s gb)
        ∃ t, exec .matrixTileOp s = .next t ∧ getRing t a = { ga with head := ga.head + 1 } ∧ getRing t b = { gb with head := gb.head + 1 } ∧
          (∃ c', t.core.mq = (if k + 1 = n then cs else c' :: cs) ∧ c'.op = .mma d a b n (k + 1)) ∧
          ((getTile s d).valid = false → getTile t d = getTile s d) ∧
          ((getTile s d).valid = true → (getTile t d).valid = true ∧ ∀ m, m < 1024 →
            (getTile t d).elt m = (List.range 8).foldl (fun acc g => accStep acc (groupOf x y m g)) ((getTile s d).elt m) % 2 ^ 32 ∧
            (getTile t d).poison.getLsbD m = ((getTile s d).poison.getLsbD m || (List.range 32).any (fun j =>
                x.elP.getD (32 * (m / 32) + j) false || y.elP.getD (32 * (m % 32) + j) false) ||
              x.scP.getD (m / 32) false || y.scP.getD (m % 32) false))) ∧
      (tileFmt s ga = none → ∃ t e, exec .matrixTileOp s = .next t ∧ t.core.mqHalted = true ∧ t.core.mq = s.core.mq ∧
        (getTile t d).valid = false ∧ SameMem s.mem t.mem ∧ t.agenda = s.agenda ++ [.eventEnqueue e] ∧ e.cause = 0x11 ∧
        e.slot = BitVec.ofNat 4 c.slot.val))

/-- R65, R238, R244 to R249, R263, R268, R370, R371, R373, R379. The copy engine moves one word with its poison, full, and
ends with its token at its last; it translates again where it must, and ends with STATUS 1 where that fails; it pauses for an
invalidation and goes on after it. A unit of another cluster's engine lands in the pad. A walker's token says what it did, once the
stores before it have landed; a pad line fills through the table as it stands, full where the range has no SYNC. A
failed engine's commands end with STATUS 9. A stream is fetched one element ahead, a definition is performed once nothing is
reserved, a window takes its format. -/
def Obligations.EnginesAtWork : Prop := ∀ (s : State),
  let owes (r : FarRef) : Prop := (s.slot r.slot).occ = true ∧ ∃ x ∈ (s.th r.slot).far, x.seq = r.seq ∧ x.inc = r.inc
  let paid (t : State) (r : FarRef) (v : SVal) : Prop := (t.th r.slot).far = (s.th r.slot).far.map fun x =>
    if x.seq = r.seq ∧ x.inc = r.inc then { x with value := x.value.or (some (.scalar v none)) } else x
  (∀ (c : EngCmd) (cs : List EngCmd), s.cl.engq = c :: cs → s.cl.units = [] → engFrozen s = false →
    let same (t : State) (c' : EngCmd) : Prop := t = { s with cl := { s.cl with engq := c' :: cs } }
    let fails (t : State) : Prop := t.cl.engq = cs ∧ SameMem s.mem t.mem ∧ (owes c.ref → paid t c.ref (token c.done 1 c.poison))
    (c.paused = false → invalPending s c.op.src.space = true → ∀ e : Instr, (e = .engineCommandRun ∧ c.check = false) ∨ (e = .engineRevalidate ∧ c.check = true) →
      ∃ t, exec e s = .next t ∧ same t { c with paused := true }) ∧
    (invalPending s c.op.src.space = false →
      (c.paused = false → c.check = true →
        (∀ a, engValid s c false = .ok a → ∃ t, exec .engineRevalidate s = .next t ∧ same t { c with check := false, paused := false }) ∧
        (engValid s c false = .bad → ∃ t, exec .engineRevalidate s = .next t ∧ fails t)) ∧
      (c.paused = true → (c.rows = none → ∃ t, exec .engineResume s = .next t ∧ same t { c with paused := false }) ∧
        (∀ a, c.rows ≠ none → c.left = none → engValid s c.anchored true = .ok a →
          ∃ t, exec .engineResume s = .next t ∧ same t { c.anchored with check := false, paused := false }) ∧
        (c.rows ≠ none → c.left = none → engValid s c.anchored true = .bad → ∃ t, exec .engineResume s = .next t ∧ fails t)) ∧
      ∀ src dst desc len rl rows ss ds x y f g, c.paused = false → c.check = false → c.op = .copy src dst none desc len → c.buf = [] →
        c.rows = some (rl, rows, ss, ds) → c.done ≠ rl * rows →
        devByte s src.space (rowVa src ss (c.done / rl) (c.done % rl)) [permR, permE] = .ok x f →
        devByte s dst.space (rowVa dst ds (c.done / rl) (c.done % rl)) [permW, permE] = .ok y g →
        y / 64 ∉ s.pkg.hostLines → (∀ z ∈ s.pkg.remoteCopies, z.2.1 ≠ y / 64 / 8) →
        ∃ t, exec .engineCommandRun s = .next t ∧ SameMem (s.mem.engineWord y (s.mem.bytes x 8) (s.mem.pois x)) t.mem ∧
          t.core = { s.core with images := t.core.images } ∧
          (c.done + 8 = rl * rows → t.cl.engq = cs ∧ (owes c.ref → paid t c.ref (token (rl * rows) 0 (c.poison || s.mem.pois x)))) ∧
          (c.done + 8 ≠ rl * rows → ∃ c', t.cl.engq = c' :: cs ∧ c'.op = c.op ∧ c'.done = c.done + 8 ∧ c'.poison = (c.poison || s.mem.pois x) ∧
            (c'.check = true ↔ c.done + 8 < rl * rows ∧ ((c.done + 8) % 65536 = 0 ∨ (c.done + 8) % rl = 0))))) ∧
  (∀ (who : Waiter) (off : Nat) (d : List Byte) (b : Bool), s.cl.units = [.pad who off d [b]] → d.length = 8 →
    padFirstBad s 0 [permW] off 8 = none → copiesGone s [padLoc s off / 64] = true →
    ∃ t, exec .engineCommandRun s = .next t ∧ t.cl.units = [] ∧ t.cl.engq = s.cl.engq ∧ SameMem (s.mem.engineWord (padLoc s off) d b) t.mem) ∧
  (∀ (r : FarRef) (base : WordRef) (n : Nat) (k : WalkCmd), k = .unstash r base n ∨ k = .flush r base n → owes r →
    invalPending s base.space = false →
    (∀ a, devSpan s base.space [permR] base.va n = .ok a → (n = 0 ∨ storesOut s base n = false) →
      ∃ t p, exec (.walkerRun k) s = .next t ∧ paid t r (token n 0 p) ∧ SameMem s.mem t.mem ∧
        (p = true → ∃ w ∈ s.mem.poison, walkCovers s base n (8 * w) = true)) ∧
    (∀ a, devSpan s base.space [permR] base.va n = .ok a → n ≠ 0 → storesOut s base n = true →
      exec (.walkerRun k) s = .next { s with agenda := s.agenda ++ [.walkerRun k] }) ∧
    (devSpan s base.space [permR] base.va n = .bad → ∃ t, exec (.walkerRun k) s = .next t ∧ paid t r (token 0 1 false) ∧ SameMem s.mem t.mem)) ∧
  (∀ (l a : Nat) (fe : Bool) (sp : Span), spanAt s (64 * l) = some sp → invalPending s sp.global.space = false →
    memByte s sp.global.space (sp.behind (64 * l)) [permR] = .ok a fe →
    ∃ t x w, exec (.padLineFill l) s = .next t ∧ t = { s with mem := t.mem, cl := { s.cl with spans := t.cl.spans } } ∧ (fe = true → t.mem = s.mem) ∧
      (s.mem.wf = true → ∀ x, t.mem.byte x = s.mem.byte x ∧ t.mem.pois x = s.mem.pois x ∧
        (t.mem.full x = true ↔ s.mem.full x = true ∨ (fe = false ∧ x / 64 = a / 64))) ∧ spanAt t (64 * l) = some x ∧
      x.pad = sp.pad ∧ x.len = sp.len ∧ x.global = sp.global ∧ x.filled.find? (fun y => y.1 = l) = some (l, a / 64, w) ∧
      (w = true ↔ ∃ b f, memByte s sp.global.space (sp.behind (64 * l)) [permW] = .ok b f)) ∧
  (∀ (c : EngCmd), s.cl.engq = [c] → owes c.ref → ∃ t, exec (.engineReset false) s = .next t ∧ t.cl.engq = [] ∧
    paid t c.ref (token c.done 9 c.poison) ∧ SameMem s.mem t.mem) ∧
  (∃ t, exec (.engineReset true) s = .next t ∧ walkCmds t.agenda = [] ∧ SameMem s.mem t.mem ∧
    ∀ k, walkCmds s.agenda = [k] → owes (walkerTok k) → paid t (walkerTok k) (token 0 9 false)) ∧
  (∀ (i : SlotN) (k : Fin 4) (r : RingN), let b := (s.th i).binds.get k
    canFetch s i k = true → b.kind = .pop r → let g := getRing s r
    let n := g.head.toNat + g.resvPop
    ∃ t, exec (.streamPrefetch i k) s = .next t ∧ getRing t r = { g with resvPop := g.resvPop + 1 } ∧ SameMem s.mem t.mem ∧
      (t.th i).binds.get k = { b with buf := b.buf ++ [(readVec s g n, setHas g.ends (n % 2 ^ g.log2n.toNat),
        setHas g.engs (n % 2 ^ g.log2n.toNat), none)] } ∧ (t.th i).regs = (s.th i).regs ∧ t.core = s.core) ∧
  (∀ (r : RingN) (a b : Word), let g := getRing s r
    g.pendDef = some (a, b) → g.resvPush = 0 → g.resvPop = 0 → ∃ t, exec (.rdefPerform r) s = .next t ∧
      t = { s with cl := { s.cl with rings := t.cl.rings } } ∧ (∀ q, q ≠ r → getRing t q = getRing s q) ∧
      getRing t r = ⟨true, a.extractLsb' 20 3, (a.extractLsb' 0 19).toNat, b.extractLsb' 0 2, b.extractLsb' 8 4,
        strideOf (fmtOf s (a.extractLsb' 20 3).toNat) (b.extractLsb' 0 2).toNat, 0, 0, 0, 0, false, false, false, [], [], none⟩) ∧
  ∀ (n : Fin 8) (f : BitVec 4), ∃ t, exec (.windowFormatApply n f) s = .next t ∧
    t = { s with cl := { s.cl with wfmt := t.cl.wfmt } } ∧ ∀ k, t.cl.wfmt.get k = if k = n then f else s.cl.wfmt.get k

/-- R236, R336 to R338, R359, R364 to R367, R370. A miss is looked for in the cluster's cache, then by a walk, which waits on
LOCK; both caches take the range found; where there is none, the waiting packets know. A range command starts once it is the
first of its space and LOCK is free, and takes LOCK; under it, it loads a range, or edits the table, and releases it with a new
GEN, and drops what the caches hold of the spans it changes; its token follows once every access under the old range is done.
RCOMPACT moves 256 bytes an edit under its mark. What a command cannot do it says in STATUS, the table as it was. -/
def Obligations.RangesChange : Prop :=
  (∀ (s : State) (sp : BitVec 16) (va : Nat),
  let found (l : List RCEntry) (d : RangeDesc) : Prop := rcFind l sp va = some d
  (∀ e : Instr, e = .rangeWalk sp va ∨ e = .rangeWalkRetry sp va →
    (∀ d, rcFind s.cl.rcache sp va = some d → ∃ t, exec e s = .next t ∧ OnlyCore s t ∧ found t.core.rcache d ∧ t.core.rcache.length ≤ 32) ∧
    (rcFind s.cl.rcache sp va = none → exec e s = .next (s.later [match walk s sp va with
      | .locked => .rangeWalkRetry sp va
      | .none => .rangeFill sp va none
      | .found d _ => .rangeFill sp va (some d)]))) ∧
  (∀ d : RangeDesc, d.base ≤ va → va < d.limit → ∃ t, exec (.rangeFill sp va (some d)) s = .next t ∧ found t.core.rcache d ∧
    found t.cl.rcache d ∧ t.core.rcache.length ≤ 32 ∧ t.cl.rcache.length ≤ 256 ∧ SameMem s.mem t.mem ∧ t.slots = s.slots) ∧
  ∃ t, exec (.rangeFill sp va none) s = .next t ∧ t.core = s.core ∧ t.cl = s.cl ∧ SameMem s.mem t.mem ∧
    ∀ i, t.th i = if (s.slot i).occ = true ∧ (s.th i).park = some .walk ∧ (s.th i).space = sp then { s.th i with miss := some va } else s.th i) ∧
  ∀ (s : State) (c : RangeCmd),
  let ends (t : State) (m : Memory) (done status : Nat) : Prop := SameMem m t.mem ∧ (∀ j ∈ t.pkg.rjobs, j.cmd ≠ c) ∧ c.space ∉ t.pkg.invals ∧
    ∀ r, c.ref = some r → (s.slot r.slot).occ = true → (∃ x ∈ (s.th r.slot).far, x.seq = r.seq ∧ x.inc = r.inc) →
      (t.th r.slot).far = (s.th r.slot).far.map fun x =>
        if x.seq = r.seq ∧ x.inc = r.inc then { x with value := x.value.or (some (.scalar (token done status false) none)) } else x
  let dropped (t : State) (spans : List (Nat × Nat)) : Prop :=
    (∀ e ∈ t.core.rcache ++ t.cl.rcache, e.space = c.space → ∀ x ∈ spans, x.2 ≤ e.d.base ∨ e.d.limit ≤ x.1) ∧
    ∀ x ∈ spans, .invalidate c.space x.1 x.2 ∈ t.out
  let edits (m : Memory) (spans : List (Nat × Nat)) (copying : Option RBlock) : Prop := ∃ t, exec (.rangeCommandExecute c) s = .next t ∧
    SameMem m t.mem ∧ dropped t spans ∧ c.space ∈ t.pkg.invals ∧ firstJob t c = some ⟨c, .inval spans 0 0 copying⟩
  let answers (m : Memory) (status : Nat) : Prop := ∃ t, exec (.rangeCommandExecute c) s = .next t ∧ ends t m 0 status
  let gen (m : Memory) (t : RTable) (g : Nat) (lock : Bool) : Memory :=
    m.store (t.dir + 12) (leBytes 4 (g % 2 ^ 31 + (if lock then 2 ^ 31 else 0))) false
  let released (m : Memory) (t : RTable) (n : Nat) : Memory := gen (m.store (t.dir + 8) (leBytes 4 n) false) t (t.gen + 1) false
  let row (q : RangeDesc) (t : RTable) (i : Nat) (m : Memory) : Memory := putDesc m (t.table + 64 * i) q
  (firstJob s c = some ⟨c, .new⟩ →
    ((dirEntry s c.space).isSome = false → answers s.mem 4) ∧
    ((dirEntry s c.space).isSome = true → (readBlock s c.block c.op = .refused → answers s.mem 4) ∧
      ∀ b, readBlock s c.block c.op = .ok b →
        (tableOf s c.space = .wait → exec (.rangeCommandExecute c) s = .next s) ∧
        (tableOf s c.space = .none → c.op ≠ .rinval → answers s.mem 6) ∧
        (tableOf s c.space = .none → c.op = .rinval → (b.limit ≤ b.va → answers s.mem 4) ∧
          (b.va < b.limit → edits s.mem [(b.va, b.limit)] none)) ∧
        ∀ t, tableOf s c.space = .ok t → ∃ u, exec (.rangeCommandExecute c) s = .next u ∧ SameMem (gen s.mem t t.gen true) u.mem ∧
          firstJob u c = some ⟨c, .locked b⟩)) ∧
  (∀ b t, firstJob s c = some ⟨c, .locked b⟩ → tableNow s c.space = some t → let same := gen s.mem t t.gen false
    (c.op = .rload → (rangeAt s t b.va = none → answers same 6) ∧ ∀ i d, rangeAt s t b.va = some (i, d) →
      ∃ u, exec (.rangeCommandExecute c) s = .next u ∧ ends u (gen s.mem t (t.gen + 1) false) 0 0 ∧
        rcFind u.core.rcache c.space b.va = some d ∧ rcFind u.cl.rcache c.space b.va = some d) ∧
    (c.op = .rinval → (b.limit ≤ b.va → answers same 4) ∧
      (b.va < b.limit → edits (gen s.mem t (t.gen + 1) false) [(b.va, b.limit)] none)) ∧
    (c.op = .rsplit → (rangeAt s t b.va = none → answers same 6) ∧ ∀ i q, rangeAt s t b.va = some (i, q) →
      (b.va = q.base ∨ splitBad b q = true → answers same 4) ∧
      (b.va ≠ q.base → splitBad b q = false → (2 ^ 20 ≤ t.count → answers same 8) ∧
        (t.count < 2 ^ 20 → edits (released (row ⟨b.va, q.limit, max q.wmark b.va, q.phys + (b.va - q.base), b.perm, b.attr ||| 0x80, 0, 0⟩ t
          (i + 1) (row { q with limit := b.va, wmark := min q.wmark b.va } t i (rowsUp s.mem t.table (i + 1) t.count))) t (t.count + 1))
          [(q.base, q.limit)] none))) ∧
    (c.op = .rmerge → (rangeAt s t (b.va - 1) = none ∨ rangeAt s t b.va = none → answers same 6) ∧
      ∀ i lo j hi, rangeAt s t (b.va - 1) = some (i, lo) → rangeAt s t b.va = some (j, hi) →
      (lo.limit ≠ b.va ∨ hi.base ≠ b.va → answers same 6) ∧
      (lo.limit = b.va → hi.base = b.va →
        let fits := lo.perm = hi.perm ∧ lo.attr = hi.attr ∧ lo.wmark = lo.limit ∧ hi.phys = lo.phys + (b.va - lo.base)
        (¬ fits → answers same 7) ∧
        (fits → edits (released (rowsDown (row { lo with limit := hi.limit, wmark := hi.wmark } t i s.mem) t.table j (t.count - 1)) t
          (t.count - 1)) [(lo.base, lo.limit), (hi.base, hi.limit)] none))) ∧
    (c.op = .rgrow → (rangeAt s t (b.va - 1) = none → answers same 6) ∧ ∀ i q, rangeAt s t (b.va - 1) = some (i, q) →
      (b.va ≤ q.base → answers same 6) ∧ (q.base < b.va → b.va ≤ q.wmark → answers same 4) ∧
      (q.base < b.va → q.wmark < b.va → edits (released (growFull (row { q with wmark := b.va } t i s.mem) q q.wmark b.va) t t.count)
        [(q.base, q.limit)] none)) ∧
    (c.op = .rcompact → (rangeAt s t b.va = none → answers same 6) ∧ ∀ i q, rangeAt s t b.va = some (i, q) →
      (q.place = 2 ∨ physOk s.pkg.mgmt.pkg q b.phys = false → answers same 4) ∧
      (q.place ≠ 2 → physOk s.pkg.mgmt.pkg q b.phys = true →
        edits (released (row { q with attr := q.attr ||| 0x40, newPhys := b.phys, mark := q.base } t i s.mem) t t.count)
          [(q.base, q.limit)] (some b)))) ∧
  (∀ spans done st,
    (∀ copying, firstJob s c = some ⟨c, .inval spans done st copying⟩ → invalOver s c.space spans = false →
      exec (.rangeCommandExecute c) s = .next s) ∧
    (invalOver s c.space spans = true →
      (firstJob s c = some ⟨c, .inval spans done st none⟩ → ∃ t, exec (.rangeCommandExecute c) s = .next t ∧ ends t s.mem done st) ∧
      ∀ b, firstJob s c = some ⟨c, .inval spans done st (some b)⟩ → ∃ t, exec (.rangeCommandExecute c) s = .next t ∧
        firstJob t c = some ⟨c, .copy b false⟩ ∧ SameMem s.mem t.mem)) ∧
  ∀ b t i q, tableNow s c.space = some t → compacting s t b = some (i, q) → copyReady s c q = true →
    (firstJob s c = some ⟨c, .copy b false⟩ → tableOf s c.space = .ok t → ∃ u, exec (.rangeCommandExecute c) s = .next u ∧
      SameMem (gen s.mem t t.gen true) u.mem ∧ firstJob u c = some ⟨c, .copy b true⟩) ∧
    (firstJob s c = some ⟨c, .copy b true⟩ →
      (q.wmark ≤ q.mark → ∃ u, exec (.rangeCommandExecute c) s = .next u ∧ dropped u [(q.base, q.limit)] ∧
        firstJob u c = some ⟨c, .inval [(q.base, q.limit)] (q.wmark - q.base) 0 none⟩ ∧
        SameMem (released (row { q with phys := q.newPhys, attr := q.attr &&& 0xBF, newPhys := 0, mark := 0 } t i s.mem) t t.count) u.mem) ∧
      (q.mark < q.wmark → ∃ u, exec (.rangeCommandExecute c) s = .next u ∧ firstJob u c = some ⟨c, .copy b false⟩ ∧
        dropped u [(q.mark, q.mark + 256)] ∧
        SameMem (released (row { q with mark := q.mark + 256 } t i ((List.range 32).foldl (fun m k =>
          m.engineWord (placeAddr { q with mark := q.mark + 256 } (q.mark + 8 * k)) (s.mem.bytes (placeAddr q (q.mark + 8 * k)) 8)
            (s.mem.pois (placeAddr q (q.mark + 8 * k)))) s.mem)) t t.count) u.mem))

/-- R304, R313, R316, R317, R319, R321, R324, R330, R331, R385. An event takes its place among at most 64, or comes again. The
ranger, not handling, is given the next item with its registers loaded and goes to its vector entry. Timer, pre-emption and
the host set their bits of IRQPEND. A slot told to stop is killed at its next packet, a region undone, and has stopped once the
kill is applied. A write of TREG or TRAPPC
reaches the thread; RESUME returns a trapped slot to its resume PC, or marks a saved waiter; a value owed to an image lands in
its words. -/
def Obligations.TheRangersWork : Prop :=
  (∀ (s : State) (e : EventRec) (x : Instr), x = .eventEnqueue e ∨ x = .eventRetry e →
    (s.core.events.length < 64 → exec x s = .next { s with core := { s.core with events := s.core.events ++ [e] } }) ∧
    (64 ≤ s.core.events.length → exec x s = .next { s with agenda := s.agenda ++ [.eventRetry e] })) ∧
  (∀ (s : State) (x : Item) (as : List Nat), rangerFree s = true → pendingItem s = some x →
    devAddrs s (s.th 15).space [permX] (vaOf (s.th 15).creach (s.core.priv.vtab + BitVec.ofNat 64 (8 * itemCause x))) 8 = .ok as →
    s.mem.gatherP as = false →
    ∃ t, exec .rangerDispatch s = .next t ∧ (t.th 15).pc = BitVec.ofNat 64 (leNat (s.mem.gather as)) ∧ (t.th 15).park = none ∧
      (∀ r, ((t.th 15).regs.s r).val = ((s.th 15).regs.s r).val) ∧ t.core.priv.handling = true ∧ SameMem s.mem t.mem ∧
      let p := t.core.priv
      match x with
      | .irq k => p.cause = BitVec.ofNat 14 (0x20 + k + 2 ^ 8 * 15 + 2 ^ 12 * 2) ∧ p.pc = 0 ∧ p.info = 0 ∧ p.fromPc = 0 ∧ p.aux = 0 ∧
          t.core.events = s.core.events
      | .trap i r => p.cause = BitVec.ofNat 14 (r.t.cause.toNat + 2 ^ 8 * i.val) ∧ p.pc = r.pc ∧ p.info = r.t.info ∧ p.fromPc = r.from_ ∧
          p.aux = r.t.aux ∧ t.core.events = s.core.events ∧ (i ≠ 15 → (t.slot i).trap = some { r with fresh := false })
      | .event e => p.cause = BitVec.ofNat 14 (e.cause.toNat + 2 ^ 8 * e.slot.toNat + 2 ^ 12) ∧ p.pc = 0 ∧ p.info = e.info ∧
          p.fromPc = 0 ∧ p.aux = e.aux ∧ t.core.events = s.core.events.drop 1) ∧
  (∀ (s : State), (∃ t, exec .timerInterrupt s = .next t ∧ t = { s with pkg := { s.pkg with timeb := t.pkg.timeb } } ∧ (irqPend t).getLsbD 0 = true) ∧
    (∃ t, exec .preemptInterrupt s = .next t ∧ OnlyPriv s t { s.core.priv with irqpend := s.core.priv.irqpend ||| 2 }) ∧
    ∀ c w, (c = s.core.id → ∃ t, exec (.hostMessage c w) s = .next t ∧
        OnlyPriv s t { s.core.priv with hostmsg := w, irqpend := s.core.priv.irqpend ||| 16 }) ∧
      (c ≠ s.core.id → exec (.hostMessage c w) s = .next s)) ∧
  (∀ (s : State) (v : Word), let i := fin16 (s.core.priv.cause.extractLsb' 8 4).toNat
    (∀ r, (s.slot i).trap = some r → i ≠ 15 → ∃ t, exec (.trappcWrite v) s = .next t ∧ OnlyAt s t i ∧ t.th i = s.th i ∧
      (t.slot i).trap = some { r with resume := v }) ∧
    (∀ j r, tregOf s = .reg j r → ∃ t, exec (.tregWrite v) s = .next t ∧ OnlyAt s t j ∧
      ∀ q : SReg, ((t.th j).regs.s q).val = if q = r then v else ((s.th j).regs.s q).val) ∧
    (tregOf s = .none → exec (.tregWrite v) s = .next s)) ∧
  (∀ (s : State) (m : BitVec 15), ∃ t, exec (.preemptStop m) s = .next t ∧ SameMem s.mem t.mem ∧ t.part = s.part ∧ ∀ i : SlotN,
    let hit := m.getLsbD i.val = true ∧ (s.slot i).stop = true ∧ (s.slot i).stopped = false ∧ (s.slot i).halting = false
    (¬ hit → t.slot i = s.slot i) ∧
    (hit → (s.slot i).occ = true → (s.slot i).trap = none → (∀ c, (s.th i).park ≠ some (.hike c)) → (s.th i).late = none →
      (s.th i).sync = none → (s.th i).await = none → (t.slot i).halting = true ∧ (t.slot i).stopped = false ∧ .killApply i ∈ t.agenda ∧
      (t.slot i).occ = true ∧ (t.th i).inc = (s.th i).inc + 1 ∧ (t.th i).cur.npkts = 0 ∧
      ((s.th i).reg.isOpen = false → (t.th i).pc = (s.th i).pc ∧ (t.th i).park = keptPark (s.th i).park ∧
        (t.th i).ended = (s.th i).ended ++ (if (s.th i).cur.npkts = 0 then [] else [(s.th i).cur]) ∧
        ∀ r, ((t.th i).regs.s r).val = ((s.th i).regs.s r).val) ∧
      ((s.th i).reg.isOpen = true → (t.th i).pc = (s.th i).reg.next ∧ (t.th i).ended = (s.th i).ended ∧ (t.th i).reg.isOpen = true ∧
        ∀ r, ((t.th i).regs.s r).val = ((s.th i).cur.ckpt.s r).val))) ∧
  (∀ (s : State) (i : SlotN), (s.slot i).occ = true → (s.slot i).halting = true → (s.slot i).trap = none → (s.th i).flight = [] →
    exec (.killApply i) s = .next (s.setSlot i { s.slot i with halting := false, stopped := true })) ∧
  (∀ (s : State) (w : BitVec 18), let i := fin16 (w.extractLsb' 14 4).toNat
    s.agenda.any (fun e => match e with | .killApply j => decide (j = i) | _ => false) = false → s.core.contained = false →
    (∀ r, (s.slot i).trap = some r → ∃ t, exec (.resumeCommand w) s = .next t ∧ OnlyAt s t i ∧ (t.slot i).trap = none ∧
      (t.th i).pc = r.resume ∧ (t.th i).regs = (s.th i).regs) ∧
    (∀ m, (s.slot i).trap = none → waiterOf s i = some m → ∃ t, exec (.resumeCommand w) s = .next t ∧ OnlyCore s t ∧
      t.core = { s.core with images := t.core.images } ∧ ∀ x, x ∈ t.core.images ↔ ∃ y ∈ s.core.images, x = if y.id = m.id then { y with resumed := true } else y)) ∧
  ∀ (s : State) (m : Image) (e : FarEntry) (x : SVal) (g : Tag) (p a : Nat), s.core.images.find? (fun y => y.id = m.id) = some m →
    m.owed.find? (fun y => y.1.seq = e.seq) = some (e, [p]) → e.value = some (.scalar x g) → 0 < p → p < 8 → s.mem.wf = true →
    (∀ k, k < 16 → m.lines.getD k 0 = 64 * (a + k)) →
    ∃ t, exec (.imageArrival m.id e.seq) s = .next t ∧ readWord t.mem m.lines (3 + p) = x.v.toNat ∧
      readWord t.mem m.lines 24 = readWord s.mem m.lines 24 - 1 ∧ t.slots = s.slots ∧
      ∀ y ∈ t.core.images, y.id = m.id → ∀ z ∈ y.owed, z.1.seq ≠ e.seq

/-- R152, R358, R375 to R378, R380, R381, R405. A corrected error is counted, an uncorrectable one poisons its word, a soft
error its register, lane or element; where no memory answers, the run stops. A core contained is sealed and empty: its slots,
queue, pack and arrivals, a thread excepted that another package or the host has still to answer; its supervisor hears of it; values an image is still owed come no more. A partition contained
stops and ends its running launches; its reset leaves it as a reset does, with the launches that had not run queued. -/
def Obligations.ErrorsAndContainment : Prop := ∀ (s : State),
  (∀ a, (hasMemory a = false → exec (.eccCorrected a) s = .fault .noMemory ∧ exec (.eccUncorrectable a) s = .fault .noMemory) ∧
    (hasMemory a = true → (∃ t, exec (.eccCorrected a) s = .next t ∧ t = { s with pkg := { s.pkg with corrected := s.pkg.corrected + 1 } }) ∧
      (s.mem.wf = true → ∃ t, exec (.eccUncorrectable a) s = .next t ∧ t = { s with mem := t.mem } ∧ ∀ b, t.mem.byte b = s.mem.byte b ∧
        t.mem.full b = s.mem.full b ∧ t.mem.pois b = (decide (b / 8 = a / 8) || s.mem.pois b)))) ∧
  (∀ (i : SlotN) (r : SReg), ∃ t, exec (.registerSoftError (.scalar i r)) s = .next t ∧ OnlyAt s t i ∧
    (∀ q, ((t.th i).regs.s q).val = ((s.th i).regs.s q).val) ∧ (r ≠ 0 → ((t.th i).regs.s r).p = true)) ∧
  (∀ (i : SlotN) (r : PReg), ∃ t, exec (.registerSoftError (.predicate i r)) s = .next t ∧ OnlyAt s t i ∧
    (∀ q, ((t.th i).regs.p q).m = ((s.th i).regs.p q).m) ∧ (r ≠ 0 → ((t.th i).regs.p r).p = true)) ∧
  (∀ (e : Fin 128) (l : Fin 32), ∃ t, exec (.registerSoftError (.lane e l)) s = .next t ∧ OnlyCore s t ∧
    ∀ k j, j < 32 → (t.core.pool.get k).v.bits = (s.core.pool.get k).v.bits ∧
      (t.core.pool.get k).v.poison.getLsbD j = ((decide (k = e) && decide (j = l.val)) || (s.core.pool.get k).v.poison.getLsbD j)) ∧
  (∀ (d : TileN) (n : Fin 1024), ∃ t, exec (.registerSoftError (.element d n)) s = .next t ∧ OnlyCore s t ∧
    ∀ k j, j < 1024 → (getTile t k).bits = (getTile s k).bits ∧ (getTile t k).valid = (getTile s k).valid ∧
      (getTile t k).poison.getLsbD j = ((decide (k = d) && decide (j = n.val)) || (getTile s k).poison.getLsbD j)) ∧
  (∀ l, ∃ t, exec (.channelThreshold l) s = .next t ∧ t = { s with pkg := { s.pkg with spans := s.pkg.spans ++ l }, out := s.out ++ [.firmware 1] }) ∧
  (∀ c, s.core.contained = false → ∃ t, exec (.coreContain c) s = .next t ∧ t.core.contained = true ∧ t.core.sealed = true ∧ t.core.mq = [] ∧
    t.core.pack = [] ∧ t.core.arrivals = [] ∧ t.core.waiting = none ∧ (∀ k, t.core.tiles.get k = ⟨0, 0, false⟩) ∧
    (∀ i, i ≠ 15 → (t.slot i).occ = true → isResident i = true ∧ (askedAway (t.th i) = true ∨ savable (t.th i) = false)) ∧
    t.out.getLast? = some (.event (supervisor s) ⟨0x16, 15, s.core.id.setWidth 64, c.setWidth 64⟩)) ∧
  (s.core.contained = true → ∃ t, exec .containOwedTimeout s = .next t ∧
    ((∀ i, isResident i = true → (s.slot i).occ = false) → t.slots = s.slots) ∧ ∀ m ∈ t.core.images, ∀ e ∈ m.owed, e.1.value.isSome = true) ∧
  (s.part.contained = false → ∃ t, exec .partitionContain s = .next t ∧ t.part.contained = true ∧ t.core.halted = true ∧ .partitionStop ∈ t.out ∧
    ∀ l ∈ t.part.launches, l.st ≠ .fanned ∧ l.st ≠ .closing) ∧
  (s.part.contained = true ∨ s.core.contained = true → ∃ t, exec .partitionReset s = .next t ∧ t.part.contained = false ∧
    t.core.contained = false ∧ t.core.id = s.core.id ∧ t.core.pack = [] ∧ t.core.launch = none ∧ (∀ i, i ≠ 15 → t.slot i = .vacant) ∧
    (∀ l ∈ t.part.launches, l.st = .queued ∨ l.st = .chosen) ∧ (s.part.cfg = none → t.slot 15 = .vacant) ∧
    ∀ c, s.part.cfg = some c → (t.slot 15).occ = true ∧ (t.th 15).pc = c.rgPc ∧ (t.th 15).space = c.spaceLo ∧ (t.th 15).creach = c.rgReach ∧
      (t.th 15).regs.reach 0 = c.rk0 ∧ t.core.priv.spillctl = c.spillctl ∧ t.core.priv.packspill = c.packspill)

/-- R345 to R348, R354, R357, R386, R405. A DOORBELL is refused, with its entry or its count of losses, or accepted: the next
SEQ, a copy of the packet's fields, ACCEPTED; one that waits for a walk stays first. CANCEL removes a queued launch, marks a dispatched one, stops a fanned-out one.
A dependency word is sampled at its home; the eligible launch of the highest priority is chosen, waits for its credit, and leaves
as a hiker with what the stub needs. An entry moves HEAD on and may raise the vector. -/
def Obligations.LaunchesQueued : Prop :=
  (∀ (s : State) (e : JEntry) (c : PartCfg), s.part.cfg = some c → let t := append s e
    t.part.jhead = s.part.jhead + 1 ∧ t.slots = s.slots ∧ t.core = s.core ∧ t.cl = s.cl ∧ t.part.launches = s.part.launches ∧
      (t.part.msix = (s.part.msix || raisesMsix e.state)) ∧
      t.out = s.out ++ if raisesMsix e.state && !s.part.msix then [.msix] else []) ∧
  (∀ (ls : List Launch) (l : Launch), bestOf ls = some l → l ∈ ls ∧ ∀ m ∈ ls, m.prio ≤ l.prio) ∧
  (∀ (s : State) (c : PartCfg) (off : Word), portOpen s = some c →
    let span := devSpan s c.spaceLo [permR] (vaOf c.lreach off) 256
    let refused := off.toNat % 256 ≠ 0 ∨ 64 ≤ queuedCount s ∨ jRoom s 4 = false ∨ span = .bad
    (refused → jRoom s 1 = true → exec (.doorbell off) s =
      .next (append { s with part := { s.part with full := true } } ⟨0, 4, 0x13, 1, 0, off, 0, 0, 0, 0⟩)) ∧
    (refused → jRoom s 1 = false → ∃ t, exec (.doorbell off) s = .next t ∧ t.part.full = true ∧ t.part.jhead = s.part.jhead ∧
      t.part.lost.toNat = min 0xFFFF (s.part.lost.toNat + 1) ∧ SameMem s.mem t.mem) ∧
    (¬refused → span = .wait → exec (.doorbell off) s = .next { s with agenda := .doorbell off :: s.agenda }) ∧
    (∀ a as, off.toNat % 256 = 0 → queuedCount s < 64 → jRoom s 4 = true → span = .ok a →
      devAddrs s c.spaceLo [permR] (vaOf c.lreach off) 256 = .ok as → let q := s.part.lastSeq + 1
      (∀ l ∈ s.part.launches, l.seq ≠ q) → let bs := s.mem.gather as
      ∃ t l, exec (.doorbell off) s = .next t ∧ t.part.lastSeq = q ∧ t.part.doorSeq = q ∧ t.part.full = false ∧
        t.part.jhead = s.part.jhead + 1 ∧ findLaunch t q = some l ∧ l.packet = off ∧ l.st = .queued ∧ l.resv = 2 ∧
        l.dreach.toNat = fieldAt bs 10 2 ∧ l.space.toNat = fieldAt bs 12 2 ∧ l.prio = fieldAt bs 14 1 % 4 ∧ l.flags.toNat = fieldAt bs 15 1 ∧
        l.depw.toNat = fieldAt bs 72 8 ∧ l.start.toNat = fieldAt bs 88 8 ∧ l.tol = fieldAt bs 96 4 ∧ l.retry = fieldAt bs 100 4 ∧
        l.gang.toNat = fieldAt bs 104 8)) ∧
  (∀ (s : State) (q : BitVec 32), let s1 := { s with part := { s.part with cancel := q } }
    (findLaunch s q = none → exec (.cancel q) s = .next s1) ∧ ∀ l, findLaunch s q = some l →
      (l.st = .queued ∨ l.st = .chosen → exec (.cancel q) s = .next (appendLast s1 l ⟨q, 4, 0, 2, 0, l.packet, doneCount l, 0, l.recorded, 0⟩)) ∧
      (l.st = .dispatched → ∃ t, exec (.cancel q) s = .next t ∧ findLaunch t q = some { l with st := .cancelled } ∧ t.slots = s.slots ∧
        t.core = s.core) ∧
      (l.st = .fanned → l.stopping = false → ∃ t x, exec (.cancel q) s = .next t ∧ findLaunch t q = some x ∧ x.stopping = true ∧
        SameMem s.mem t.mem ∧ (∀ sh, s.core.waiting = some sh → sh.info.seq = q → t.core.waiting = none) ∧
        ∀ k, s.core.launch = some k → k.sh.info.seq = q → k.reported = false → t.core.launch = some { k with stopped := true } ∧
          t.core.pack = [] ∧ ∀ i, isResident i = true → (s.slot i).occ = true → (t.slot i).stopped = true ∨ (t.slot i).halting = true ∨
            (t.slot i).trap.isSome = true ∨ ∃ w, (s.th i).park = some (.hike w))) ∧
  (∀ (s : State), ∃ t, exec .dependencySample s = .next t ∧ t = { s with part := { s.part with launches := t.part.launches } } ∧
    ∀ k : Nat, t.part.launches[k]? = (s.part.launches[k]?).map fun l =>
      if l.st = .queued ∧ l.flags.getLsbD 5 = true then { l with depFull := depSample s l } else l) ∧
  (∀ (s : State) (l : Launch), depSample s l = true ↔ l.depw.toNat % 8 = 0 ∧ l.dreach ≠ 0xFFFF ∧
    ∃ a, memByte s l.space (vaOf l.dreach l.depw) [permR] = .ok a true ∧ s.mem.pois a = false ∧ s.mem.full a = true) ∧
  ∀ (s : State) (c : PartCfg) (l : Launch), portOpen s = some c → s.part.contained = false → fanoutIdle s = true →
    (chosenLaunch s = some l ∨ (chosenLaunch s = none ∧ bestOf (s.part.launches.filter (eligible (readTime s).1)) = some l)) →
    (c.trail = s.core.id → s.part.portCredit = 0 → s.part.portTicket = none → entryFree s false = false → ∃ t,
      exec .launchDispatch s = .next t ∧ t.part.portTicket = some s.core.ticketsO.next ∧ t.part.portCredit = 0 ∧ t.out = s.out ∧
      t.agenda = s.agenda ∧ ∀ x, findLaunch s l.seq = some x → findLaunch t l.seq = some { x with st := .chosen }) ∧
    (l.flags.getLsbD 2 = false → s.part.portCredit ≠ 0 →
    ∃ t k, exec .launchDispatch s = .next t ∧ k.pc = c.stubPc ∧ k.creach = c.stubReach ∧ k.space = c.spaceLo ∧ k.dest = c.trail ∧
      k.reply = false ∧ k.mark = some (l.seq, l.packet) ∧ k.k.get 0 = c.lreach ∧ k.q = 0 ∧
      (∀ j : Fin 15, k.s.get j = ⟨if j = 0 then l.packet else if j = 1 then l.seq.setWidth 64 else 0, false⟩) ∧ t.part.portCredit = 0 ∧
      (∀ x, findLaunch s l.seq = some x → findLaunch t l.seq = some { x with st := .dispatched }) ∧
      (c.trail = s.core.id → t.agenda = s.agenda ++ [.hikerArrival (hikerMsg k)]) ∧
      (c.trail ≠ s.core.id → t.out = s.out ++ [.hiker (hikerMsg k)]))

/-- R73, R350 to R353, R355, R401. A share waits on its core; a timed one starts once a reading of TIMEB has reached START; a
strict gang of one START starts when every core of it is ready, or is queued again later. A share's report joins its launch; the last one
ends it: the completion word takes SEQ and is full, then DONE, or PARTLY DONE, is written; a word of another package is asked for
first. A swap stops every slot, saves the partition's state, and gives it back as it was. A twin's difference is recorded. -/
def Obligations.LaunchesRun : Prop :=
  (∀ (s : State) (sh : Share) (l : Launch), findLaunch s sh.info.seq = some l → l.st = .fanned → l.stopping = false →
    s.core.waiting = none → ∃ t, exec (.shareDeliver sh) s = .next t ∧ OnlyCore s t ∧ t.core = { s.core with waiting := some sh }) ∧
  (∀ (s : State) (g b : Word) (c : CoreId) (l : Launch), l ∈ gangMembers s g b → findLaunch s l.seq = some l →
    ∃ t x, exec (.gangReady ⟨g, b⟩ c) s = .next t ∧ findLaunch t l.seq = some x ∧ t.slots = s.slots ∧ t.core = s.core ∧ SameMem s.mem t.mem ∧
      ((∃ sh, (sh, c) ∈ l.shares) → c ∈ x.readyCores) ∧ (x.go = true → ∀ y ∈ l.shares, y.2 ∈ x.readyCores)) ∧
  (∀ (s : State) (g b : Word) (l : Launch), gangMembers s g b = [l] → findLaunch s l.seq = some l →
    ∃ t x, exec (.gangTimeout ⟨g, b⟩) s = .next t ∧ t.part.launches.getLast? = some x ∧ findLaunch t l.seq = some x ∧ x.st = (if l.st = .dispatched then .dispatched else .queued) ∧
      x.start = l.start + BitVec.ofNat 64 l.retry ∧ x.shares = [] ∧ x.readyCores = [] ∧
      (∀ k, t.core.launch = some k → k.sh.info.seq ≠ l.seq) ∧ ∀ sh, t.core.waiting = some sh → sh.info.seq ≠ l.seq) ∧
  (∀ (s : State) (l : CoreLaunch), s.core.launch = some l → l.started = false → l.stopped = false → l.reported = false →
    gangGo s l.sh.info = true → let now := (readTime s).1
    ∃ t, exec .timedStart s = .next t ∧ t.slots = s.slots ∧
      t.core.launch = some (if now.toNat < l.sh.info.start.toNat then l else { l with started := true })) ∧
  (∀ (s : State) (l : CoreLaunch) (x : Launch) (r : ShareReport), findLaunch s r.seq = some x →
    (s.core.launch = some l → l.sh.info.seq = r.seq → l.sh.share = r.share → l.reported = false → l.stopped = false → shareOver s l = true →
      ∃ t, exec (.coreShareFinished r) s = .next t ∧ t.core.launch = some { l with reported := true } ∧
        findLaunch t r.seq = some { x with
          shares := x.shares.filter (fun y => y.1.share ≠ r.share), donesh := x.donesh ++ [(r.share, l.sh.hi - l.sh.lo)],
          check := mergeCheck x.check l.check }) ∧
    ∀ sh d, s.core.launch = none → x.flags.getLsbD 0 = false → r.killed = [] →
      x.shares.find? (fun y => decide (y.1.share = r.share) && decide (y.2 ≠ s.core.id)) = some (sh, d) →
      let y := if r.count = 0 ∨ x.started then x else { x with resv := x.resv - 1, started := true }
      ∃ t, exec (.coreShareFinished r) s = .next t ∧ t.core = s.core ∧ findLaunch t r.seq = some { y with
        shares := x.shares.filter (fun y => y.1.share ≠ r.share),
        donesh := if r.count = sh.hi - sh.lo then x.donesh ++ [(r.share, r.count)] else x.donesh
        check := mergeCheck x.check r.check }) ∧
  (∀ (s : State) (l : Launch), findLaunch s l.seq = some l → l.st = .fanned → l.shares = [] → launchStoresOut s = true →
    let done : JEntry := ⟨l.seq, 3, 0, 0, l.check, l.packet, doneCount l, 0, l.recorded, 0⟩
    (l.stopping = true → exec (.launchDone l.seq) s = .next (appendPartly s l 0)) ∧
    (l.stopping = false → l.flags.getLsbD 6 = false → exec (.launchDone l.seq) s = .next (appendLast s l done)) ∧
    ∀ a, l.stopping = false → l.flags.getLsbD 6 = true → memByte s l.space (vaOf l.dreach l.donew) [permW] = .ok a true →
      l.donew.toNat % 8 = 0 → l.dreach ≠ 0xFFFF →
      (isRemote s a = true → rangerAsks s = false → portAsks s = false → ∃ t n, exec (.launchDone l.seq) s = .next t ∧
        findLaunch t l.seq = some { l with st := .closing } ∧ t.part.jhead = s.part.jhead ∧
        t.pkg.e2eKept = s.pkg.e2eKept ++ [(packageOf a, ⟨s.pkg.mgmt.pkg, 0, n, .atomic (doneOp l a) (doneWaiter s) false⟩)]) ∧
      (isRemote s a = false → opFree s 15 (doneOp l a) = true →
      ∃ u, exec (.launchDone l.seq) s = .next (appendLast u l done) ∧
        SameMem ((s.mem.store a (leBytes 8 l.seq.toNat) false).setFull a true) u.mem ∧ u.core = s.core ∧ u.part = s.part)) ∧
  (∀ (s : State) (l : Launch), s.part.launches.find? (fun l => decide (l.st = .closing)) = some l →
    doneReply s = appendLast s l ⟨l.seq, 3, 0, 0, l.check, l.packet, doneCount l, 0, l.recorded, 0⟩) ∧
  (∀ (s : State), (s.part.swap = .here → ∃ t, exec .partitionSwapOut s = .next t ∧ t.part.swap = .asked ∧
      OnlyPriv s { t with part := s.part, out := s.out, agenda := s.agenda } { s.core.priv with irqpend := s.core.priv.irqpend ||| 2 } ∧
      t.agenda = s.agenda ++ [.partitionSwapOut] ∧ t.out = s.out ++ [.preempt s.core.id]) ∧
    (s.part.swap = .asked → allStopped s = false → exec .partitionSwapOut s = .next { s with agenda := s.agenda ++ [.partitionSwapOut] }) ∧
    let same (t : State) : Prop := t.part.swap = .here ∧ t.part.shadow = none ∧ t.core = s.core ∧ SameMem s.mem t.mem ∧ t.cl = s.cl ∧
      ∀ i, t.slot i = { s.slot i with stop := false, stopped := s.core.halted, halting := false }
    (s.part.swap = .asked → s.part.shadow = none → ∃ t, exec .partitionSwapIn s = .next t ∧ same t) ∧
    (s.part.swap = .asked → allStopped s = true → (s.slot 15).stopped = true → swapReady s = true → s.mem.wf = true →
      ∃ t u, exec .partitionSwapOut s = .next t ∧ t.part.swap = .out ∧ (∀ i, t.slot i = .vacant) ∧ t.core.mq = [] ∧ t.cl.engq = [] ∧
        (∀ k, t.core.pool.get k = ⟨⟨0, 0⟩, 0⟩) ∧ (∀ k, t.core.tiles.get k = ⟨0, 0, false⟩) ∧ (∀ r : RingN, (getRing t r).defd = false) ∧
        (∀ a, t.mem.byte a = if anonPad s (a / 8) then 0 else s.mem.byte a) ∧
        exec .partitionSwapIn t = .next u ∧ same u)) ∧
  ∀ (s : State) (l : Launch), findLaunch s l.seq = some l → ∃ t, exec (.twinMismatch l.seq) s = .next t ∧
    findLaunch t l.seq = some { l with mismatch := true } ∧ l.seq ∈ t.pkg.mgmt.mismatches ∧ t.slots = s.slots ∧ t.core = s.core ∧ SameMem s.mem t.mem

/-- R384, R390 to R394. A good flit of the number expected is taken and answered, any other is answered once with the number
wanted; an acknowledgement ends the replay of what it covers; a negative one, or none in time, sends the rest again, and the
eighth time the link retrains to a half without failed lanes, or goes down and its messages take other links. Messages between
packages are performed in order, once, and acknowledged end to end, after which they are kept no longer. Packages that go take the partition with them if it waits for them. -/
def Obligations.LinksCarryMessages : Prop := ∀ (s : State) (l : LinkN),
  let k := getLink s l
  let link (t : State) (k' : Link) : Prop := getLink t l = k' ∧ (∀ j, j ≠ l → getLink t j = getLink s j) ∧ SameMem s.mem t.mem ∧ t.slots = s.slots
  let again (t : State) (fs : List Flit) : Prop := t.out = s.out ++ fs.map (.flit l)
  (k.up = true → ∀ f : Flit,
    (flitGood f = true → f.type = 1 → f.seq = k.expect → f.ackv = false → ∃ t, exec (.flitReceive l f) s = .next t ∧
      link t { k with expect := k.expect + 1, nakking := false } ∧
      ∃ a : Flit, t.out = s.out ++ [.flit l a] ∧ a.type = 2 ∧ a.ackv = true ∧ a.ackseq = k.expect) ∧
    ((flitGood f = false ∨ (f.type = 1 ∧ f.seq ≠ k.expect ∧ f.ackv = false)) →
      (k.nakking = true → exec (.flitReceive l f) s = .next s) ∧
      (k.nakking = false → ∃ t a, exec (.flitReceive l f) s = .next t ∧ link t { k with nakking := true } ∧ t.out = s.out ++ [.flit l a] ∧
        a.type = 3 ∧ a.seq = k.expect)) ∧
    (∀ n e, e = .negativeAcknowledgement l n ∨ (e = .flitReceive l f ∧ flitGood f = true ∧ f.type = 3 ∧ f.ackv = false ∧ f.seq = n) ∨
        (e = .replayTimeout l ∧ (k.replay.head?.map (·.seq)) = some n) → k.replays < 7 →
      ∃ t, exec e s = .next t ∧ link t { k with replays := k.replays + 1 } ∧ again t (k.replay.filter fun x => atOrBefore n x.seq))) ∧
  (∀ n, ∃ t, exec (.acknowledgement l n) s = .next t ∧ t.out = s.out ∧ ∃ r, link t { k with replay := k.replay.filter (fun x => !atOrBefore x.seq n), replays := r }) ∧
  (∀ n f e, e = .linkRetrain l f ∨ (e = .negativeAcknowledgement l n ∧ k.up = true ∧ 7 ≤ k.replays ∧ f = 0) →
    let bad := k.failed ||| f
    (bad.extractLsb' 0 8 = 0 ∨ bad.extractLsb' 8 8 = 0 → ∃ t, exec e s = .next t ∧
      link t { k with failed := bad, half := true, replays := 0 } ∧ again t k.replay) ∧
    (bad.extractLsb' 0 8 ≠ 0 → bad.extractLsb' 8 8 ≠ 0 → ∃ t, exec e s = .next t ∧ (getLink t l).up = false ∧ (getLink t l).replay = [])) ∧
  (∃ t, exec (.linkDown l) s = .next t ∧ (getLink t l).up = false ∧ (getLink t l).replay = [] ∧ SameMem s.mem t.mem ∧
    t.pkg.e2eKept = s.pkg.e2eKept) ∧
  (∃ t, exec (.linkReset l) s = .next t ∧ link t { k with up := true, failed := 0, half := false, replays := 0 } ∧ again t k.replay) ∧
  (∀ (m : E2EMsg), let n := expectedFrom s m.src m.vn
    let numbered := ∀ vn q, m.body ≠ .got vn q
    (∀ vn q, m.body = .got vn q → exec (.endToEndMessage m) s = .next { s with pkg := { s.pkg with
      e2eKept := s.pkg.e2eKept.filter fun x => !(decide (x.1 = m.src) && decide (x.2.vn = vn) && decide (x.2.seq = q)) } }) ∧
    (numbered → m.seq < n → ∃ t, exec (.endToEndMessage m) s = .next t ∧ SameMem s.mem t.mem ∧ t.slots = s.slots ∧ t.core = s.core ∧
      expectedFrom t m.src m.vn = n ∧
      ((liveLink s).isSome = true → t.out.getLast? = some (.e2e m.src ⟨s.pkg.mgmt.pkg, 1, 0, .got m.vn m.seq⟩))) ∧
    (numbered → n < m.seq → m ∉ s.pkg.e2eEarly → exec (.endToEndMessage m) s = .next { s with pkg := { s.pkg with e2eEarly := s.pkg.e2eEarly ++ [m] } }) ∧
    ∀ o who, m.seq = n → m.body = .store o who → let ls := linesOf o.addr o.data.length
      (hasMemory o.addr = false → exec (.endToEndMessage m) s = .fault .noMemory) ∧
      (hasMemory o.addr = true → linesFree s none ls = true → ∃ t, exec (.endToEndMessage m) s = .next t ∧
        SameMem (s.mem.store o.addr o.data o.p) t.mem ∧ expectedFrom t m.src m.vn = n + 1 ∧
        (m.src, ⟨s.pkg.mgmt.pkg, 1, nextE2E s m.src 1, .ack who⟩) ∈ t.pkg.e2eKept ∧ ∀ j, (t.th j).cur = markChunk ls (s.th j).cur ∧ (t.th j).regs = (s.th j).regs)) ∧
  (∀ g : List (BitVec 8), ∃ t, exec (.routeRebuild g) s = .next t ∧ (∀ p, p ∈ t.pkg.gone ↔ p ∈ s.pkg.gone ∨ p ∈ g) ∧ SameMem s.mem t.mem ∧
    let waits := g.any fun p => pendingTo s p || donePending s p
    (waits = true → .partitionContain ∈ t.agenda) ∧ (waits = false → t.agenda = s.agenda)) ∧
  ∀ w r, exec (.portTrain w r) s = .next { s with pkg := { s.pkg with width := w, rate := r } }

/-- R2, R344, R385, R395 to R400, R402 to R407. A register that the host writes takes the write, keeps its read-only fields,
and starts the mailbox's operation, which ends with its RESULT: a debug register read or written, a frequency or a cap set, a
signed report. Cross-trigger and release, counters, droop and power act as they say. Boot goes from stage to stage as its
checks pass. -/
def Obligations.TheBoard : Prop := ∀ (s : State),
  let m := s.pkg.mgmt
  let only (t : State) (m' : Mgmt) : Prop := t = { s with pkg := { s.pkg with mgmt := m' } }
  let dbg (t : State) (d : Debug) : Prop := t = { s with cl := { s.cl with dbg := d } }
  (∀ v : Word, let c : BitVec 44 := (v &&& 0xFFF003FFFFF).extractLsb' 0 44
    let cmd := exec (.registerWrite .mailCmd v) s
    let core : CoreId := c.extractLsb' 8 14
    let num : BitVec 12 := c.extractLsb' 32 12
    let starts (e : Instr) : Prop := cmd = .next { s with agenda := s.agenda ++ [e], pkg := { s.pkg with mgmt := { m with cmd := c, busy := true } } }
    exec (.registerWrite .jtail v) s = .next { s with part := { s.part with jtail := v.extractLsb' 0 32, msix := false } } ∧
    exec (.registerWrite .qstat v) s = .next { s with part := { s.part with lost := v.extractLsb' 16 16 } } ∧
    (∀ r, r = .jhead ∨ r = .mailStatus ∨ r = .unassigned → exec (.registerWrite r v) s = .next s) ∧
    (m.busy = true → cmd = .next s ∧ exec (.registerWrite .mailData v) s = .next s) ∧
    (m.busy = false → (∃ t, exec (.registerWrite .mailData v) s = .next t ∧ only t { m with data := v }) ∧
      (c.extractLsb' 0 8 = 1 → starts (.readDebugRegister core num)) ∧ (c.extractLsb' 0 8 = 2 → starts (.writeDebugRegister core num m.data)) ∧
      (c.extractLsb' 0 8 = 3 → starts (.setFrequency m.data)) ∧ (c.extractLsb' 0 8 = 4 → starts (.setPowerCap m.data)) ∧
      (c.extractLsb' 0 8 = 5 → starts .attest) ∧
      (5 < (c.extractLsb' 0 8).toNat ∨ c.extractLsb' 0 8 = 0 → ∃ t, cmd = .next t ∧ only t { m with cmd := c, busy := false, result := 1 }))) ∧
  (∀ (c : CoreId) (n : BitVec 12) (v : Word),
    (isDebug n = false → (∃ t, exec (.readDebugRegister c n) s = .next t ∧ only t { m with busy := false, result := 2 }) ∧
      ∃ t, exec (.writeDebugRegister c n v) s = .next t ∧ only t { m with busy := false, result := 2 }) ∧
    (isDebug n = true → heldHere s c n = true →
      (∃ t, exec (.readDebugRegister c n) s = .next t ∧ only t { m with busy := false, result := 0, data := debugWord s n.toNat }) ∧
      ((8 ≤ n.toNat ∧ n.toNat < 0x100 ∧ n ≠ 0x20) ∨ (0x400 ≤ n.toNat ∧ n.toNat % 8 = 0) →
        ∃ t, exec (.writeDebugRegister c n v) s = .next t ∧ t.pkg.mgmt = { m with busy := false, result := 0 } ∧ t.core = s.core ∧
          debugWord t n.toNat = if n = 0xC then v &&& 0xFFFFFF else if n = 0x14 then v &&& 0x3FFFFFFFFF else v) ∧
      (n = 0 → ∃ t, exec (.writeDebugRegister c n v) s = .next t ∧
        t.agenda = s.agenda ++ (if v.getLsbD 1 then [.xtrig] else []) ++ if v.getLsbD 2 then [.release] else []) ∧
      (0x100 ≤ n.toNat → n.toNat < 0x140 → ∃ t, exec (.writeDebugRegister c n v) s = .next t ∧ t.agenda = s.agenda ++ [.issueCounterClear n]) ∧
      (0x400 ≤ n.toNat → n.toNat % 8 ≠ 0 → ∃ t, exec (.writeDebugRegister c n v) s = .next t ∧ t.agenda = s.agenda ++ [.censusClear n])) ∧
    (0x100 ≤ n.toNat → n.toNat < 0x140 → ∃ t, exec (.issueCounterClear n) s = .next t ∧ OnlyCore s t ∧ debugWord t n.toNat = 0) ∧
    (isDebug n = true → 0x400 ≤ n.toNat → n.toNat % 8 ≠ 0 → ∃ t, exec (.censusClear n) s = .next t ∧ debugWord t n.toNat = 0 ∧
      ∀ x : BitVec 12, isDebug x = true → x ≠ n → debugWord t x.toNat = debugWord s x.toNat)) ∧
  (∀ v : Word, let f := (v.extractLsb' 0 12).toNat
    (f % 50 ≠ 0 ∨ f < 200 ∨ 800 < f → ∃ t, exec (.setFrequency v) s = .next t ∧ only t { m with busy := false, result := 1 }) ∧
    (f % 50 = 0 → 200 ≤ f → f ≤ 800 → ∃ t k, exec (.setFrequency v) s = .next t ∧ only t { m with busy := false, result := 0, freqNext := some (f, k) } ∧
      k % 65536 = 0 ∧ s.pkg.timeb.toNat + 1000 ≤ k ∧ k < s.pkg.timeb.toNat + 1000 + 65536) ∧
    (v.toNat < 300 ∨ 2400 < v.toNat → ∃ t, exec (.setPowerCap v) s = .next t ∧ only t { m with busy := false, result := 1 }) ∧
    (300 ≤ v.toNat → v.toNat ≤ 2400 → ∃ t, exec (.setPowerCap v) s = .next t ∧
      only t { m with busy := false, result := 0, cap := v.extractLsb' 0 12 })) ∧
  (∀ f k, m.freqNext = some (f, k) → ∃ t, exec .frequencySwitch s = .next t ∧ t.pkg.mgmt = { m with freq := f, freqNext := none } ∧
    t.slots = s.slots ∧ t.core = s.core ∧ t.mem = s.mem) ∧
  (∀ d : Fin 17, ∃ t, exec (.powerEstimate d) s = .next t ∧ dbg t { s.cl.dbg with duty := d.val }) ∧
  (∃ t, exec .droopTrip s = .next t ∧ dbg t { s.cl.dbg with active := true }) ∧
  (∃ t, exec .droopEnd s = .next t ∧ dbg t { s.cl.dbg with active := false }) ∧
  (∃ t, exec .xtrig s = .next t ∧ t.core.halted = true ∧ t.cl.dbg.halted = true ∧ t.out = s.out ++ [.halt s.core.id] ∧ SameMem s.mem t.mem) ∧
  (∃ t, exec .release s = .next t ∧ t.core.halted = (s.core.contained || s.part.contained) ∧ t.cl.dbg.halted = false ∧
    t.out = s.out ++ [.release s.core.id] ∧ t.core.priv = { s.core.priv with irqpend := s.core.priv.irqpend ||| 4 } ∧
    ∀ i, t.slot i = { s.slot i with stopped := (s.slot i).stop && (s.slot i).stopped, halting := (s.slot i).stop && (s.slot i).halting }) ∧
  (m.leaf < 2 ^ 20 → m.report.length = 4096 → ∃ t r, exec .attest s = .next t ∧ only t { m with busy := false, result := 0, leaf := m.leaf + 1, report := r } ∧
    let body := m.report.take 32 ++ leBytes 32 m.fwDigest.toNat ++ leBytes 32 (digest m.configBytes).toNat ++ (m.pkg :: List.replicate 7 0) ++
      leBytes 8 m.leaf
    r.take (112 + (attestSign m.leaf body).length) = body ++ attestSign m.leaf body) ∧
  (2 ^ 20 ≤ m.leaf → ∃ t, exec .attest s = .next t ∧ only t { m with busy := false, result := 3 }) ∧
  (∃ t, exec .powerOnReset s = .next t ∧ t.pkg.mgmt.boot = 1 ∧ t.slots = State.reset.slots ∧ t.mem = State.reset.mem ∧ t.cl = .reset ∧ t.part = .reset ∧
    t.agenda = [] ∧ t.core = { Core.reset with id := s.core.id } ∧ t.pkg.mgmt.imageA = m.imageA ∧ t.pkg.mgmt.leaf = m.leaf ∧
    t.pkg.mgmt.fwDigest = digest m.imageA) ∧
  (m.boot = 1 → ∃ t, exec .signatureVerify s = .next t ∧ only t (if lmsVerify m.romKey m.imageA m.sigA then { m with boot := 2 }
    else if lmsVerify m.romKey m.imageB m.sigB then { m with boot := 2, fwDigest := digest m.imageB } else { m with boot := 0xE1 })) ∧
  (m.boot = 0xE1 → ∀ x, ∃ t, exec (.newImage x) s = .next t ∧ only t { m with boot := 1, imageA := x, fwDigest := digest x }) ∧
  (m.boot = 2 → ∃ t, exec .hbmLinkTraining s = .next t ∧ t.pkg.mgmt.boot = 3 ∧ (∀ l, getLink t l = .reset) ∧ t.slots = s.slots ∧ t.core = s.core) ∧
  (m.boot = 3 → (lmsVerify m.romKey m.configBytes m.configSig = false → ∃ t, exec .configurationLoad s = .next t ∧
      only t { m with boot := 4, result := 1 }) ∧
    ∀ c, m.config = some c → lmsVerify m.romKey m.configBytes m.configSig = true → ∃ t, exec .configurationLoad s = .next t ∧
      t.pkg.mgmt.boot = 4 ∧ t.part.cfg = some c ∧ (t.slot 15).occ = true ∧ (t.th 15).pc = c.rgPc ∧ (t.th 15).space = c.spaceLo ∧
      (t.th 15).creach = c.rgReach ∧ (t.th 15).regs.reach 0 = c.rk0 ∧ t.core.priv.vtab = c.vtab &&& ~~~(511 : Word)) ∧
  (m.boot = 4 → s.part.cfg.isSome = true → ∃ t, exec .launchPortsOpen s = .next t ∧ only t { m with boot := 5 }) ∧
  ∀ k : Fin 512, m.report.length = 4096 → ∀ v : Word, ∃ t r, exec (.registerWrite (.report k) v) s = .next t ∧ only t { m with report := r } ∧
    r.length = 4096 ∧ (r.drop (8 * k.val)).take 8 = leBytes 8 v.toNat

/-! The machine as a whole. -/

/-- R98, R99, R103, R105, R107, R117. The spec's two lines ("Two lines", 05_encoding.md), read as bytes: each is well formed,
and each of its heads with its tail decodes to the instruction the listing shows. A descriptor with a reserved bit, and one
whose packets need 66 bytes, make the line ill formed; an unassigned opcode and a reserved M bit decode to no instruction. -/
def Obligations.TheSpecsLinesDecode : Prop :=
  let line0 := BitVec.ofNat 512 (0x17902909256B000005080190018B0000 * 2 ^ 384 + 0xA00000901384204400B0000006)
  let line1 := BitVec.ofNat 512 (0x123456000AFFFFFFE000000000 * 2 ^ 384 + 0x908019C5B00003)
  let at_ (l : BitVec 512) (j : Nat) : Decoded := decode (lineHead l j) (lineTail l j)
  lineOk line0 = true ∧ lineN line0 = 6 ∧ lineOk line1 = true ∧ lineN line1 = 3 ∧
  at_ line0 0 = .ok (.ld ⟨0, true⟩ 9 8 10 1 .i64 3 2) ∧
  at_ line0 1 = .ok (.add ⟨0, false⟩ 11 11 9 false) ∧
  at_ line0 2 = .ok (.addi ⟨0, false⟩ 8 8 1) ∧
  at_ line0 3 = .ok (.st ⟨3, false⟩ 11 12 0 1 .i64 0 0) ∧
  at_ line0 4 = .ok (.nop ⟨0, false⟩) ∧
  at_ line0 5 = .ok (.yield ⟨0, false⟩) ∧
  at_ line1 0 = .ok (.movi ⟨0, false⟩ 10 0x123456) ∧
  at_ line1 1 = .ok (.br ⟨9, false⟩ 0 0x7FFFFFF) ∧
  at_ line1 2 = .ok (.exit ⟨0, false⟩) ∧
  lineOk (line0 ^^^ 0x20) = false ∧ lineOk (line0 ^^^ 0x1F) = false ∧
  decode 0x0620 0 = .unassigned ∧ decode 0x4C50 0x8000 = .illegal

/-- R105 to R109. Decoding the words of a well-formed instruction gives that instruction back, with every operand at every
value; the decoder accepts no other word; a head whose opcode the map leaves unassigned is refused as that. -/
def Obligations.DecodeAndEncodeAgree : Prop :=
  (∀ (i : Instr) (h : BitVec 16) (t : BitVec 64), i.wf = true → encode i = some (h, t) → decode h t = .ok i) ∧
  (∀ (i : Instr) (h : BitVec 16) (t : BitVec 64), decode h t = .ok i → i.wf = true ∧ encode i = some (h, t)) ∧
  ∀ (h : BitVec 16) (t : BitVec 64), decode h t = .unassigned ↔ opFmt (headOp h) = none

/-- R39, R40, R119, R345. A message that has come in is the next step, a write of the port behind one that waits apart. Where none has and no other step is due, the next runnable
slot in rotation has its turn, and where the instruction cache holds its line and the head and tail that its PC names decode
to an instruction, the step is that instruction's exec; where its fetch or decode carries a cause, the step takes that trap.
(The step chooses among the steps that are due by a free value, log 10; the turn counts rotation and yields.) -/
def Obligations.StepRunsTheDecodedInstruction : Prop := ∀ (s : State),
  (∀ i rest, s.inbox = i :: rest → let after := isPortWrite i && s.agenda.any isPortWrite
    (after = false → step s = exec i { s with inbox := rest }) ∧
    (after = true → step s = .next { s with inbox := rest, agenda := s.agenda ++ [i] })) ∧
  (s.inbox = [] → (∃ c n, c ∈ cands s ∧ step s = runPick (c.go { s with ctl := { s.ctl with free := n } })) ∨
    ∃ n, step s = runPick (issueNext { s with ctl := { s.ctl with free := n } })) ∧
  ∀ (i : SlotN) (l : ILine) (a : Nat) (ins : Instr),
  let u := turn s i
  let j := pcHead (u.th i).pc
  s.inbox = [] → cands s = [] → nextSlot s = some i →
    (∀ x, fetch u i = .trap x → step s = .next (fetchTrap u i x)) ∧
    ((u.th i).pc.getLsbD 5 = false → (∃ r, xByte u i (u.th i).space (vaOf (u.th i).creach (pcLine (u.th i).pc)) [permX] = .ok a r) →
      findLine u i = some l → headP l = false → lineOk l.bits = true → l.badPatch = false → j < lineN l.bits → tailP l j = false →
      (∀ x, x ∈ l.headFault → x.1 ≠ j) → decode (lineHead l.bits j) (lineTail l.bits j) = .ok ins →
      (opPrivileged (headOp (lineHead l.bits j)) = true → i = 15) → pcBreak u i = none →
      step s = exec ins { u with ctl := { u.ctl with curN := lineN l.bits } })

/-- The model's own invariant (log 6): every step keeps memory in its canonical form. -/
def Obligations.StepsKeepMemoryCanonical : Prop := ∀ (s t : State), s.mem.wf = true → step s = .next t → t.mem.wf = true

/-- R63, R93, R313, R344, R395, R396, R403, R404. After reset every register of the core, the cluster, the launch port and the
mailbox that the tables give a reset value reads it; no slot holds a thread. (Memory lists nothing: an unlisted byte reads
zero, log 6, and that is canonical.) -/
def Obligations.ResetState : Prop :=
  let s := State.reset
  let p := s.core.priv
  let d := s.cl.dbg
  let m := s.pkg.mgmt
  s.mem.wf = true ∧ (∀ i, (s.slot i).occ = false) ∧
  p.cause = 0 ∧ p.pc = 0 ∧ p.tsel = 0 ∧ p.info = 0 ∧ p.fromPc = 0 ∧ p.aux = 0 ∧ p.vtab = 0 ∧ p.handling = false ∧ p.irqpend = 0 ∧
  p.irqmask = 0 ∧ (∀ k, k < 64 → p.timercmp.getLsbD k = true) ∧ p.hostmsg = 0 ∧ p.spillctl = 0 ∧ p.packspill = 0 ∧ p.packBlocks = 0 ∧
  p.packLimit = 64 ∧ p.packFrozen = false ∧ p.bedroll = 0 ∧ s.core.mqHalted = false ∧ s.core.events = [] ∧
  s.core.tabValid = false ∧ (∀ k, s.core.table.get k = ⟨0, false⟩) ∧
  s.core.ticketsO.next = 0 ∧ s.core.ticketsO.serve = 0 ∧ s.core.ticketsR.next = 0 ∧ s.core.ticketsR.serve = 0 ∧
  s.part.doorSeq = 0 ∧ s.part.cancel = 0 ∧ s.part.jhead = 0 ∧ s.part.jtail = 0 ∧ s.part.full = false ∧ s.part.lost = 0 ∧
  m.cmd = 0 ∧ m.data = 0 ∧ m.busy = false ∧ m.result = 0 ∧ m.boot = 0 ∧ m.cap = 2400 ∧
  d.halted = false ∧ (∀ k, d.bppc.get k = 0) ∧ d.bpctl = 0xFFFF00 ∧ (∀ k, d.drbase.get k = 0 ∧ d.drlimit.get k = 0) ∧ d.drctl = 0 ∧
  (∀ k, d.csite.get k = 0) ∧ d.droopth = 720 ∧ d.stretch = 6 ∧ d.halve = 64 ∧ d.active = false

/-- R358, R387. Every packet and every step of the parts answers a next state, in every state, but for nine steps, where they
name an address that no memory answers. Nothing is refused. -/
def Obligations.OnlyMissingMemoryStops : Prop := ∀ (i : Instr) (s : State),
  (∃ t, exec i s = .next t) ∨ exec i s = .fault .noMemory ∧
    ((∃ a, (i = .eccCorrected a ∨ i = .eccUncorrectable a) ∧ hasMemory a = false) ∨
      (∃ o, i = .remoteStorePerform o ∧ hasMemory o.st.addr = false) ∨
      (∃ m o w, i = .endToEndMessage m ∧ m.body = .store o w ∧ hasMemory o.addr = false) ∨
      (∃ m o w k, i = .endToEndMessage m ∧ m.body = .atomic o w k ∧ hasMemory o.addr = false) ∨
      (∃ p w o k, i = .remoteAtomicPerform (.other p w k) o ∧ hasMemory o.addr = false) ∨
      (∃ w o, i = .singletonPerform (.other w o) ∧ hasMemory o.addr = false) ∨
      (∃ l p r, i = .chunkCommit (.other l p r) ∧ ∃ o ∈ l, hasMemory o.addr = false) ∨
      (∃ a n, i = .cxlMemRead a n ∧ inHdm a n = false) ∨ ∃ a d p, i = .cxlMemWrite a d p ∧ inHdm a d.length = false)

/-- R34, R48, R118, R321. No packet outside the ranger's slot reads or writes its way into another thread: the scalar,
predicate and reach registers, the PC and the occupancy of every other slot stand, whatever the packet comes to, its effect, a
wait, a replay or a trap. (Where no data breakpoint halts the cluster, R397.) -/
def Obligations.PacketsLeaveOtherThreads : Prop := ∀ (i : Instr) (s t : State) (j : SlotN),
  (encode i).isSome = true → s.ctl.cur ≠ 15 → s.cl.dbg.drctl.extractLsb' 36 2 = 0 → exec i s = .next t → j ≠ s.ctl.cur →
    (t.th j).regs = (s.th j).regs ∧ (t.th j).pc = (s.th j).pc ∧ (t.slot j).occ = (s.slot j).occ
end

