-- ==== Sys2Proof/Laws/Memory.lean ====
section
/-! SUPPORT. Memory: what every operation reads back, and that every operation keeps the canonical form of Memory.wf. -/
namespace Sys2Proof.Machine

/-! Listed bytes. -/

/-- A lower bound of a list of cells. -/
theorem cellsOk_cons (lo : Option Nat) (c : Host.Cell) (cs : List Host.Cell) :
    cellsOk lo (c :: cs) = true ↔ (∀ l, lo = some l → l < c.1) ∧ c.2 ≠ unlisted ∧ cellsOk (some c.1) cs = true := by
  cases lo <;> simp [cellsOk, and_assoc]

theorem cellsOk_weaken {l k : Nat} (h : k ≤ l) : ∀ cs, cellsOk (some l) cs = true → cellsOk (some k) cs = true
  | [], _ => rfl
  | c :: cs, hc => by
    rw [cellsOk_cons] at hc ⊢
    exact ⟨by rintro x ⟨⟩; have := hc.1 l rfl; omega, hc.2⟩
theorem cellsOk_none {l : Nat} : ∀ cs, cellsOk (some l) cs = true → cellsOk none cs = true
  | [], _ => rfl
  | c :: cs, hc => by
    rw [cellsOk_cons] at hc ⊢
    exact ⟨by simp, hc.2⟩

/-- Below the bound nothing is listed. -/
theorem cellsGet_below {l a : Nat} (h : a ≤ l) : ∀ cs, cellsOk (some l) cs = true → cellsGet cs a = unlisted
  | [], _ => rfl
  | c :: cs, hc => by
    have := (cellsOk_cons _ _ _).1 hc |>.1 l rfl
    simp only [cellsGet]
    rw [if_neg (by omega), if_pos (by omega)]

theorem cellsSet_ok_aux (a : Nat) (b : Byte) : ∀ (cs : List Host.Cell) (lo : Option Nat), cellsOk lo cs = true →
    (∀ l, lo = some l → l < a) → cellsOk lo (cellsSet cs a b) = true
  | [], lo, _, hl => by
    simp only [cellsSet]
    split
    · rfl
    · exact (cellsOk_cons _ _ _).2 ⟨hl, ‹_›, rfl⟩
  | c :: cs, lo, hc, hl => by
    obtain ⟨h1, h2, h3⟩ := (cellsOk_cons _ _ _).1 hc
    simp only [cellsSet]
    split
    · split
      · exact hc
      · exact (cellsOk_cons _ _ _).2 ⟨hl, ‹_›, (cellsOk_cons _ _ _).2 ⟨by rintro _ ⟨⟩; assumption, h2, h3⟩⟩
    · split
      · subst a
        split
        · cases lo with
          | none => exact cellsOk_none _ h3
          | some l => exact cellsOk_weaken (Nat.le_of_lt (h1 l rfl)) _ h3
        · exact (cellsOk_cons _ _ _).2 ⟨hl, ‹_›, h3⟩
      · refine (cellsOk_cons _ _ _).2 ⟨h1, h2, ?_⟩
        exact cellsSet_ok_aux a b cs _ h3 (by rintro _ ⟨⟩; omega)
theorem cellsSet_ok {cs : List Host.Cell} (h : cellsOk none cs = true) (a : Nat) (b : Byte) : cellsOk none (cellsSet cs a b) = true :=
  cellsSet_ok_aux a b cs none h (by simp)

/-- A byte reads back; every other byte stands. -/
theorem cellsGet_set (a x : Nat) (b : Byte) : ∀ (cs : List Host.Cell) (lo : Option Nat), cellsOk lo cs = true →
    cellsGet (cellsSet cs a b) x = if x = a then b else cellsGet cs x
  | [], _, _ => by
    simp only [cellsSet]
    split
    · split <;> simp_all [cellsGet]
    · by_cases h : x = a <;> simp [cellsGet, h]
      intro h'; exact absurd h'.symm h
  | c :: cs, lo, hc => by
    obtain ⟨h1, h2, h3⟩ := (cellsOk_cons _ _ _).1 hc
    simp only [cellsSet]
    split
    · split
      · split
        · subst x; subst b; simp only [cellsGet]; rw [if_neg (by omega), if_pos ‹_›]
        · rfl
      · by_cases h : x = a
        · simp [cellsGet, h]
        · rw [cellsGet, if_neg (fun e => h e.symm), if_neg h]
          split
          · simp only [cellsGet]; rw [if_neg (by omega), if_pos (by omega)]
          · rfl
    · split
      · subst a
        split
        · by_cases h : x = c.1
          · subst x; subst b; rw [if_pos rfl, cellsGet_below (Nat.le_refl _) _ h3]
          · rw [if_neg h]
            simp only [cellsGet]
            rw [if_neg (fun e => h e.symm)]
            split
            · exact cellsGet_below (Nat.le_of_lt ‹_›) _ h3
            · rfl
        · by_cases h : x = c.1
          · simp [cellsGet, h]
          · rw [if_neg h]
            simp only [cellsGet]
            rw [if_neg (fun e => h e.symm)]
            split <;> rw [if_neg (fun e => h e.symm)]
      · have ih := cellsGet_set a x b cs _ h3
        simp only [cellsGet, ih]
        by_cases h : x = a
        · subst x; rw [if_neg (by omega), if_neg (by omega)]; simp
        · simp [h]

/-! Rising sets. -/

theorem setOk_cons (lo : Option Nat) (x : Nat) (xs : List Nat) :
    setOk lo (x :: xs) = true ↔ (∀ l, lo = some l → l < x) ∧ setOk (some x) xs = true := by
  cases lo <;> simp [setOk]
theorem setOk_weaken {l k : Nat} (h : k ≤ l) : ∀ xs, setOk (some l) xs = true → setOk (some k) xs = true
  | [], _ => rfl
  | x :: xs, hx => by
    rw [setOk_cons] at hx ⊢
    exact ⟨by rintro y ⟨⟩; have := hx.1 l rfl; omega, hx.2⟩
theorem setOk_none {l : Nat} : ∀ xs, setOk (some l) xs = true → setOk none xs = true
  | [], _ => rfl
  | x :: xs, hx => by
    rw [setOk_cons] at hx ⊢
    exact ⟨by simp, hx.2⟩
theorem setHas_below {l a : Nat} (h : a ≤ l) : ∀ xs, setOk (some l) xs = true → setHas xs a = false
  | [], _ => rfl
  | x :: xs, hx => by
    have := (setOk_cons _ _ _).1 hx |>.1 l rfl
    simp only [setHas]
    rw [if_neg (by omega), if_pos (by omega)]

theorem setIns_ok_aux (a : Nat) : ∀ (xs : List Nat) (lo : Option Nat), setOk lo xs = true → (∀ l, lo = some l → l < a) →
    setOk lo (setIns xs a) = true
  | [], lo, _, hl => (setOk_cons _ _ _).2 ⟨hl, rfl⟩
  | x :: xs, lo, hx, hl => by
    obtain ⟨h1, h2⟩ := (setOk_cons _ _ _).1 hx
    simp only [setIns]
    split
    · exact (setOk_cons _ _ _).2 ⟨hl, (setOk_cons _ _ _).2 ⟨by rintro _ ⟨⟩; assumption, h2⟩⟩
    · split
      · exact hx
      · exact (setOk_cons _ _ _).2 ⟨h1, setIns_ok_aux a xs _ h2 (by rintro _ ⟨⟩; omega)⟩
theorem setIns_ok {xs : List Nat} (h : setOk none xs = true) (a : Nat) : setOk none (setIns xs a) = true :=
  setIns_ok_aux a xs none h (by simp)
theorem setDel_ok_aux (a : Nat) : ∀ (xs : List Nat) (lo : Option Nat), setOk lo xs = true → setOk lo (setDel xs a) = true
  | [], _, _ => rfl
  | x :: xs, lo, hx => by
    obtain ⟨h1, h2⟩ := (setOk_cons _ _ _).1 hx
    simp only [setDel]
    split
    · exact hx
    · split
      · cases lo with
        | none => exact setOk_none _ h2
        | some l => exact setOk_weaken (Nat.le_of_lt (h1 l rfl)) _ h2
      · exact (setOk_cons _ _ _).2 ⟨h1, setDel_ok_aux a xs _ h2⟩
theorem setDel_ok {xs : List Nat} (h : setOk none xs = true) (a : Nat) : setOk none (setDel xs a) = true := setDel_ok_aux a xs none h

theorem setHas_ins (a x : Nat) : ∀ (xs : List Nat) (lo : Option Nat), setOk lo xs = true →
    setHas (setIns xs a) x = (decide (x = a) || setHas xs x)
  | [], _, _ => by
    by_cases h : x = a
    · simp [setIns, setHas, h]
    · simp [setIns, setHas, h]; intro e; exact absurd e.symm h
  | y :: ys, lo, hx => by
    obtain ⟨h1, h2⟩ := (setOk_cons _ _ _).1 hx
    simp only [setIns]
    split
    · by_cases h : x = a
      · simp [setHas, h]
      · rw [setHas, if_neg (fun e => h e.symm)]
        by_cases h' : x < a
        · rw [if_pos h']; simp only [setHas]; rw [if_neg (by omega), if_pos (by omega)]; simp [h]
        · rw [if_neg h']; simp [h]
    · split
      · subst a
        by_cases h : x = y <;> simp [setHas, h]
      · simp only [setHas, setHas_ins a x ys _ h2]
        by_cases h : x = a
        · subst x; rw [if_neg (by omega), if_neg (by omega)]; simp
        · simp [h]
theorem setHas_del (a x : Nat) : ∀ (xs : List Nat) (lo : Option Nat), setOk lo xs = true →
    setHas (setDel xs a) x = (!decide (x = a) && setHas xs x)
  | [], _, _ => by simp [setDel, setHas]
  | y :: ys, lo, hx => by
    obtain ⟨h1, h2⟩ := (setOk_cons _ _ _).1 hx
    simp only [setDel]
    split
    · by_cases h : x = a
      · subst x; simp only [setHas]; rw [if_neg (by omega), if_pos ‹_›]; simp
      · simp [h]
    · split
      · subst a
        by_cases h : x = y
        · subst x; simp [setHas_below (Nat.le_refl _) _ h2]
        · simp only [setHas]; rw [if_neg (fun e => h e.symm)]
          split
          · rw [setHas_below (Nat.le_of_lt ‹_›) _ h2]; simp
          · simp [h]
      · simp only [setHas, setHas_del a x ys _ h2]
        by_cases h : x = a
        · subst x; rw [if_neg (by omega), if_neg (by omega)]; simp
        · simp [h]

/-- A filtered rising list rises. -/
theorem setOk_filter (p : Nat → Bool) : ∀ (xs : List Nat) (lo : Option Nat), setOk lo xs = true → setOk lo (xs.filter p) = true
  | [], _, _ => rfl
  | x :: xs, lo, hx => by
    obtain ⟨h1, h2⟩ := (setOk_cons _ _ _).1 hx
    have ih := setOk_filter p xs _ h2
    cases hp : p x
    · rw [List.filter_cons_of_neg (by simp [hp])]
      cases lo with
      | none => exact setOk_none _ ih
      | some l => exact setOk_weaken (Nat.le_of_lt (h1 l rfl)) _ ih
    · rw [List.filter_cons_of_pos hp]
      exact (setOk_cons _ _ _).2 ⟨h1, ih⟩
theorem cellsOk_filter (p : Host.Cell → Bool) : ∀ (cs : List Host.Cell) (lo : Option Nat), cellsOk lo cs = true →
    cellsOk lo (cs.filter p) = true
  | [], _, _ => rfl
  | c :: cs, lo, hc => by
    obtain ⟨h1, h2, h3⟩ := (cellsOk_cons _ _ _).1 hc
    have ih := cellsOk_filter p cs _ h3
    cases hp : p c
    · rw [List.filter_cons_of_neg (by simp [hp])]
      cases lo with
      | none => exact cellsOk_none _ ih
      | some l => exact cellsOk_weaken (Nat.le_of_lt (h1 l rfl)) _ ih
    · rw [List.filter_cons_of_pos hp]
      exact (cellsOk_cons _ _ _).2 ⟨h1, h2, ih⟩

/-! The canonical form. -/

theorem Memory.wf_iff (m : Memory) : m.wf = true ↔
    cellsOk none m.cells = true ∧ setOk none m.poison = true ∧ setOk none m.empty = true := by
  simp [Memory.wf, and_assoc]

section
variable {m : Memory} (h : m.wf = true)
include h

theorem Memory.wf_setByte (a : Nat) (b : Byte) : (m.setByte a b).wf = true :=
  let ⟨x, y⟩ := (m.wf_iff).1 h
  (Memory.wf_iff _).2 ⟨cellsSet_ok x a b, y⟩
theorem Memory.wf_setPois (a : Nat) (p : Bool) : (m.setPois a p).wf = true := by
  obtain ⟨x, y, z⟩ := (m.wf_iff).1 h
  refine (Memory.wf_iff _).2 ⟨x, ?_, z⟩
  cases p
  · exact setDel_ok y _
  · exact setIns_ok y _
theorem Memory.wf_setFull (a : Nat) (f : Bool) : (m.setFull a f).wf = true := by
  obtain ⟨x, y, z⟩ := (m.wf_iff).1 h
  refine (Memory.wf_iff _).2 ⟨x, y, ?_⟩
  cases f
  · exact setIns_ok z _
  · exact setDel_ok z _
theorem Memory.wf_wordPois (a n : Nat) (p : Bool) (w : Nat) : (m.wordPois a n p w).wf = true := by
  simp only [Memory.wordPois]
  split
  · exact Memory.wf_setPois h _ _
  · split
    · exact Memory.wf_setPois h _ _
    · exact h
theorem Memory.wf_forget (p : Nat → Bool) : (m.forget p).wf = true := by
  obtain ⟨x, y, z⟩ := (m.wf_iff).1 h
  exact (Memory.wf_iff _).2 ⟨cellsOk_filter _ _ _ x, setOk_filter _ _ _ y, setOk_filter _ _ _ z⟩
/-- Words taken out of the empty ones. -/
theorem Memory.wf_fill (p : Nat → Bool) : ({ m with empty := m.empty.filter p } : Memory).wf = true := by
  obtain ⟨x, y, z⟩ := (m.wf_iff).1 h
  exact (Memory.wf_iff _).2 ⟨x, y, setOk_filter _ _ _ z⟩

end

/-- A list of updates, each of which keeps the form, keeps it. -/
theorem Memory.wf_foldl {α : Type} (f : Memory → α → Memory) (hf : ∀ m x, m.wf = true → (f m x).wf = true) :
    ∀ (l : List α) (m : Memory), m.wf = true → (l.foldl f m).wf = true
  | [], _, h => h
  | x :: l, m, h => Memory.wf_foldl f hf l _ (hf m x h)
theorem Memory.wf_setBytes : ∀ (bs : List Byte) (a : Nat) (m : Memory), m.wf = true → (m.setBytes a bs).wf = true
  | [], _, _, h => h
  | b :: bs, a, _, h => Memory.wf_setBytes bs (a + 1) _ (Memory.wf_setByte h a b)

section
variable {m : Memory} (h : m.wf = true)
include h

theorem Memory.wf_store (a : Nat) (data : List Byte) (p : Bool) : (m.store a data p).wf = true :=
  Memory.wf_foldl _ (fun _ _ h => Memory.wf_wordPois h _ _ _ _) _ _ (Memory.wf_setBytes _ _ _ h)
theorem Memory.wf_engineWord (a : Nat) (data : List Byte) (p : Bool) : (m.engineWord a data p).wf = true :=
  Memory.wf_setFull (Memory.wf_store h _ _ _) _ _

end

theorem Memory.wf_engineWords : ∀ (ws : List (List Byte × Bool)) (a : Nat) (m : Memory), m.wf = true → (m.engineWords a ws).wf = true
  | [], _, _, h => h
  | (d, p) :: ws, a, _, h => Memory.wf_engineWords ws (a + 8) _ (Memory.wf_engineWord h a d p)
theorem Memory.wf_clear : ∀ (n a : Nat) (m : Memory), m.wf = true → (m.clear a n).wf = true
  | 0, _, _, h => h
  | n + 1, a, _, h => Memory.wf_clear n (a + 8) _ (Memory.wf_setFull (Memory.wf_store h _ _ _) _ _)

/-! What reads back. -/

section
variable {m : Memory} (h : m.wf = true)
include h

theorem Memory.byte_setByte (a x : Nat) (b : Byte) : (m.setByte a b).byte x = if x = a then b else m.byte x :=
  cellsGet_set a x b _ none ((m.wf_iff).1 h).1
theorem Memory.pois_setPois (a x : Nat) (p : Bool) : (m.setPois a p).pois x = if x / 8 = a / 8 then p else m.pois x := by
  have y := ((m.wf_iff).1 h).2.1
  cases p
  · simp only [Memory.setPois, Memory.pois, Bool.false_eq_true, if_false, setHas_del _ _ _ none y]
    split <;> simp_all
  · simp only [Memory.setPois, Memory.pois, if_true, setHas_ins _ _ _ none y]
    split <;> simp_all
theorem Memory.full_setFull (a x : Nat) (f : Bool) : (m.setFull a f).full x = if x / 8 = a / 8 then f else m.full x := by
  have y := ((m.wf_iff).1 h).2.2
  cases f
  · simp only [Memory.setFull, Memory.full, Bool.false_eq_true, if_false, setHas_ins _ _ _ none y]
    split <;> simp_all
  · simp only [Memory.setFull, Memory.full, if_true, setHas_del _ _ _ none y]
    split <;> simp_all

end

@[simp] theorem Memory.pois_setByte (m : Memory) (a x : Nat) (b : Byte) : (m.setByte a b).pois x = m.pois x := rfl
@[simp] theorem Memory.full_setByte (m : Memory) (a x : Nat) (b : Byte) : (m.setByte a b).full x = m.full x := rfl
@[simp] theorem Memory.byte_setPois (m : Memory) (a x : Nat) (p : Bool) : (m.setPois a p).byte x = m.byte x := rfl
@[simp] theorem Memory.full_setPois (m : Memory) (a x : Nat) (p : Bool) : (m.setPois a p).full x = m.full x := rfl
@[simp] theorem Memory.byte_setFull (m : Memory) (a x : Nat) (f : Bool) : (m.setFull a f).byte x = m.byte x := rfl
@[simp] theorem Memory.pois_setFull (m : Memory) (a x : Nat) (f : Bool) : (m.setFull a f).pois x = m.pois x := rfl

@[simp] theorem Memory.pois_setBytes (x : Nat) : ∀ (bs : List Byte) (a : Nat) (m : Memory), (m.setBytes a bs).pois x = m.pois x
  | [], _, _ => rfl
  | b :: bs, a, m => Memory.pois_setBytes x bs (a + 1) (m.setByte a b)
@[simp] theorem Memory.full_setBytes (x : Nat) : ∀ (bs : List Byte) (a : Nat) (m : Memory), (m.setBytes a bs).full x = m.full x
  | [], _, _ => rfl
  | b :: bs, a, m => Memory.full_setBytes x bs (a + 1) (m.setByte a b)
/-- Bytes written read back; a byte outside them stands. -/
theorem Memory.byte_setBytes (x : Nat) : ∀ (bs : List Byte) (a : Nat) (m : Memory), m.wf = true →
    (m.setBytes a bs).byte x = if a ≤ x then (bs[x - a]?).getD (m.byte x) else m.byte x
  | [], a, m, _ => by simp [Memory.setBytes]
  | b :: bs, a, m, h => by
    rw [Memory.setBytes, Memory.byte_setBytes x bs (a + 1) _ (Memory.wf_setByte h a b), Memory.byte_setByte h]
    by_cases h1 : a + 1 ≤ x
    · have e : x - a = (x - (a + 1)) + 1 := by omega
      rw [if_pos h1, if_pos (show a ≤ x by omega), if_neg (show ¬ x = a by omega), e, List.getElem?_cons_succ]
    · rw [if_neg h1]
      by_cases h2 : x = a
      · subst x; simp
      · rw [if_neg h2, if_neg (by omega)]

@[simp] theorem Memory.byte_wordPois (m : Memory) (a n w x : Nat) (p : Bool) : (m.wordPois a n p w).byte x = m.byte x := by
  simp only [Memory.wordPois]; split
  · rfl
  · split <;> rfl
@[simp] theorem Memory.full_wordPois (m : Memory) (a n w x : Nat) (p : Bool) : (m.wordPois a n p w).full x = m.full x := by
  simp only [Memory.wordPois]; split
  · rfl
  · split <;> rfl
@[simp] theorem Memory.byte_store_pois (x a n : Nat) (p : Bool) : ∀ (ws : List Nat) (m : Memory),
    (ws.foldl (fun m w => m.wordPois a n p w) m).byte x = m.byte x
  | [], _ => rfl
  | w :: ws, m => by rw [List.foldl_cons, Memory.byte_store_pois x a n p ws, Memory.byte_wordPois]
@[simp] theorem Memory.full_store_pois (x a n : Nat) (p : Bool) : ∀ (ws : List Nat) (m : Memory),
    (ws.foldl (fun m w => m.wordPois a n p w) m).full x = m.full x
  | [], _ => rfl
  | w :: ws, m => by rw [List.foldl_cons, Memory.full_store_pois x a n p ws, Memory.full_wordPois]

/-- R152: a store's bytes read back, every other byte stands; full/empty bits stand. -/
theorem Memory.byte_store {m : Memory} (h : m.wf = true) (a x : Nat) (data : List Byte) (p : Bool) :
    (m.store a data p).byte x = if a ≤ x then (data[x - a]?).getD (m.byte x) else m.byte x := by
  rw [Memory.store, Memory.byte_store_pois, Memory.byte_setBytes x data a m h]
@[simp] theorem Memory.full_store (m : Memory) (a x : Nat) (data : List Byte) (p : Bool) : (m.store a data p).full x = m.full x := by
  rw [Memory.store, Memory.full_store_pois, Memory.full_setBytes]
theorem Memory.byte_engineWord {m : Memory} (h : m.wf = true) (a x : Nat) (data : List Byte) (p : Bool) :
    (m.engineWord a data p).byte x = if a ≤ x then (data[x - a]?).getD (m.byte x) else m.byte x :=
  Memory.byte_store h a x data p

end Sys2Proof.Machine
end

