-- ==== Sys2Proof/Laws/State.lean ====
section
/-! SUPPORT. The named updates of a state, field by field: what each leaves as it is, and what reads back. -/
namespace Sys2Proof.Machine

/-! Fields that an update does not touch. -/

@[simp] theorem State.setSlot_ctl (s : State) (i : SlotN) (x : Slot) : (s.setSlot i x).ctl = s.ctl := rfl
@[simp] theorem State.setSlot_core (s : State) (i : SlotN) (x : Slot) : (s.setSlot i x).core = s.core := rfl
@[simp] theorem State.setSlot_cl (s : State) (i : SlotN) (x : Slot) : (s.setSlot i x).cl = s.cl := rfl
@[simp] theorem State.setSlot_part (s : State) (i : SlotN) (x : Slot) : (s.setSlot i x).part = s.part := rfl
@[simp] theorem State.setSlot_pkg (s : State) (i : SlotN) (x : Slot) : (s.setSlot i x).pkg = s.pkg := rfl
@[simp] theorem State.setSlot_mem (s : State) (i : SlotN) (x : Slot) : (s.setSlot i x).mem = s.mem := rfl
@[simp] theorem State.setSlot_inbox (s : State) (i : SlotN) (x : Slot) : (s.setSlot i x).inbox = s.inbox := rfl
@[simp] theorem State.setSlot_agenda (s : State) (i : SlotN) (x : Slot) : (s.setSlot i x).agenda = s.agenda := rfl
@[simp] theorem State.setSlot_out (s : State) (i : SlotN) (x : Slot) : (s.setSlot i x).out = s.out := rfl

@[simp] theorem State.setTh_ctl (s : State) (i : SlotN) (t : Thread) : (s.setTh i t).ctl = s.ctl := rfl
@[simp] theorem State.setTh_core (s : State) (i : SlotN) (t : Thread) : (s.setTh i t).core = s.core := rfl
@[simp] theorem State.setTh_cl (s : State) (i : SlotN) (t : Thread) : (s.setTh i t).cl = s.cl := rfl
@[simp] theorem State.setTh_part (s : State) (i : SlotN) (t : Thread) : (s.setTh i t).part = s.part := rfl
@[simp] theorem State.setTh_pkg (s : State) (i : SlotN) (t : Thread) : (s.setTh i t).pkg = s.pkg := rfl
@[simp] theorem State.setTh_mem (s : State) (i : SlotN) (t : Thread) : (s.setTh i t).mem = s.mem := rfl
@[simp] theorem State.setTh_inbox (s : State) (i : SlotN) (t : Thread) : (s.setTh i t).inbox = s.inbox := rfl
@[simp] theorem State.setTh_agenda (s : State) (i : SlotN) (t : Thread) : (s.setTh i t).agenda = s.agenda := rfl
@[simp] theorem State.setTh_out (s : State) (i : SlotN) (t : Thread) : (s.setTh i t).out = s.out := rfl

@[simp] theorem State.modTh_ctl (s : State) (i : SlotN) (f : Thread → Thread) : (s.modTh i f).ctl = s.ctl := rfl
@[simp] theorem State.modTh_core (s : State) (i : SlotN) (f : Thread → Thread) : (s.modTh i f).core = s.core := rfl
@[simp] theorem State.modTh_cl (s : State) (i : SlotN) (f : Thread → Thread) : (s.modTh i f).cl = s.cl := rfl
@[simp] theorem State.modTh_part (s : State) (i : SlotN) (f : Thread → Thread) : (s.modTh i f).part = s.part := rfl
@[simp] theorem State.modTh_pkg (s : State) (i : SlotN) (f : Thread → Thread) : (s.modTh i f).pkg = s.pkg := rfl
@[simp] theorem State.modTh_mem (s : State) (i : SlotN) (f : Thread → Thread) : (s.modTh i f).mem = s.mem := rfl
@[simp] theorem State.modTh_inbox (s : State) (i : SlotN) (f : Thread → Thread) : (s.modTh i f).inbox = s.inbox := rfl
@[simp] theorem State.modTh_agenda (s : State) (i : SlotN) (f : Thread → Thread) : (s.modTh i f).agenda = s.agenda := rfl
@[simp] theorem State.modTh_out (s : State) (i : SlotN) (f : Thread → Thread) : (s.modTh i f).out = s.out := rfl

@[simp] theorem State.setMe_ctl (s : State) (t : Thread) : (s.setMe t).ctl = s.ctl := rfl
@[simp] theorem State.setMe_core (s : State) (t : Thread) : (s.setMe t).core = s.core := rfl
@[simp] theorem State.setMe_cl (s : State) (t : Thread) : (s.setMe t).cl = s.cl := rfl
@[simp] theorem State.setMe_part (s : State) (t : Thread) : (s.setMe t).part = s.part := rfl
@[simp] theorem State.setMe_pkg (s : State) (t : Thread) : (s.setMe t).pkg = s.pkg := rfl
@[simp] theorem State.setMe_mem (s : State) (t : Thread) : (s.setMe t).mem = s.mem := rfl
@[simp] theorem State.setMe_inbox (s : State) (t : Thread) : (s.setMe t).inbox = s.inbox := rfl
@[simp] theorem State.setMe_agenda (s : State) (t : Thread) : (s.setMe t).agenda = s.agenda := rfl
@[simp] theorem State.setMe_out (s : State) (t : Thread) : (s.setMe t).out = s.out := rfl

@[simp] theorem State.modMe_ctl (s : State) (f : Thread → Thread) : (s.modMe f).ctl = s.ctl := rfl
@[simp] theorem State.modMe_core (s : State) (f : Thread → Thread) : (s.modMe f).core = s.core := rfl
@[simp] theorem State.modMe_cl (s : State) (f : Thread → Thread) : (s.modMe f).cl = s.cl := rfl
@[simp] theorem State.modMe_part (s : State) (f : Thread → Thread) : (s.modMe f).part = s.part := rfl
@[simp] theorem State.modMe_pkg (s : State) (f : Thread → Thread) : (s.modMe f).pkg = s.pkg := rfl
@[simp] theorem State.modMe_mem (s : State) (f : Thread → Thread) : (s.modMe f).mem = s.mem := rfl
@[simp] theorem State.modMe_inbox (s : State) (f : Thread → Thread) : (s.modMe f).inbox = s.inbox := rfl
@[simp] theorem State.modMe_agenda (s : State) (f : Thread → Thread) : (s.modMe f).agenda = s.agenda := rfl
@[simp] theorem State.modMe_out (s : State) (f : Thread → Thread) : (s.modMe f).out = s.out := rfl

@[simp] theorem State.modRegs_ctl (s : State) (f : RegFile → RegFile) : (s.modRegs f).ctl = s.ctl := rfl
@[simp] theorem State.modRegs_core (s : State) (f : RegFile → RegFile) : (s.modRegs f).core = s.core := rfl
@[simp] theorem State.modRegs_cl (s : State) (f : RegFile → RegFile) : (s.modRegs f).cl = s.cl := rfl
@[simp] theorem State.modRegs_part (s : State) (f : RegFile → RegFile) : (s.modRegs f).part = s.part := rfl
@[simp] theorem State.modRegs_pkg (s : State) (f : RegFile → RegFile) : (s.modRegs f).pkg = s.pkg := rfl
@[simp] theorem State.modRegs_mem (s : State) (f : RegFile → RegFile) : (s.modRegs f).mem = s.mem := rfl
@[simp] theorem State.modRegs_inbox (s : State) (f : RegFile → RegFile) : (s.modRegs f).inbox = s.inbox := rfl
@[simp] theorem State.modRegs_agenda (s : State) (f : RegFile → RegFile) : (s.modRegs f).agenda = s.agenda := rfl
@[simp] theorem State.modRegs_out (s : State) (f : RegFile → RegFile) : (s.modRegs f).out = s.out := rfl

@[simp] theorem State.wrT_ctl (s : State) (r : SReg) (v : Word) (p : Bool) (g : Tag) : (s.wrT r v p g).ctl = s.ctl := rfl
@[simp] theorem State.wrT_core (s : State) (r : SReg) (v : Word) (p : Bool) (g : Tag) : (s.wrT r v p g).core = s.core := rfl
@[simp] theorem State.wrT_cl (s : State) (r : SReg) (v : Word) (p : Bool) (g : Tag) : (s.wrT r v p g).cl = s.cl := rfl
@[simp] theorem State.wrT_part (s : State) (r : SReg) (v : Word) (p : Bool) (g : Tag) : (s.wrT r v p g).part = s.part := rfl
@[simp] theorem State.wrT_pkg (s : State) (r : SReg) (v : Word) (p : Bool) (g : Tag) : (s.wrT r v p g).pkg = s.pkg := rfl
@[simp] theorem State.wrT_mem (s : State) (r : SReg) (v : Word) (p : Bool) (g : Tag) : (s.wrT r v p g).mem = s.mem := rfl
@[simp] theorem State.wrT_inbox (s : State) (r : SReg) (v : Word) (p : Bool) (g : Tag) : (s.wrT r v p g).inbox = s.inbox := rfl
@[simp] theorem State.wrT_agenda (s : State) (r : SReg) (v : Word) (p : Bool) (g : Tag) : (s.wrT r v p g).agenda = s.agenda := rfl
@[simp] theorem State.wrT_out (s : State) (r : SReg) (v : Word) (p : Bool) (g : Tag) : (s.wrT r v p g).out = s.out := rfl

@[simp] theorem State.wr_ctl (s : State) (r : SReg) (v : Word) (p : Bool) : (s.wr r v p).ctl = s.ctl := rfl
@[simp] theorem State.wr_core (s : State) (r : SReg) (v : Word) (p : Bool) : (s.wr r v p).core = s.core := rfl
@[simp] theorem State.wr_cl (s : State) (r : SReg) (v : Word) (p : Bool) : (s.wr r v p).cl = s.cl := rfl
@[simp] theorem State.wr_part (s : State) (r : SReg) (v : Word) (p : Bool) : (s.wr r v p).part = s.part := rfl
@[simp] theorem State.wr_pkg (s : State) (r : SReg) (v : Word) (p : Bool) : (s.wr r v p).pkg = s.pkg := rfl
@[simp] theorem State.wr_mem (s : State) (r : SReg) (v : Word) (p : Bool) : (s.wr r v p).mem = s.mem := rfl
@[simp] theorem State.wr_inbox (s : State) (r : SReg) (v : Word) (p : Bool) : (s.wr r v p).inbox = s.inbox := rfl
@[simp] theorem State.wr_agenda (s : State) (r : SReg) (v : Word) (p : Bool) : (s.wr r v p).agenda = s.agenda := rfl
@[simp] theorem State.wr_out (s : State) (r : SReg) (v : Word) (p : Bool) : (s.wr r v p).out = s.out := rfl

@[simp] theorem State.wq_ctl (s : State) (r : PReg) (m : Word) (p : Bool) : (s.wq r m p).ctl = s.ctl := rfl
@[simp] theorem State.wq_core (s : State) (r : PReg) (m : Word) (p : Bool) : (s.wq r m p).core = s.core := rfl
@[simp] theorem State.wq_cl (s : State) (r : PReg) (m : Word) (p : Bool) : (s.wq r m p).cl = s.cl := rfl
@[simp] theorem State.wq_part (s : State) (r : PReg) (m : Word) (p : Bool) : (s.wq r m p).part = s.part := rfl
@[simp] theorem State.wq_pkg (s : State) (r : PReg) (m : Word) (p : Bool) : (s.wq r m p).pkg = s.pkg := rfl
@[simp] theorem State.wq_mem (s : State) (r : PReg) (m : Word) (p : Bool) : (s.wq r m p).mem = s.mem := rfl
@[simp] theorem State.wq_inbox (s : State) (r : PReg) (m : Word) (p : Bool) : (s.wq r m p).inbox = s.inbox := rfl
@[simp] theorem State.wq_agenda (s : State) (r : PReg) (m : Word) (p : Bool) : (s.wq r m p).agenda = s.agenda := rfl
@[simp] theorem State.wq_out (s : State) (r : PReg) (m : Word) (p : Bool) : (s.wq r m p).out = s.out := rfl

@[simp] theorem State.farS_ctl (s : State) (d : SReg) (v : Option FarVal) (fl : Flags) (k : Bool) : (s.farS d v fl k).ctl = s.ctl := rfl
@[simp] theorem State.farS_core (s : State) (d : SReg) (v : Option FarVal) (fl : Flags) (k : Bool) : (s.farS d v fl k).core = s.core := rfl
@[simp] theorem State.farS_cl (s : State) (d : SReg) (v : Option FarVal) (fl : Flags) (k : Bool) : (s.farS d v fl k).cl = s.cl := rfl
@[simp] theorem State.farS_part (s : State) (d : SReg) (v : Option FarVal) (fl : Flags) (k : Bool) : (s.farS d v fl k).part = s.part := rfl
@[simp] theorem State.farS_pkg (s : State) (d : SReg) (v : Option FarVal) (fl : Flags) (k : Bool) : (s.farS d v fl k).pkg = s.pkg := rfl
@[simp] theorem State.farS_mem (s : State) (d : SReg) (v : Option FarVal) (fl : Flags) (k : Bool) : (s.farS d v fl k).mem = s.mem := rfl
@[simp] theorem State.farS_inbox (s : State) (d : SReg) (v : Option FarVal) (fl : Flags) (k : Bool) : (s.farS d v fl k).inbox = s.inbox := rfl
@[simp] theorem State.farS_agenda (s : State) (d : SReg) (v : Option FarVal) (fl : Flags) (k : Bool) : (s.farS d v fl k).agenda = s.agenda := rfl
@[simp] theorem State.farS_out (s : State) (d : SReg) (v : Option FarVal) (fl : Flags) (k : Bool) : (s.farS d v fl k).out = s.out := rfl

@[simp] theorem State.later_ctl (s : State) (es : List Instr) : (s.later es).ctl = s.ctl := rfl
@[simp] theorem State.later_slots (s : State) (es : List Instr) : (s.later es).slots = s.slots := rfl
@[simp] theorem State.later_core (s : State) (es : List Instr) : (s.later es).core = s.core := rfl
@[simp] theorem State.later_cl (s : State) (es : List Instr) : (s.later es).cl = s.cl := rfl
@[simp] theorem State.later_part (s : State) (es : List Instr) : (s.later es).part = s.part := rfl
@[simp] theorem State.later_pkg (s : State) (es : List Instr) : (s.later es).pkg = s.pkg := rfl
@[simp] theorem State.later_mem (s : State) (es : List Instr) : (s.later es).mem = s.mem := rfl
@[simp] theorem State.later_inbox (s : State) (es : List Instr) : (s.later es).inbox = s.inbox := rfl
@[simp] theorem State.later_out (s : State) (es : List Instr) : (s.later es).out = s.out := rfl

@[simp] theorem State.send_ctl (s : State) (m : Msg) : (s.send m).ctl = s.ctl := rfl
@[simp] theorem State.send_slots (s : State) (m : Msg) : (s.send m).slots = s.slots := rfl
@[simp] theorem State.send_core (s : State) (m : Msg) : (s.send m).core = s.core := rfl
@[simp] theorem State.send_cl (s : State) (m : Msg) : (s.send m).cl = s.cl := rfl
@[simp] theorem State.send_part (s : State) (m : Msg) : (s.send m).part = s.part := rfl
@[simp] theorem State.send_pkg (s : State) (m : Msg) : (s.send m).pkg = s.pkg := rfl
@[simp] theorem State.send_mem (s : State) (m : Msg) : (s.send m).mem = s.mem := rfl
@[simp] theorem State.send_inbox (s : State) (m : Msg) : (s.send m).inbox = s.inbox := rfl
@[simp] theorem State.send_agenda (s : State) (m : Msg) : (s.send m).agenda = s.agenda := rfl

@[simp] theorem State.modPriv_ctl (s : State) (f : Priv → Priv) : (s.modPriv f).ctl = s.ctl := rfl
@[simp] theorem State.modPriv_slots (s : State) (f : Priv → Priv) : (s.modPriv f).slots = s.slots := rfl
@[simp] theorem State.modPriv_cl (s : State) (f : Priv → Priv) : (s.modPriv f).cl = s.cl := rfl
@[simp] theorem State.modPriv_part (s : State) (f : Priv → Priv) : (s.modPriv f).part = s.part := rfl
@[simp] theorem State.modPriv_pkg (s : State) (f : Priv → Priv) : (s.modPriv f).pkg = s.pkg := rfl
@[simp] theorem State.modPriv_mem (s : State) (f : Priv → Priv) : (s.modPriv f).mem = s.mem := rfl
@[simp] theorem State.modPriv_inbox (s : State) (f : Priv → Priv) : (s.modPriv f).inbox = s.inbox := rfl
@[simp] theorem State.modPriv_agenda (s : State) (f : Priv → Priv) : (s.modPriv f).agenda = s.agenda := rfl
@[simp] theorem State.modPriv_out (s : State) (f : Priv → Priv) : (s.modPriv f).out = s.out := rfl

@[simp] theorem State.putV_ctl (s : State) (i : SlotN) (r : VNum) (x : VReg) : (s.putV i r x).ctl = s.ctl := rfl
@[simp] theorem State.putV_slots (s : State) (i : SlotN) (r : VNum) (x : VReg) : (s.putV i r x).slots = s.slots := rfl
@[simp] theorem State.putV_cl (s : State) (i : SlotN) (r : VNum) (x : VReg) : (s.putV i r x).cl = s.cl := rfl
@[simp] theorem State.putV_part (s : State) (i : SlotN) (r : VNum) (x : VReg) : (s.putV i r x).part = s.part := rfl
@[simp] theorem State.putV_pkg (s : State) (i : SlotN) (r : VNum) (x : VReg) : (s.putV i r x).pkg = s.pkg := rfl
@[simp] theorem State.putV_mem (s : State) (i : SlotN) (r : VNum) (x : VReg) : (s.putV i r x).mem = s.mem := rfl
@[simp] theorem State.putV_inbox (s : State) (i : SlotN) (r : VNum) (x : VReg) : (s.putV i r x).inbox = s.inbox := rfl
@[simp] theorem State.putV_agenda (s : State) (i : SlotN) (r : VNum) (x : VReg) : (s.putV i r x).agenda = s.agenda := rfl
@[simp] theorem State.putV_out (s : State) (i : SlotN) (r : VNum) (x : VReg) : (s.putV i r x).out = s.out := rfl

@[simp] theorem State.noteV_ctl (s : State) (r : VNum) : (s.noteV r).ctl = s.ctl := rfl
@[simp] theorem State.noteV_core (s : State) (r : VNum) : (s.noteV r).core = s.core := rfl
@[simp] theorem State.noteV_cl (s : State) (r : VNum) : (s.noteV r).cl = s.cl := rfl
@[simp] theorem State.noteV_part (s : State) (r : VNum) : (s.noteV r).part = s.part := rfl
@[simp] theorem State.noteV_pkg (s : State) (r : VNum) : (s.noteV r).pkg = s.pkg := rfl
@[simp] theorem State.noteV_mem (s : State) (r : VNum) : (s.noteV r).mem = s.mem := rfl
@[simp] theorem State.noteV_inbox (s : State) (r : VNum) : (s.noteV r).inbox = s.inbox := rfl
@[simp] theorem State.noteV_agenda (s : State) (r : VNum) : (s.noteV r).agenda = s.agenda := rfl
@[simp] theorem State.noteV_out (s : State) (r : VNum) : (s.noteV r).out = s.out := rfl

@[simp] theorem State.wv_ctl (s : State) (r : VNum) (x : VVal) : (s.wv r x).ctl = s.ctl := rfl
@[simp] theorem State.wv_core (s : State) (r : VNum) (x : VVal) : (s.wv r x).core = s.core := rfl
@[simp] theorem State.wv_cl (s : State) (r : VNum) (x : VVal) : (s.wv r x).cl = s.cl := rfl
@[simp] theorem State.wv_part (s : State) (r : VNum) (x : VVal) : (s.wv r x).part = s.part := rfl
@[simp] theorem State.wv_pkg (s : State) (r : VNum) (x : VVal) : (s.wv r x).pkg = s.pkg := rfl
@[simp] theorem State.wv_mem (s : State) (r : VNum) (x : VVal) : (s.wv r x).mem = s.mem := rfl
@[simp] theorem State.wv_inbox (s : State) (r : VNum) (x : VVal) : (s.wv r x).inbox = s.inbox := rfl
@[simp] theorem State.wv_agenda (s : State) (r : VNum) (x : VVal) : (s.wv r x).agenda = s.agenda := rfl
@[simp] theorem State.wv_out (s : State) (r : VNum) (x : VVal) : (s.wv r x).out = s.out := rfl

@[simp] theorem State.farV_ctl (s : State) (d : VNum) (v : Option FarVal) (fl : Flags) : (s.farV d v fl).ctl = s.ctl := rfl
@[simp] theorem State.farV_core (s : State) (d : VNum) (v : Option FarVal) (fl : Flags) : (s.farV d v fl).core = s.core := rfl
@[simp] theorem State.farV_cl (s : State) (d : VNum) (v : Option FarVal) (fl : Flags) : (s.farV d v fl).cl = s.cl := rfl
@[simp] theorem State.farV_part (s : State) (d : VNum) (v : Option FarVal) (fl : Flags) : (s.farV d v fl).part = s.part := rfl
@[simp] theorem State.farV_pkg (s : State) (d : VNum) (v : Option FarVal) (fl : Flags) : (s.farV d v fl).pkg = s.pkg := rfl
@[simp] theorem State.farV_mem (s : State) (d : VNum) (v : Option FarVal) (fl : Flags) : (s.farV d v fl).mem = s.mem := rfl
@[simp] theorem State.farV_inbox (s : State) (d : VNum) (v : Option FarVal) (fl : Flags) : (s.farV d v fl).inbox = s.inbox := rfl
@[simp] theorem State.farV_agenda (s : State) (d : VNum) (v : Option FarVal) (fl : Flags) : (s.farV d v fl).agenda = s.agenda := rfl
@[simp] theorem State.farV_out (s : State) (d : VNum) (v : Option FarVal) (fl : Flags) : (s.farV d v fl).out = s.out := rfl

@[simp] theorem State.wk_ctl (s : State) (r : KReg) (x : BitVec 16) : (s.wk r x).ctl = s.ctl := rfl
@[simp] theorem State.wk_core (s : State) (r : KReg) (x : BitVec 16) : (s.wk r x).core = s.core := rfl
@[simp] theorem State.wk_cl (s : State) (r : KReg) (x : BitVec 16) : (s.wk r x).cl = s.cl := rfl
@[simp] theorem State.wk_part (s : State) (r : KReg) (x : BitVec 16) : (s.wk r x).part = s.part := rfl
@[simp] theorem State.wk_pkg (s : State) (r : KReg) (x : BitVec 16) : (s.wk r x).pkg = s.pkg := rfl
@[simp] theorem State.wk_mem (s : State) (r : KReg) (x : BitVec 16) : (s.wk r x).mem = s.mem := rfl
@[simp] theorem State.wk_inbox (s : State) (r : KReg) (x : BitVec 16) : (s.wk r x).inbox = s.inbox := rfl
@[simp] theorem State.wk_agenda (s : State) (r : KReg) (x : BitVec 16) : (s.wk r x).agenda = s.agenda := rfl
@[simp] theorem State.wk_out (s : State) (r : KReg) (x : BitVec 16) : (s.wk r x).out = s.out := rfl

@[simp] theorem State.markFp_ctl (s : State) : s.markFp.ctl = s.ctl := rfl
@[simp] theorem State.markFp_core (s : State) : s.markFp.core = s.core := rfl
@[simp] theorem State.markFp_cl (s : State) : s.markFp.cl = s.cl := rfl
@[simp] theorem State.markFp_part (s : State) : s.markFp.part = s.part := rfl
@[simp] theorem State.markFp_pkg (s : State) : s.markFp.pkg = s.pkg := rfl
@[simp] theorem State.markFp_mem (s : State) : s.markFp.mem = s.mem := rfl
@[simp] theorem State.markFp_inbox (s : State) : s.markFp.inbox = s.inbox := rfl
@[simp] theorem State.markFp_agenda (s : State) : s.markFp.agenda = s.agenda := rfl
@[simp] theorem State.markFp_out (s : State) : s.markFp.out = s.out := rfl

@[simp] theorem State.later_agenda (s : State) (es : List Instr) : (s.later es).agenda = s.agenda ++ es := rfl
@[simp] theorem State.send_out (s : State) (m : Msg) : (s.send m).out = s.out ++ [m] := rfl
@[simp] theorem State.modPriv_priv (s : State) (f : Priv → Priv) : (s.modPriv f).core.priv = f s.core.priv := rfl

/-! Slots. -/

@[simp] theorem State.slot_setSlot_self (s : State) (i : SlotN) (x : Slot) : (s.setSlot i x).slot i = x :=
  Bank.get_set_eq _ _ _
theorem State.slot_setSlot_ne (s : State) (i j : SlotN) (x : Slot) (h : j ≠ i) : (s.setSlot i x).slot j = s.slot j :=
  Bank.get_set_ne _ _ _ _ (Ne.symm h)
@[simp] theorem State.th_setTh_self (s : State) (i : SlotN) (t : Thread) : (s.setTh i t).th i = t := by
  simp [State.th, State.setTh]
theorem State.slot_setTh_ne (s : State) (i j : SlotN) (t : Thread) (h : j ≠ i) : (s.setTh i t).slot j = s.slot j := by
  simp [State.setTh, State.slot_setSlot_ne _ _ _ _ h]
theorem State.th_setTh_ne (s : State) (i j : SlotN) (t : Thread) (h : j ≠ i) : (s.setTh i t).th j = s.th j := by
  simp [State.th, State.slot_setTh_ne _ _ _ _ h]
@[simp] theorem State.th_modTh_self (s : State) (i : SlotN) (f : Thread → Thread) : (s.modTh i f).th i = f (s.th i) := by
  simp [State.modTh]
theorem State.slot_modTh_ne (s : State) (i j : SlotN) (f : Thread → Thread) (h : j ≠ i) : (s.modTh i f).slot j = s.slot j :=
  State.slot_setTh_ne _ _ _ _ h
/-- An update of a thread leaves the rest of its slot. -/
theorem State.slot_setTh_self (s : State) (i : SlotN) (t : Thread) : (s.setTh i t).slot i = { s.slot i with th := t } := by
  simp [State.setTh]
@[simp] theorem State.slot_later (s : State) (es : List Instr) (j : SlotN) : (s.later es).slot j = s.slot j := rfl
@[simp] theorem State.th_later (s : State) (es : List Instr) (j : SlotN) : (s.later es).th j = s.th j := rfl
@[simp] theorem State.me_later (s : State) (es : List Instr) : (s.later es).me = s.me := rfl
@[simp] theorem State.slot_send (s : State) (m : Msg) (j : SlotN) : (s.send m).slot j = s.slot j := rfl
@[simp] theorem State.me_send (s : State) (m : Msg) : (s.send m).me = s.me := rfl
@[simp] theorem State.slot_putV (s : State) (i j : SlotN) (r : VNum) (x : VReg) : (s.putV i r x).slot j = s.slot j := rfl
@[simp] theorem State.me_putV (s : State) (i : SlotN) (r : VNum) (x : VReg) : (s.putV i r x).me = s.me := rfl

/-! The thread in hand. -/

@[simp] theorem State.me_setMe (s : State) (t : Thread) : (s.setMe t).me = t := State.th_setTh_self _ _ _
@[simp] theorem State.me_modMe (s : State) (f : Thread → Thread) : (s.modMe f).me = f s.me := State.me_setMe _ _
theorem State.slot_setMe_ne (s : State) (t : Thread) (j : SlotN) (h : j ≠ s.ctl.cur) : (s.setMe t).slot j = s.slot j :=
  State.slot_setTh_ne _ _ _ _ h
theorem State.slot_modMe_ne (s : State) (f : Thread → Thread) (j : SlotN) (h : j ≠ s.ctl.cur) : (s.modMe f).slot j = s.slot j :=
  State.slot_setTh_ne _ _ _ _ h
theorem State.slot_modMe_self (s : State) (f : Thread → Thread) :
    (s.modMe f).slot s.ctl.cur = { s.slot s.ctl.cur with th := f s.me } := State.slot_setTh_self _ _ _
@[simp] theorem State.me_modRegs (s : State) (f : RegFile → RegFile) :
    (s.modRegs f).me = { s.me with regs := f s.me.regs } := State.me_modMe _ _
@[simp] theorem State.me_wrT (s : State) (r : SReg) (v : Word) (p : Bool) (g : Tag) :
    (s.wrT r v p g).me = { s.me with regs := s.me.regs.setS r ⟨v, p, false, s.me.seq, if p then none else g⟩ } := State.me_modRegs _ _
@[simp] theorem State.me_wr (s : State) (r : SReg) (v : Word) (p : Bool) :
    (s.wr r v p).me = { s.me with regs := s.me.regs.setS r ⟨v, p, false, s.me.seq, none⟩ } := by
  simp [State.wr]
@[simp] theorem State.me_wq (s : State) (r : PReg) (m : Word) (p : Bool) :
    (s.wq r m p).me = { s.me with regs := s.me.regs.setP r ⟨m, p, false, s.me.seq⟩ } := State.me_modRegs _ _
@[simp] theorem State.me_wk (s : State) (r : KReg) (x : BitVec 16) :
    (s.wk r x).me = { s.me with regs := { s.me.regs.setReach r x with kw := s.me.regs.kw.set (fin4 r.toNat) s.me.seq } } :=
  State.me_modRegs _ _
@[simp] theorem State.me_noteV (s : State) (r : VNum) : (s.noteV r).me = { s.me with cur := { s.me.cur with
    vregs := if s.me.cur.vregs.contains r then s.me.cur.vregs else r :: s.me.cur.vregs } } := State.me_modMe _ _
/-- A near vector result stands last in the staging buffer (R38). -/
@[simp] theorem State.me_wv (s : State) (r : VNum) (x : VVal) : (s.wv r x).me = { (s.noteV r).me with
    staged := s.me.staged ++ [⟨r, ⟨x, s.me.seq⟩, s.me.cur.no⟩] } := by simp [State.wv]
/-- A far packet's entry stands last in the far table (R36). -/
@[simp] theorem State.me_farS (s : State) (d : SReg) (v : Option FarVal) (fl : Flags) (k : Bool) : (s.farS d v fl k).me = { s.me with
    regs := s.me.regs.setS d { s.me.regs.s d with far := true, wseq := s.me.seq, tag := none }
    far := s.me.far ++ [⟨s.me.seq, s.me.inc, .scalar d, v, fl, k, s.me.cur.no, false, false⟩] } := State.me_modMe _ _
@[simp] theorem State.me_farV (s : State) (d : VNum) (v : Option FarVal) (fl : Flags) : (s.farV d v fl).me = { (s.noteV d).me with
    far := s.me.far ++ [⟨s.me.seq, s.me.inc, .vec d, v, fl, false, s.me.cur.no, false, false⟩] } := by simp [State.farV]
/-- An update of the thread in hand after an update is one update. -/
@[simp] theorem State.setSlot_setSlot (s : State) (i : SlotN) (x y : Slot) : (s.setSlot i x).setSlot i y = s.setSlot i y := by
  simp [State.setSlot, Bank.set]
@[simp] theorem State.setTh_setTh (s : State) (i : SlotN) (t u : Thread) : (s.setTh i t).setTh i u = s.setTh i u := by
  simp [State.setTh]
@[simp] theorem State.setMe_setMe (s : State) (t u : Thread) : (s.setMe t).setMe u = s.setMe u := State.setTh_setTh _ _ _ _

/-! Register files (R48, R53, R60). -/

theorem fin64_add_inj {b x y : Nat} (hx : x < 64) (hy : y < 64) (h : fin64 (b + x) = fin64 (b + y)) : x = y := by
  have : (b + x) % 64 = (b + y) % 64 := congrArg Fin.val h
  omega
/-- Two names of a frame stand in two entries (R60). -/
theorem Window.entry_inj (w : Window) (r q : SReg) (hr : 8 ≤ r.toNat) (hq : 8 ≤ q.toNat) (h : w.entry r = w.entry q) : r = q := by
  have := fin64_add_inj (b := w.base.toNat) (x := r.toNat - 8) (y := q.toNat - 8) (by omega) (by omega) h
  exact BitVec.eq_of_toNat_eq (by omega)
/-- s0 reads zero (R48). -/
@[simp] theorem RegFile.s_zero (f : RegFile) : f.s 0#5 = .zero := rfl
/-- A write to s0 is discarded (R48). -/
@[simp] theorem RegFile.setS_zero (f : RegFile) (c : SCell) : f.setS 0#5 c = f := rfl
theorem SReg.toNat_ne_zero {r : SReg} (h : r ≠ 0) : r.toNat ≠ 0 := fun e => h (BitVec.eq_of_toNat_eq e)
/-- A scalar register reads back what was written to it. -/
theorem RegFile.s_setS_self (f : RegFile) (r : SReg) (c : SCell) (h : r ≠ 0) : (f.setS r c).s r = c := by
  have := SReg.toNat_ne_zero h
  unfold RegFile.setS RegFile.s
  by_cases h8 : r.toNat < 8 <;> simp [this, h8, Bank.get_set_eq]
theorem fin8_ne {a b : Nat} (ha : a < 8) (hb : b < 8) (h : a ≠ b) : fin8 a ≠ fin8 b := fun e => h (by
  have : a % 8 = b % 8 := congrArg Fin.val e
  omega)
/-- A write of one scalar register leaves every other. -/
theorem RegFile.s_setS_ne (f : RegFile) (r q : SReg) (c : SCell) (h : q ≠ r) : (f.setS r c).s q = f.s q := by
  have hn : q.toNat ≠ r.toNat := fun e => h (BitVec.eq_of_toNat_eq e)
  unfold RegFile.setS
  by_cases h0 : r.toNat = 0
  · simp [h0]
  · by_cases h8 : r.toNat < 8 <;> simp only [h0, h8, if_true, if_false] <;> unfold RegFile.s <;>
      by_cases q0 : q.toNat = 0 <;> by_cases q8 : q.toNat < 8 <;> simp only [q0, q8, if_true, if_false]
    · exact Bank.get_set_ne _ _ _ _ (fin8_ne h8 q8 (Ne.symm hn))
    · exact Bank.get_set_ne _ _ _ _ fun e => h (Window.entry_inj _ _ _ (by omega) (by omega) e.symm)
/-- Every scalar register after a write of one. -/
theorem RegFile.s_setS (f : RegFile) (r q : SReg) (c : SCell) : (f.setS r c).s q = if q = r ∧ r ≠ 0 then c else f.s q := by
  by_cases h0 : r = 0
  · rw [if_neg (fun e => e.2 h0), h0]; rfl
  · by_cases h : q = r
    · rw [if_pos ⟨h, h0⟩, h]; exact RegFile.s_setS_self f r c h0
    · rw [if_neg (fun e => h e.1)]; exact RegFile.s_setS_ne f r q c h
@[simp] theorem RegFile.setS_q (f : RegFile) (r : SReg) (c : SCell) : (f.setS r c).q = f.q := by
  unfold RegFile.setS; split
  · rfl
  · split <;> rfl
@[simp] theorem RegFile.setS_k (f : RegFile) (r : SReg) (c : SCell) : (f.setS r c).k = f.k := by
  unfold RegFile.setS; split
  · rfl
  · split <;> rfl
@[simp] theorem RegFile.setS_seed (f : RegFile) (r : SReg) (c : SCell) : (f.setS r c).seed = f.seed := by
  unfold RegFile.setS; split
  · rfl
  · split <;> rfl
@[simp] theorem RegFile.setS_fpctl (f : RegFile) (r : SReg) (c : SCell) : (f.setS r c).fpctl = f.fpctl := by
  unfold RegFile.setS; split
  · rfl
  · split <;> rfl
@[simp] theorem RegFile.setS_fpflags (f : RegFile) (r : SReg) (c : SCell) : (f.setS r c).fpflags = f.fpflags := by
  unfold RegFile.setS; split
  · rfl
  · split <;> rfl
@[simp] theorem RegFile.setS_win (f : RegFile) (r : SReg) (c : SCell) : (f.setS r c).win = f.win := by
  unfold RegFile.setS; split
  · rfl
  · split <;> rfl
@[simp] theorem RegFile.setS_p (f : RegFile) (r : SReg) (c : SCell) (q : PReg) : (f.setS r c).p q = f.p q := by
  simp [RegFile.p]
@[simp] theorem RegFile.setS_reach (f : RegFile) (r : SReg) (c : SCell) (k : KReg) : (f.setS r c).reach k = f.reach k := by
  simp [RegFile.reach]
/-- q0 reads all ones (R53). -/
@[simp] theorem RegFile.p_zero (f : RegFile) : f.p 0#3 = ⟨BitVec.allOnes 64, false, false, 0⟩ := rfl
@[simp] theorem RegFile.setP_zero (f : RegFile) (c : QCell) : f.setP 0#3 c = f := rfl
theorem PReg.toNat_ne_zero {r : PReg} (h : r ≠ 0) : r.toNat ≠ 0 := fun e => h (BitVec.eq_of_toNat_eq e)
/-- Every predicate after a write of one. -/
theorem RegFile.p_setP (f : RegFile) (r q : PReg) (c : QCell) : (f.setP r c).p q = if q = r ∧ r ≠ 0 then c else f.p q := by
  by_cases h0 : r = 0
  · rw [if_neg (fun e => e.2 h0), h0]; rfl
  · have r0 := PReg.toNat_ne_zero h0
    have hs : f.setP r c = { f with q := f.q.set (fin8 r.toNat) c } := by simp only [RegFile.setP, r0, if_false]
    by_cases h : q = r
    · rw [if_pos ⟨h, h0⟩, h, hs]
      simp only [RegFile.p, r0, if_false, Bank.get_set_eq]
    · have hn : r.toNat ≠ q.toNat := fun e => h (BitVec.eq_of_toNat_eq e.symm)
      rw [if_neg (fun e => h e.1), hs]
      by_cases q0 : q.toNat = 0
      · simp only [RegFile.p, q0, if_true]
      · simp only [RegFile.p, q0, if_false, Bank.get_set_ne _ _ _ _ (fin8_ne (by omega) (by omega) hn)]
@[simp] theorem RegFile.setP_s (f : RegFile) (r : PReg) (c : QCell) (d : SReg) : (f.setP r c).s d = f.s d := by
  unfold RegFile.setP; split <;> rfl
@[simp] theorem RegFile.setP_reach (f : RegFile) (r : PReg) (c : QCell) (k : KReg) : (f.setP r c).reach k = f.reach k := by
  unfold RegFile.setP; split <;> rfl
@[simp] theorem RegFile.setP_seed (f : RegFile) (r : PReg) (c : QCell) : (f.setP r c).seed = f.seed := by
  unfold RegFile.setP; split <;> rfl
@[simp] theorem RegFile.setP_fpctl (f : RegFile) (r : PReg) (c : QCell) : (f.setP r c).fpctl = f.fpctl := by
  unfold RegFile.setP; split <;> rfl
@[simp] theorem RegFile.setP_fpflags (f : RegFile) (r : PReg) (c : QCell) : (f.setP r c).fpflags = f.fpflags := by
  unfold RegFile.setP; split <;> rfl
@[simp] theorem RegFile.setP_win (f : RegFile) (r : PReg) (c : QCell) : (f.setP r c).win = f.win := by
  unfold RegFile.setP; split <;> rfl

end Sys2Proof.Machine
end

