-- ==== Sys2Proof/Laws/Canonical.lean ====
section
/-! SUPPORT. Every operation that writes memory keeps its canonical form; reset has it. -/
namespace Sys2Proof.Machine

theorem reset_wf : State.reset.mem.wf = true := by decide

/-! Memory operations of the units. -/

theorem wf_heldTo {m : Memory} (h : m.wf = true) (hs : List Held) : (heldTo m hs).wf = true :=
  Memory.wf_foldl _ (fun _ _ h => Memory.wf_store h _ _ _) _ _ h
theorem wf_outTo {m : Memory} (h : m.wf = true) (os : List OutStore) : (outTo m os).wf = true :=
  Memory.wf_foldl _ (fun _ _ h => Memory.wf_store h _ _ _) _ _ h
theorem wf_viewMem {s : State} (h : s.mem.wf = true) (i : SlotN) : (viewMem s i).wf = true :=
  wf_heldTo (wf_outTo (wf_outTo h _) _) _
theorem wf_storeElem (s : State) (off : Nat) : ∀ (ws : List (List Byte × Bool)) (j : Nat) (m : Memory), m.wf = true →
    (storeElem s off j ws m).wf = true
  | [], _, _, h => h
  | (d, p) :: ws, j, _, h => wf_storeElem s off ws (j + 8) _ (Memory.wf_store h _ d p)
theorem wf_putWords : ∀ (ws : List Nat) (a : Nat) (m : Memory), m.wf = true → (putWords m a ws).wf = true
  | [], _, _, h => h
  | _ :: ws, a, _, h => wf_putWords ws (a + 8) _ (Memory.wf_engineWord h _ _ _)
theorem wf_fullLine {m : Memory} (h : m.wf = true) (line : Nat) : (fullLine m line).wf = true :=
  Memory.wf_foldl _ (fun _ _ h => Memory.wf_setFull h _ _) _ _ h
theorem wf_shadowMem {m : Memory} (h : m.wf = true) (x : Shadow) : (shadowMem m x).wf = true :=
  Memory.wf_foldl _ (fun _ _ h => Memory.wf_setFull h _ _) _ _ (Memory.wf_foldl _ (fun _ _ h => Memory.wf_setPois h _ _) _ _
    (Memory.wf_foldl _ (fun _ _ h => Memory.wf_setByte h _ _) _ _ h))
theorem wf_writeWords (lines : List Nat) : ∀ (ws : List Nat) (k : Nat) (m : Memory), m.wf = true → (writeWords m lines k ws).wf = true
  | [], _, _, h => h
  | _ :: ws, k, _, h => wf_writeWords lines ws (k + 1) _ (Memory.wf_engineWord h _ _ _)
theorem wf_writeBlocks (ls : List Nat) : ∀ (ws : List (Nat × Bool)) (k : Nat) (m : Memory), m.wf = true → (writeBlocks m ls k ws).wf = true
  | [], _, _, h => h
  | (_, _) :: ws, k, _, h => wf_writeBlocks ls ws (k + 1) _ (Memory.wf_engineWord h _ _ _)
theorem wf_landWord {m : Memory} (h : m.wf = true) (img : Image) (v : FarVal) (p : Nat) : (landWord m img v p).wf = true := by
  unfold landWord
  cases v with
  | scalar x g =>
    dsimp only
    repeat' split
    all_goals first | exact h | exact Memory.wf_engineWord (Memory.wf_engineWord (Memory.wf_engineWord h _ _ _) _ _ _) _ _ _
  | vec x =>
    dsimp only
    split
    · exact Memory.wf_engineWord (Memory.wf_engineWord (Memory.wf_foldl _ (fun _ _ h => Memory.wf_engineWord h _ _ _) _ _ h) _ _ _) _ _ _
    · exact h
  | discard => exact Memory.wf_engineWord h _ _ _
theorem wf_captureWords : ∀ (n : Nat) (src dst : List Nat) (m : Memory), m.wf = true → (captureWords m src dst n).wf = true
  | 0, _, _, _, h => h
  | n + 1, _, _, _, h => wf_captureWords n _ _ _ (Memory.wf_engineWord h _ _ _)
theorem wf_putDesc {m : Memory} (h : m.wf = true) (a : Nat) (d : RangeDesc) : (putDesc m a d).wf = true := Memory.wf_store h _ _ _
theorem wf_copyRow {m : Memory} (h : m.wf = true) (src dst : Nat) : (copyRow m src dst).wf = true :=
  Memory.wf_foldl _ (fun _ _ h => Memory.wf_store h _ _ _) _ _ h
theorem wf_rowsUp (table i : Nat) : ∀ (n : Nat) (m : Memory), m.wf = true → (rowsUp m table i n).wf = true
  | 0, _, h => h
  | n + 1, _, h => by
    unfold rowsUp
    split
    · exact wf_rowsUp table i n _ (wf_copyRow h _ _)
    · exact h
theorem wf_rowsDown {m : Memory} (h : m.wf = true) (table i n : Nat) : (rowsDown m table i n).wf = true :=
  Memory.wf_foldl _ (fun _ _ h => wf_copyRow h _ _) _ _ h
theorem wf_growFull {m : Memory} (h : m.wf = true) (d : RangeDesc) (lo hi : Nat) : (growFull m d lo hi).wf = true := by
  unfold growFull
  split
  · exact h
  · exact Memory.wf_fill h _
theorem wf_setImageBit {m : Memory} (h : m.wf = true) (img : Image) (k b : Nat) (on : Bool) : (setImageBit m img k b on).wf = true :=
  Memory.wf_engineWord h _ _ _
theorem wf_poisonPlace {m : Memory} (h : m.wf = true) (img : Image) (p : Nat) : (poisonPlace m img p).wf = true := by
  unfold poisonPlace
  dsimp only
  split
  · exact Memory.wf_engineWord (wf_setImageBit h _ _ _ _) _ _ _
  · exact wf_setImageBit (wf_setImageBit h _ _ _ _) _ _ _ _
theorem wf_homeMem {m : Memory} (h : m.wf = true) (op : HomeOp) : (homeMem m op).wf = true := by
  unfold homeMem
  dsimp only
  split
  · exact h
  · exact Memory.wf_setFull h _ _
  · exact Memory.wf_setFull (Memory.wf_store h _ _ _) _ _
  · exact Memory.wf_setFull (Memory.wf_store h _ _ _) _ _
  · exact Memory.wf_setFull h _ _
  · exact Memory.wf_store h _ _ _
  · exact Memory.wf_store h _ _ _
  · exact Memory.wf_foldl _ (fun _ _ h => Memory.wf_store h _ _ _) _ _ h

/-! State operations that write memory, and shared ones that do not. -/

@[simp] theorem markWrite_mem (s : State) (b : Option SlotN) (ls : List Nat) : (markWrite s b ls).mem = s.mem := rfl
@[simp] theorem setRing_mem (s : State) (r : RingN) (g : Ring) : (setRing s r g).mem = s.mem := rfl
/-- A list of updates, each of which keeps a property of states, keeps it. -/
theorem foldl_keeps {α : Type} (P : State → Prop) (f : State → α → State) (hf : ∀ s x, P s → P (f s x)) :
    ∀ (l : List α) (s : State), P s → P (l.foldl f s)
  | [], _, h => h
  | x :: l, s, h => foldl_keeps P f hf l _ (hf s x h)
theorem wf_homeStore {s : State} (h : s.mem.wf = true) (o : OutStore) : (homeStore s o).mem.wf = true := Memory.wf_store h _ _ _
theorem wf_replyMem {m : Memory} (h : m.wf = true) (op : HomeOp) (v : SVal) : (replyMem m op v).wf = true := by
  apply wf_homeMem
  split
  · exact Memory.wf_setFull (Memory.wf_store h _ _ _) _ _
  · exact Memory.wf_setFull (Memory.wf_store h _ _ _) _ _
  · exact Memory.wf_store h _ _ _
  · exact Memory.wf_store h _ _ _
  · exact h
@[simp] theorem transmit_mem (s : State) (d : BitVec 8) (m : E2EMsg) : (transmit s d m).mem = s.mem := by
  unfold transmit
  repeat' split
  all_goals rfl
@[simp] theorem sendE2E_mem (s : State) (d : BitVec 8) (v : BitVec 2) (b : E2EBody) : (sendE2E s d v b).mem = s.mem := by
  unfold sendE2E
  rw [transmit_mem]
  rfl
@[simp] theorem waitedWord_mem (s : State) (b : Issuer) (a : Nat) (c : CoreId) (i : SlotN) : (waitedWord s b a c i).mem = s.mem := by
  unfold waitedWord
  cases b with
  | slot => rfl
  | core w => dsimp only; split <;> rfl
  | away => exact sendE2E_mem _ _ _ _
theorem wf_wakeWaiter {s : State} (h : s.mem.wf = true) (b : Issuer) (a : Nat) : (wakeWaiter s b a).mem.wf = true := by
  unfold wakeWaiter
  split
  · exact h
  · rw [waitedWord_mem]; exact h
theorem wf_performHome {s : State} (h : s.mem.wf = true) (b : Issuer) (op : HomeOp) : (performHome s b op).mem.wf = true := by
  unfold performHome
  dsimp only
  split
  · exact wf_wakeWaiter (wf_homeMem h op) _ _
  · exact wf_homeMem h op
theorem wf_landWords (b : Issuer) : ∀ (ws : List (Nat × List Byte × Bool)) (s : State), s.mem.wf = true → (landWords s b ws).mem.wf = true
  | [], _, h => h
  | (_, _, _) :: ws, _, h => wf_landWords b ws _ (wf_wakeWaiter (Memory.wf_engineWord h _ _ _) _ _)
theorem wf_putGen {s : State} (h : s.mem.wf = true) (t : RTable) (n : Nat) (k : Bool) : (putGen s t n k).mem.wf = true :=
  Memory.wf_store h _ _ _
theorem wf_takeLock {s : State} (h : s.mem.wf = true) (t : RTable) : (takeLock s t).mem.wf = true := wf_putGen h _ _ _
theorem wf_dropLock {s : State} (h : s.mem.wf = true) (t : RTable) : (dropLock s t).mem.wf = true := wf_putGen h _ _ _
theorem wf_release (s : State) {m : Memory} (h : m.wf = true) (t : RTable) (count : Nat) : (release_ s t m count).mem.wf = true :=
  wf_putGen (Memory.wf_store h _ _ _) _ _ _
theorem wf_fillPad {s : State} (h : s.mem.wf = true) (sp : Span) (l g : Nat) (w y : Bool) : (fillPad s sp l g w y).mem.wf = true := by
  unfold fillPad
  dsimp only
  split
  · exact h
  · exact wf_fullLine h _
theorem wf_stashNow {s : State} (h : s.mem.wf = true) (p : Nat) (g : WordRef) (n : Nat) : (stashNow s p g n).mem.wf = true := by
  unfold stashNow
  split
  · exact h
  · split
    · exact Memory.wf_clear _ _ _ h
    · exact h
theorem wf_packMem {m : Memory} (h : m.wf = true) (as : List Nat) (bs : List Byte) : (packMem m as bs).wf = true :=
  Memory.wf_foldl _ (fun _ _ h => Memory.wf_setPois h _ _) _ _ (Memory.wf_foldl _ (fun _ _ h => Memory.wf_setByte h _ _) _ _ h)
@[simp] theorem deliver_mem (s : State) (r : FarRef) (v : FarVal) : (s.deliver r v).mem = s.mem := by
  unfold State.deliver
  dsimp only
  split <;> rfl
theorem wf_pushElem {s : State} (h : s.mem.wf = true) (r : RingN) (ws : List (List Byte × Bool)) (e g : Bool) :
    (pushElem s r ws e g).mem.wf = true := wf_storeElem _ _ _ _ _ h
theorem wf_commitAct {s : State} (h : s.mem.wf = true) (c : Chunk) : (commitAct s c).1.mem.wf = true := by
  unfold commitAct
  split
  · exact h
  · exact wf_pushElem (s := s) h _ _ false false
  · dsimp only
    split <;> (rw [deliver_mem]; exact h)
theorem wf_commitStore {s : State} (h : s.mem.wf = true) (i : SlotN) (x : Held) : (commitStore i s x).mem.wf = true := by
  unfold commitStore
  split
  · exact h
  · exact Memory.wf_store h _ _ _
theorem wf_commitStreams {s : State} (h : s.mem.wf = true) (i : SlotN) (c : Chunk) : (commitStreams s i c).mem.wf = true := by
  unfold commitStreams
  refine foldl_keeps (fun s => s.mem.wf = true) _ (fun s x h => ?_) _ _ (foldl_keeps (fun s => s.mem.wf = true) _ (fun s x h => ?_) _ _ h)
  · split
    · exact wf_pushElem h _ _ x.2.2 false
    · exact h
  · split <;> exact h
theorem wf_applyChunk {s : State} (h : s.mem.wf = true) (i : SlotN) (c : Chunk) : (applyChunk s i c).mem.wf = true := by
  have h1 := foldl_keeps (fun s => s.mem.wf = true) (commitStore i) (fun s x h => wf_commitStore h i x) c.stores s h
  have h2 := wf_commitAct (wf_commitStreams h1 i c) c
  unfold applyChunk
  dsimp only
  split <;> exact h2
theorem wf_setCluster {s : State} (h : s.mem.wf = true) (f : LaunchInfo) : (setCluster s f).mem.wf = true := by
  unfold setCluster
  refine foldl_keeps (fun s => s.mem.wf = true) _ (fun s e hs => ?_) f.rings _ ?_
  · exact hs
  · exact h
theorem wf_takeCluster {s : State} (h : s.mem.wf = true) (f : LaunchInfo) : (takeCluster s f).mem.wf = true := by
  unfold takeCluster
  split
  · exact h
  · exact Memory.wf_forget (m := (setCluster s f).mem) (wf_setCluster h f) _
theorem wf_devWrite (space : BitVec 16) : ∀ (ws : List Nat) (s : State) (va : Nat), s.mem.wf = true → (devWrite s space va ws).mem.wf = true
  | [], _, _, h => h
  | w :: ws, s, va, h => by
    unfold devWrite
    apply wf_devWrite
    split
    · exact Memory.wf_engineWord h _ _ _
    · exact h
theorem wf_hostFills : ∀ (n a : Nat) (s : State), s.mem.wf = true → (hostFills s a n).mem.wf = true
  | 0, _, _, h => h
  | n + 1, _, _, h => wf_hostFills n _ _ (Memory.wf_setBytes _ _ _ h)

end Sys2Proof.Machine
end

