-- ==== Sys2Proof/Laws/Packets.lean ====
section
/-! SUPPORT. What a packet comes to, for every packet at once: the frame of runPacket, retiring, and the shapes of results. -/
namespace Sys2Proof.Machine

/-! The frame. -/

theorem Issues.mayIssue {s : State} {h : Hdr} {n : Names} (a : Issues s h n) : MayIssue s h n where
  camp := a.camp
  far := by simp [armGuard, a.known.1, a.far]
  names := a.names
  frame := a.frame
  room := a.room

/-- A known guard leaves the state as it is (R43). -/
theorem armGuard_known {s : State} {h : Hdr} (k : guardWriting s h = false) : armGuard s h = s := by simp [armGuard, k]
@[simp] theorem armGuard_me (s : State) (h : Hdr) : (armGuard s h).me = s.me := by unfold armGuard; split <;> rfl
@[simp] theorem armGuard_cur (s : State) (h : Hdr) : (armGuard s h).ctl.cur = s.ctl.cur := by unfold armGuard; split <;> rfl
@[simp] theorem armGuard_next (s : State) (h : Hdr) : (armGuard s h).next = s.next := by unfold armGuard; split <;> rfl
@[simp] theorem armGuard_core (s : State) (h : Hdr) : (armGuard s h).core = s.core := by unfold armGuard; split <;> rfl

theorem namesOk_armGuard (s : State) (h : Hdr) (n : Names) (i : SlotN) : namesOk (armGuard s h) i n = namesOk s i n := by
  unfold armGuard; split <;> rfl
theorem MayIssue.early {s : State} {h : Hdr} {n : Names} (a : MayIssue s h n) (f : Bool) : early (armGuard s h) n f = false := by
  simp [Machine.early, namesOk_armGuard, a.names, a.frame]

/-- A packet that may issue runs its body, under its guard. -/
theorem runPacket_issues {s : State} {h : Hdr} {n : Names} (a : MayIssue s h n) (f : Bool) (body : State → PRes) :
    runPacket h n f body s =
      .next (conclude h n (underGuard h n body) (armGuard s h) (underGuard h n body (armGuard s h))) := by
  simp [runPacket, a.camp, a.far, a.early]

/-- A body whose answer takes its chunk past no limit ends as it answers. -/
theorem conclude_fits (h : Hdr) (n : Names) (body : State → PRes) (s : State) (r : PRes) (c : crosses s r = false) :
    conclude h n body s r = finish h n s r := by
  simp [conclude, c]

/-- Under a known guard that is true, the guard adds nothing to the body (R43). -/
theorem underGuard_acts {s : State} {h : Hdr} {n : Names} (body : State → PRes) (k : s.ctl.awaits = false)
    (g : offGuard s h n = false) : underGuard h n body s = body s := by
  unfold underGuard
  split
  · next e => simp [k, g, e]
  · rfl

/-- A packet that acts and has its effect retires. -/
theorem runPacket_done {s s1 : State} {h : Hdr} {n : Names} {body : State → PRes} {pc : Option Word} (a : Issues s h n)
    (g : offGuard s h n = false) (f : Bool) (e : body s = .done s1 pc) (c : overLimit s1.me.cur = false) :
    runPacket h n f body s = .next (retire h (nearVector s h n) s.me s.next s1 pc) := by
  have u := underGuard_acts (h := h) (n := n) body a.known.2 g
  rw [runPacket_issues a.mayIssue, armGuard_known a.known.1, u, e, conclude_fits _ _ _ _ _ (by simp [crosses, c])]
  rfl

/-- A packet that may issue and carries a cause takes its trap. -/
theorem runPacket_trap {s : State} {h : Hdr} {n : Names} {body : State → PRes} {x : TrapInfo} (a : Issues s h n)
    (f : Bool) (e : body s = .trap x) : runPacket h n f body s = .next (takeTrap s s.ctl.cur x) := by
  have u : underGuard h n body s = .trap x := by unfold underGuard; rw [e]
  rw [runPacket_issues a.mayIssue, armGuard_known a.known.1, u, conclude_fits _ _ _ _ _ (by simp [crosses, a.room])]
  rfl

/-- Every packet answers a next state. -/
theorem runPacket_next (h : Hdr) (n : Names) (f : Bool) (body : State → PRes) (s : State) :
    ∃ t, runPacket h n f body s = .next t := by
  unfold runPacket
  dsimp only
  split
  · exact ⟨_, rfl⟩
  · split <;> exact ⟨_, rfl⟩

/-! Retiring. -/

theorem retire_me (h : Hdr) (v : Bool) (t0 : Thread) (nx : Word) (s : State) (pc : Option Word) :
    (retire h v t0 nx s pc).me =
      let f := s.me.flight ++ [(⟨s.me.seq, s.me.cur.no, t0.regs, v, s.ctl.narrow⟩ : Seal)]
      { s.me with
        flight := f
        from_ := t0.pc, pc := pc.getD nx
        seq := freeSeq (seqsHeld { s.me with flight := f } ++ drainSeqs s s.ctl.cur) 256 (s.me.seq + 1)
        camp := h.c && decide (s.me.far ≠ [])
        cur := { s.me.cur with npkts := s.me.cur.npkts + 1 }, miss := none } := by
  unfold retire
  rw [State.me_modMe]
  rfl
@[simp] theorem retire_core (h : Hdr) (v : Bool) (t0 : Thread) (nx : Word) (s : State) (pc : Option Word) :
    (retire h v t0 nx s pc).core = s.core := rfl
@[simp] theorem retire_cl (h : Hdr) (v : Bool) (t0 : Thread) (nx : Word) (s : State) (pc : Option Word) :
    (retire h v t0 nx s pc).cl = s.cl := rfl
@[simp] theorem retire_part (h : Hdr) (v : Bool) (t0 : Thread) (nx : Word) (s : State) (pc : Option Word) :
    (retire h v t0 nx s pc).part = s.part := rfl
@[simp] theorem retire_pkg (h : Hdr) (v : Bool) (t0 : Thread) (nx : Word) (s : State) (pc : Option Word) :
    (retire h v t0 nx s pc).pkg = s.pkg := rfl
@[simp] theorem retire_mem (h : Hdr) (v : Bool) (t0 : Thread) (nx : Word) (s : State) (pc : Option Word) :
    (retire h v t0 nx s pc).mem = s.mem := rfl
@[simp] theorem retire_inbox (h : Hdr) (v : Bool) (t0 : Thread) (nx : Word) (s : State) (pc : Option Word) :
    (retire h v t0 nx s pc).inbox = s.inbox := rfl
@[simp] theorem retire_agenda (h : Hdr) (v : Bool) (t0 : Thread) (nx : Word) (s : State) (pc : Option Word) :
    (retire h v t0 nx s pc).agenda = s.agenda := rfl
@[simp] theorem retire_out (h : Hdr) (v : Bool) (t0 : Thread) (nx : Word) (s : State) (pc : Option Word) :
    (retire h v t0 nx s pc).out = s.out := rfl
@[simp] theorem retire_cur (h : Hdr) (v : Bool) (t0 : Thread) (nx : Word) (s : State) (pc : Option Word) :
    (retire h v t0 nx s pc).ctl.cur = s.ctl.cur := rfl
theorem retire_slot_ne (h : Hdr) (v : Bool) (t0 : Thread) (nx : Word) (s : State) (pc : Option Word) (j : SlotN)
    (hj : j ≠ s.ctl.cur) : (retire h v t0 nx s pc).slot j = s.slot j :=
  State.slot_modMe_ne _ _ _ hj
theorem retire_slot_self (h : Hdr) (v : Bool) (t0 : Thread) (nx : Word) (s : State) (pc : Option Word) :
    (retire h v t0 nx s pc).slot s.ctl.cur = { s.slot s.ctl.cur with th := (retire h v t0 nx s pc).me } := by
  rw [retire_me]
  exact State.slot_modMe_self _ _

theorem SameMem.refl (m : Memory) : SameMem m m := fun _ => ⟨rfl, rfl, rfl⟩

/-! A state that differs from another in the thread of the slot in hand alone. -/

/-- Every field but the slots stands, and every slot but the one in hand; of that slot the thread alone may differ. -/
structure Beside (s u : State) : Prop where
  cur : u.ctl.cur = s.ctl.cur
  slots : ∀ j, j ≠ s.ctl.cur → u.slot j = s.slot j
  mine : u.slot s.ctl.cur = { s.slot s.ctl.cur with th := u.me }
  core : u.core = s.core
  cl : u.cl = s.cl
  part : u.part = s.part
  pkg : u.pkg = s.pkg
  mem : u.mem = s.mem
  inbox : u.inbox = s.inbox
  agenda : u.agenda = s.agenda
  out : u.out = s.out

theorem Beside.refl (s : State) : Beside s s := ⟨rfl, fun _ _ => rfl, rfl, rfl, rfl, rfl, rfl, rfl, rfl, rfl, rfl⟩
theorem Beside.trans {s u v : State} (a : Beside s u) (b : Beside u v) : Beside s v where
  cur := b.cur.trans a.cur
  slots _ hj := (b.slots _ (by rw [a.cur]; exact hj)).trans (a.slots _ hj)
  mine := by
    have hb := b.mine
    rw [a.cur, a.mine] at hb
    exact hb
  core := b.core.trans a.core
  cl := b.cl.trans a.cl
  part := b.part.trans a.part
  pkg := b.pkg.trans a.pkg
  mem := b.mem.trans a.mem
  inbox := b.inbox.trans a.inbox
  agenda := b.agenda.trans a.agenda
  out := b.out.trans a.out
theorem Beside.modMe (s : State) (f : Thread → Thread) : Beside s (s.modMe f) where
  cur := rfl
  slots _ hj := State.slot_modMe_ne _ _ _ hj
  mine := by rw [State.slot_modMe_self, State.me_modMe]
  core := rfl
  cl := rfl
  part := rfl
  pkg := rfl
  mem := rfl
  inbox := rfl
  agenda := rfl
  out := rfl
theorem Beside.modRegs (s : State) (f : RegFile → RegFile) : Beside s (s.modRegs f) := Beside.modMe _ _
theorem Beside.wrT (s : State) (r : SReg) (v : Word) (p : Bool) (g : Tag) : Beside s (s.wrT r v p g) := Beside.modRegs _ _
theorem Beside.wr (s : State) (r : SReg) (v : Word) (p : Bool) : Beside s (s.wr r v p) := Beside.wrT _ _ _ _ _
theorem Beside.wq (s : State) (r : PReg) (m : Word) (p : Bool) : Beside s (s.wq r m p) := Beside.modRegs _ _
theorem Beside.retire {s u : State} (b : Beside s u) (h : Hdr) (v : Bool) (t0 : Thread) (nx : Word) (pc : Option Word) :
    Beside s (retire h v t0 nx u pc) := b.trans
  { cur := rfl
    slots := fun _ hj => retire_slot_ne _ _ _ _ _ _ _ hj
    mine := retire_slot_self _ _ _ _ _ _
    core := rfl, cl := rfl, part := rfl, pkg := rfl, mem := rfl, inbox := rfl, agenda := rfl, out := rfl }
theorem Beside.armGuard (s : State) (h : Hdr) : Beside s (armGuard s h) := by
  unfold Machine.armGuard
  split
  · exact ⟨rfl, fun _ _ => rfl, rfl, rfl, rfl, rfl, rfl, rfl, rfl, rfl, rfl⟩
  · exact Beside.refl s
theorem Beside.onlySlot {s u : State} (b : Beside s u) : OnlySlot s u :=
  ⟨b.cur, b.slots, b.core, b.cl, b.part, b.pkg, by rw [b.mem]; exact SameMem.refl _, b.inbox, b.agenda, b.out⟩

/-! Scalar results. -/

theorem setOpaque_length (l : List Input) (k : Nat) : (setOpaque l k).length = l.length := by
  induction l generalizing k with
  | nil => rfl
  | cons x xs ih =>
    cases k with
    | zero => rfl
    | succ k => simp only [setOpaque, List.length_cons, ih]
theorem foldl_setOpaque_length (ks : List Nat) (l : List Input) : (ks.foldl setOpaque l).length = l.length := by
  induction ks generalizing l with
  | nil => rfl
  | cons k ks ih => rw [List.foldl_cons, ih, setOpaque_length]

/-- Of the thread in hand, marking inputs opaque changes the marks alone. -/
theorem opaqueTags_spec (s : State) (ts : List Tag) : Beside s (opaqueTags s ts) ∧
    ∃ l, l.length = s.me.cur.inputs.length ∧ (opaqueTags s ts).me = { s.me with cur := { s.me.cur with inputs := l } } := by
  unfold opaqueTags
  simp only
  split
  · exact ⟨Beside.refl s, s.me.cur.inputs, rfl, rfl⟩
  · exact ⟨Beside.modMe _ _, _, foldl_setOpaque_length _ _, State.me_modMe _ _⟩
theorem useRegs_spec (s : State) (rs : List SReg) : Beside s (useRegs s rs) ∧
    ∃ l, l.length = s.me.cur.inputs.length ∧ (useRegs s rs).me = { s.me with cur := { s.me.cur with inputs := l } } :=
  opaqueTags_spec _ _

/-- A chunk's room does not depend on its inputs' marks. -/
theorem overLimit_inputs (c : Chunk) (l : List Input) (e : l.length = c.inputs.length) :
    overLimit { c with inputs := l } = overLimit c := by
  unfold overLimit heldLines
  rw [← e]

/-- What finS does to the thread, whatever the guard. -/
theorem finS_spec (s : State) (h : Hdr) (d : SReg) (srcs : List SReg) (r : SVal) (sym : SymRes) :
    ∃ s1 l x, finS s h d srcs r sym = .done s1 none ∧ Beside s s1 ∧ l.length = s.me.cur.inputs.length ∧
      s1.me = { s.me with
        regs := s.me.regs.setS d ⟨(byGuard s h d r).v, (byGuard s h d r).p, false, s.me.seq, x⟩
        cur := { s.me.cur with inputs := l } } := by
  have hu : ∀ (rs : List SReg) (v : Word) (q : Bool), ∃ l x, l.length = s.me.cur.inputs.length ∧
      Beside s ((useRegs s rs).wr d v q) ∧ ((useRegs s rs).wr d v q).me =
        { s.me with regs := s.me.regs.setS d ⟨v, q, false, s.me.seq, x⟩, cur := { s.me.cur with inputs := l } } := by
    intro rs v q
    obtain ⟨b, l, hl, e⟩ := useRegs_spec s rs
    exact ⟨l, none, hl, b.trans (Beside.wr _ _ _ _), by rw [State.me_wr, e]⟩
  unfold finS byGuard
  cases p : gpois s h
  · cases g : gbit s h
    · exact ⟨_, s.me.cur.inputs, _, rfl, Beside.wrT _ _ _ _ _, rfl, State.me_wrT _ _ _ _ _⟩
    · cases sym with
      | track t =>
        cases q : r.p
        · exact ⟨_, s.me.cur.inputs, _, rfl, Beside.wrT _ _ _ _ _, rfl, State.me_wrT _ _ _ _ _⟩
        · obtain ⟨l, x, hl, b, e⟩ := hu srcs r.v true
          exact ⟨_, l, x, rfl, b, hl, e⟩
      | clean => exact ⟨_, s.me.cur.inputs, _, rfl, Beside.wr _ _ _ _, rfl, State.me_wr _ _ _ _⟩
      | use =>
        obtain ⟨l, x, hl, b, e⟩ := hu srcs r.v r.p
        exact ⟨_, l, x, rfl, b, hl, e⟩
  · obtain ⟨l, x, hl, b, e⟩ := hu (d :: srcs) (if gbit s h then r.v else (s.s d).v) true
    exact ⟨_, l, x, rfl, b, hl, e⟩

/-- A result that only marks inputs leaves nothing for the limits of R288 to count. -/
theorem haunt_idle {s1 s2 : State} {c : Chunk} {l1 l2 : List Input} (h1 : l1.length = c.inputs.length)
    (h2 : l2.length = c.inputs.length) (e1 : s1.me.cur = { c with inputs := l1 }) (e2 : s2.me.cur = { c with inputs := l2 }) :
    Beside s1 (haunt s1 (.done s2 none)) ∧ (haunt s1 (.done s2 none)).me = s1.me := by
  have f1 : (c.reads.map (·.line)).filter (fun l => !c.ghost.read.contains l && !(c.reads.map (·.line)).contains l) = [] := by
    simp only [List.filter_eq_nil_iff]
    intro a ha
    simp only [List.contains_iff_mem.mpr ha, Bool.not_true, Bool.and_false, Bool.false_eq_true, not_false_eq_true]
  have f2 : (heldLines c).filter (fun l => !c.ghost.held.contains l && !(heldLines c).contains l) = [] := by
    simp only [List.filter_eq_nil_iff]
    intro a ha
    simp only [List.contains_iff_mem.mpr ha, Bool.not_true, Bool.and_false, Bool.false_eq_true, not_false_eq_true]
  have hl : ∀ l, heldLines { c with inputs := l } = heldLines c := fun _ => rfl
  unfold haunt
  refine ⟨Beside.modMe _ _, ?_⟩
  rw [State.me_modMe, e1, e2]
  simp only [hl, f1, f2, List.append_nil, h1, h2, Nat.sub_self, Nat.add_zero]
  rw [← e1]

/-- The guard adds nothing to a near scalar result but its own mask. -/
theorem underGuard_finS {s : State} {h : Hdr} {n : Names} (near : n.far = .near) (d : SReg) (srcs : State → List SReg)
    (r : State → SVal) (sym : State → SymRes) :
    ∃ s1 l x, underGuard h n (fun u => finS u h d (srcs u) (r u) (sym u)) s = .done s1 none ∧ Beside s s1 ∧
      l.length = s.me.cur.inputs.length ∧ s1.me = { s.me with
        regs := s.me.regs.setS d ⟨(byGuard s h d (r s)).v, (byGuard s h d (r s)).p, false, s.me.seq, x⟩
        cur := { s.me.cur with inputs := l } } := by
  obtain ⟨s1, l, x, e, b, hl, m⟩ := finS_spec s h d (srcs s) (r s) (sym s)
  have off : offGuard s h n = false := by simp [offGuard, near]
  unfold underGuard
  simp only [e, off, if_false, Bool.false_eq_true]
  cases s.ctl.awaits
  · exact ⟨s1, l, x, rfl, b, hl, m⟩
  · obtain ⟨s2, l2, x2, e2, b2, hl2, m2⟩ := finS_spec (forced s h) h d (srcs (forced s h)) (r (forced s h)) (sym (forced s h))
    have fm : (forced s h).me.cur = s.me.cur := by simp [forced]
    rw [fm] at hl2
    obtain ⟨b3, m3⟩ := haunt_idle (s1 := s1) (s2 := s2) (c := s.me.cur) hl hl2 (by rw [m]) (by rw [m2, fm])
    rw [e2]
    exact ⟨_, l, x, rfl, b.trans b3, hl, m3.trans m⟩

/-- A near scalar packet writes its result as its guard has it, known or awaited, and nothing else. -/
theorem computesS {s : State} {h : Hdr} {n : Names} (a : MayIssue s h n) (near : n.far = .near) (d : SReg)
    (srcs : State → List SReg) (r : State → SVal) (sym : State → SymRes) (hr : r (armGuard s h) = r s) :
    ∃ t, runPacket h n false (fun u => finS u h d (srcs u) (r u) (sym u)) s = .next t ∧
      WritesS s t s.next d (byGuard s h d (r s)).v (byGuard s h d (r s)).p := by
  obtain ⟨s1, l, x, e1, b1, hl, m⟩ := underGuard_finS (s := armGuard s h) (h := h) near d srcs r sym
  have hb : byGuard (armGuard s h) h d (r (armGuard s h)) = byGuard s h d (r s) := by
    rw [hr]; unfold armGuard; split <;> rfl
  have room : overLimit s1.me.cur = false := by
    rw [m]; exact (overLimit_inputs _ _ hl).trans (by rw [armGuard_me]; exact a.room)
  rw [runPacket_issues a, e1, conclude_fits _ _ _ _ _ (by simp [crosses, room])]
  refine ⟨_, rfl, ?_⟩
  rw [armGuard_me] at hl
  rw [armGuard_me, hb] at m
  simp only [finish, armGuard_me, armGuard_next]
  generalize nearVector (armGuard s h) h n = nv
  have b2 : Beside s (retire h nv s.me s.next s1 none) := ((Beside.armGuard s h).trans b1).retire h _ _ _ _
  have m2 := retire_me h nv s.me s.next s1 none
  rw [m] at m2
  have hv : ∀ q, (retire h nv s.me s.next s1 none).vreg s.ctl.cur q = s.vreg s.ctl.cur q := by
    intro q
    have ht : (retire h nv s.me s.next s1 none).th s.ctl.cur = (retire h nv s.me s.next s1 none).me := by
      rw [← b2.cur]; rfl
    unfold State.vreg State.vent State.allot
    rw [ht, m2, b2.core]
    rfl
  constructor
  · constructor
    · rw [m2]; rfl
    · rw [m2]
    · exact ⟨_, by rw [m2], rfl, rfl, rfl⟩
    · rw [m2]
      simp only [seqsHeld]
      have hc : (retire h nv s.me s.next s1 none).core = s1.core := rfl
      have hcur : (retire h nv s.me s.next s1 none).ctl.cur = s1.ctl.cur := rfl
      simp only [drainSeqs, hc, hcur]
    · exact b2.cur
  · intro q
    simp only [State.s, m2]
    rw [RegFile.s_setS]
    split <;> rfl
  · intro q; simp only [State.p, m2]; simp
  · intro q; simp only [State.k, m2]; simp
  · exact hv
  · refine ⟨?_, ?_, ?_⟩ <;> rw [m2] <;> simp
  · unfold SameFlags; rw [m2]; simp
  · exact b2.onlySlot
  · constructor <;> first | (rw [b2.mine]) | (simp only [m2, and_self])

end Sys2Proof.Machine
end

