-- ==== Sys2Proof/Tests/Slice0.lean ====
section
/-! SUPPORT. The row's own tests: ill-formed instructions, words written out from the encoding tables of the spec, single
steps, and for every statement a state and operands that meet its hypotheses. -/
namespace Sys2Proof.Tests
open Sys2Proof.Machine
/-! One theorem after the other: the kernel's evaluations side by side would take more memory than the check gives. -/
set_option Elab.async false

/-! Small states. -/

/-- One thread of all 32 vector registers in slot 0, its first 64 KiB mapped at reach 0 (log 9). -/
def b0 : State := placed State.reset 16 0
/-- The ranger in hand, in slot 15. -/
def rg : State :=
  let s := placed State.reset 16 0x1E00
  { s with ctl := { s.ctl with cur := 15 }, core := { s.core with priv := { s.core.priv with handling := true } } }
def h0 : Hdr := ⟨0, false⟩
/-- Guarded by p1, by p2. -/
def hG : Hdr := ⟨1, false⟩
def hP : Hdr := ⟨2, false⟩
/-- A scalar register of a thread set (s0 to s7), a predicate, a reach, a vector register. -/
def sr (s : State) (r : Fin 8) (v : Word) (p : Bool := false) : State :=
  s.modMe fun t => { t with regs := { t.regs with g := t.regs.g.set r ⟨v, p, false, 0, none⟩ } }
def pr (s : State) (q : Fin 8) (m : Word) (p : Bool := false) : State :=
  s.modMe fun t => { t with regs := { t.regs with q := t.regs.q.set q ⟨m, p, false, 0⟩ } }
def kr (s : State) (k : Fin 4) (r : BitVec 16) : State :=
  s.modMe fun t => { t with regs := { t.regs with k := t.regs.k.set k r } }
def vr (s : State) (r : VNum) (v : VVal) : State := s.putV s.ctl.cur r ⟨v, 0⟩
def me (s : State) (f : Thread → Thread) : State := s.modMe f
def win (s : State) (w : Window) : State := me s fun t => { t with regs := { t.regs with win := w } }

/-! Hypotheses, by evaluation. -/

def issuesB (s : State) (h : Hdr) (n : Names) : Bool :=
  !campBlocks s.me && !farBlocks s h n && namesOk s s.ctl.cur n && !s.me.regs.win.pend && !overLimit s.me.cur &&
    !guardWriting s h && !s.ctl.awaits
def mayB (s : State) (h : Hdr) (n : Names) : Bool :=
  !campBlocks s.me && !farBlocks (armGuard s h) h n && namesOk s s.ctl.cur n && !s.me.regs.win.pend && !overLimit s.me.cur
def actsB (s : State) (h : Hdr) (n : Names) : Bool := issuesB s h n && gbit s h && !gpois s h
def calmB (s : State) : Bool := !s.me.reg.isOpen && !uncommitted s.me && s.me.cur.taken.isEmpty && s.me.cur.pushed.isEmpty
def plainB (s : State) (rs : List VNum) : Bool :=
  rs.all (fun r => match bindIdx s r with | some k => decide ((s.binding k).kind = .unbound) | none => true) && s.ctl.taken.isEmpty

theorem issues {s : State} {h : Hdr} {n : Names} (e : issuesB s h n = true) : Issues s h n := by
  simp only [issuesB, Bool.and_eq_true, Bool.not_eq_true'] at e
  exact ⟨e.1.1.1.1.1.1, e.1.1.1.1.1.2, e.1.1.1.1.2, e.1.1.1.2, e.1.1.2, e.1.2, e.2⟩
theorem may {s : State} {h : Hdr} {n : Names} (e : mayB s h n = true) : MayIssue s h n := by
  simp only [mayB, Bool.and_eq_true, Bool.not_eq_true'] at e
  exact ⟨e.1.1.1.1, e.1.1.1.2, e.1.1.2, e.1.2, e.2⟩
theorem acts {s : State} {h : Hdr} {n : Names} (e : actsB s h n = true) : Acts s h n := by
  simp only [actsB, Bool.and_eq_true, Bool.not_eq_true'] at e
  exact ⟨issues e.1.1, e.1.2, e.2⟩
theorem calm {s : State} (e : calmB s = true) : Calm s := by
  simp only [calmB, Bool.and_eq_true, Bool.not_eq_true', List.isEmpty_iff] at e
  exact ⟨e.1.1.1, e.1.1.2, e.1.2, e.2⟩
theorem plain {s : State} {rs : List VNum} (e : plainB s rs = true) : Plain s rs := by
  simp only [plainB, Bool.and_eq_true, List.isEmpty_iff, List.all_eq_true] at e
  refine ⟨fun r hr k hk => ?_, e.2⟩
  have := e.1 r hr
  rw [hk] at this
  exact of_decide_eq_true this

theorem bok {x : BRes} (e : (match x with | .ok _ _ => true | _ => false) = true) : ∃ a f, x = .ok a f := by
  cases x with
  | ok a f => exact ⟨a, f, rfl⟩
  | _ => cases e
theorem xok {x : XRes} (e : (match x with | .ok _ => true | _ => false) = true) : ∃ as, x = .ok as := by
  cases x with
  | ok as => exact ⟨as, rfl⟩
  | _ => cases e
theorem dok {x : DSpan} (e : (match x with | .ok _ => true | _ => false) = true) : ∃ a, x = .ok a := by
  cases x with
  | ok a => exact ⟨a, rfl⟩
  | _ => cases e
theorem hok {x : Home} (e : (match x with | .at_ _ => true | _ => false) = true) : ∃ a, x = .at_ a := by
  cases x with
  | at_ a => exact ⟨a, rfl⟩
  | _ => cases e
theorem sok {α : Type} {x : Option α} (e : x.isSome = true) : ∃ a, x = some a := by
  cases x with
  | some a => exact ⟨a, rfl⟩
  | none => cases e

/-! Witnesses: scalar integer, control. -/

/-- A guard whose writer is still in flight. -/
def early : State := me b0 fun t => { t with
  regs := { t.regs with q := t.regs.q.set 1 ⟨1, false, false, 5⟩ }
  flight := [⟨5, 0, t.regs, false, false⟩] }
theorem wit_ScalarTwoSource : MayIssue (sr b0 1 0x8000000000000000) h0 (N2 3 1 2) ∧
    (MayIssue early hG (N2 3 1 2) ∧ guardWriting early hG = true) := ⟨may (by decide +kernel), may (by decide +kernel), by decide +kernel⟩

theorem wit_ScalarShiftsAndCounts : MayIssue b0 h0 (N2 3 1 2) ∧ MayIssue b0 h0 (N1 3 1) ∧
    (headOp 0x0500 = 0x050 ∧ (0x80000000 : BitVec 64).extractLsb' 26 6 ≠ 0) ∧
    (headOp 0x0510 = 0x051 ∧ (0x08000000 : BitVec 64).extractLsb' 27 5 ≠ 0) :=
  ⟨may (by decide +kernel), may (by decide +kernel), by decide, by decide⟩

theorem wit_ImmediatesSelectsAndReaches :
    MayIssue b0 h0 (N1 3 1) ∧ MayIssue b0 h0 ⟨[], [3], [], [], [], false, false, .near⟩ ∧ MayIssue b0 h0 (N1 3 3) ∧
    MayIssue b0 h0 ⟨[1, 2], [3], [], [4], [], false, false, .near⟩ ∧ MayIssue b0 h0 (N2 3 1 2) ∧
    (Acts b0 h0 (NS [1]) ∧ (b0.s 1).p = false) ∧ (Acts (sr b0 1 0 true) h0 (NS [1]) ∧ ((sr b0 1 0 true).s 1).p = true) ∧
    [(0x05B0, 5, 0x20), (0x05C0, 5, 0x20), (0x05C0, 28, 0x10000000), (0x05E0, 19, 0x80000), (0x05E0, 20, 0x100000),
      (0x05F0, 15, 0x8000)].all (fun x : BitVec 16 × Nat × BitVec 64 =>
      decide (headOp x.1 = x.1.extractLsb' 4 9 ∧ x.2.2.extractLsb' x.2.1 1 ≠ 0)) = true :=
  ⟨may (by decide +kernel), may (by decide +kernel), may (by decide +kernel), may (by decide +kernel),
    may (by decide +kernel), ⟨acts (by decide +kernel), by decide +kernel⟩, ⟨acts (by decide +kernel), by decide +kernel⟩,
    by decide⟩

/-- A field that ends at bit 63, one that passes it. -/
theorem wit_BitFields : ((60 : BitVec 6).toNat + ((3 : BitVec 6).toNat + 1) ≤ 64) ∧ MayIssue b0 h0 (N1 3 1) ∧ MayIssue b0 h0 (N2 3 3 1) ∧
    (headOp 0x0580 = 0x058 ∧ 64 < ((0x13D00000 : BitVec 64).extractLsb' 20 6).toNat + ((0x13D00000 : BitVec 64).extractLsb' 26 6).toNat + 1) ∧
    (headOp 0x0590 = 0x059 ∧ (0x400 : BitVec 64).extractLsb' 10 5 ≠ 0) ∧ (headOp 0x05A0 = 0x05A ∧ (0x8000 : BitVec 64).extractLsb' 15 5 ≠ 0) :=
  ⟨by decide, may (by decide +kernel), may (by decide +kernel), by decide, by decide, by decide⟩

theorem wit_DivideAndRemainder :
    (Acts (sr b0 2 1) h0 (NDiv 3 1 2) ∧ ((sr b0 2 1).s 1).p = false ∧ ((sr b0 2 1).s 2).p = false ∧ ((sr b0 2 1).s 2).v ≠ 0) ∧
    (Acts b0 h0 (NDiv 3 1 2) ∧ (b0.s 1).p = false ∧ (b0.s 2).p = false ∧ (b0.s 2).v = 0) ∧
    (Acts (sr b0 1 7 true) h0 (NDiv 3 1 2) ∧
      ¬ (((sr b0 1 7 true).s 1).p = false ∧ ((sr b0 1 7 true).s 2).p = false)) :=
  ⟨⟨acts (by decide +kernel), by decide +kernel⟩, ⟨acts (by decide +kernel), by decide +kernel⟩,
    acts (by decide +kernel), by decide +kernel⟩

theorem wit_Jumps : Acts b0 h0 .empty ∧ (Acts b0 h0 (NS [1]) ∧ (b0.s 1).p = false) ∧
    (Acts (sr b0 1 1) h0 (N1 1 1) ∧ ((sr b0 1 1).s 1).p = false) ∧
    (((sr b0 1 1 true).s 1).p = true ∧ Acts (sr b0 1 1 true) h0 (NS [1]) ∧ Acts (sr b0 1 1 true) h0 (N1 1 1)) ∧
    (headOp 0x0080 = 0x008 ∧ (0x20 : BitVec 64).extractLsb' 0 5 ≠ (0x20 : BitVec 64).extractLsb' 5 5) ∧
    (Issues (pr b0 1 1 true) hG .empty ∧ gpois (pr b0 1 1 true) hG = true) ∧
    (Issues (pr b0 1 0) hG (NS [1]) ∧ gpois (pr b0 1 0) hG = false ∧ gbit (pr b0 1 0) hG = false) ∧
    Issues b0 h0 { NS [1] with noGuest := true } :=
  ⟨acts (by decide +kernel), ⟨acts (by decide +kernel), by decide +kernel⟩, ⟨acts (by decide +kernel), by decide +kernel⟩,
    ⟨by decide +kernel, acts (by decide +kernel), acts (by decide +kernel)⟩, by decide,
    ⟨issues (by decide +kernel), by decide +kernel⟩, ⟨issues (by decide +kernel), by decide +kernel⟩, issues (by decide +kernel)⟩

/-- A call from the last line whose next PC fits 58 bits and from one whose does not; a FRAME that fills the file exactly and a
FRAME of the outermost frame; a RET into a frame of one size. -/
theorem wit_CallsFramesAndReturns :
    (Acts b0 h0 { Names.empty with noGuest := true } ∧ b0.next.toNat < 2 ^ 58) ∧
    (Acts (me b0 fun t => { t with pc := 0x0400000000000000 }) h0 { Names.empty with noGuest := true } ∧
      ¬ (me b0 fun t => { t with pc := 0x0400000000000000 }).next.toNat < 2 ^ 58) ∧
    (Acts b0 h0 { NS [1] with noGuest := true } ∧ (b0.s 1).p = false) ∧
    (let s := win b0 ⟨0, 24, true, 3, 0, 64, [16, 0]⟩
     campBlocks s.me = false ∧ farBlocks s h0 { Names.empty with noGuest := true } = false ∧ isGuest s.ctl.cur = false ∧
      overLimit s.me.cur = false ∧ s.me.regs.win.pend = true ∧ s.me.regs.win.live + (24 - 3 + 1) ≤ 64 ∧ h0.g = 0 ∧
      s.ctl.awaits = false) ∧
    (campBlocks b0.me = false ∧ farBlocks b0 h0 { Names.empty with noGuest := true } = false ∧ isGuest b0.ctl.cur = false ∧
      overLimit b0.me.cur = false ∧ b0.me.regs.win.pend = false ∧ b0.me.regs.win.depth = 1) ∧
    (let s := win b0 ⟨0, 4, false, 2, 0, 0, [24]⟩
     Acts s h0 { Names.empty with noGuest := true } ∧ s.me.regs.win.depth ≠ 1 ∧ s.me.spill = none ∧
      (s.me.regs.w.get (fin64 (s.me.regs.win.base.toNat + 64 - 1))).p = false ∧
      ((s.me.regs.w.get (fin64 (s.me.regs.win.base.toNat + 64 - 1))).val.extractLsb' 58 5).toNat ≤ 24) ∧
    (let s := me (win b0 ⟨0, 4, false, 2, 0, 0, [24]⟩) fun t => { t with regs := { t.regs with w := t.regs.w.set 63 ⟨0, true, false, 0, none⟩ } }
     Acts s h0 { Names.empty with noGuest := true } ∧ s.me.regs.win.depth ≠ 1 ∧ s.me.spill = none ∧
      (s.me.regs.w.get (fin64 (s.me.regs.win.base.toNat + 64 - 1))).p = true) ∧
    b0.me.regs.win.depth = 1 :=
  ⟨⟨acts (by decide +kernel), by decide +kernel⟩, ⟨acts (by decide +kernel), by decide +kernel⟩,
    ⟨acts (by decide +kernel), by decide +kernel⟩, by decide +kernel, by decide +kernel, ⟨acts (by decide +kernel), by decide +kernel⟩,
    ⟨acts (by decide +kernel), by decide +kernel⟩, by decide +kernel⟩

theorem wit_ClocksTurnsAndTraps :
    Acts b0 h0 ⟨[], [3], [], [], [], false, false, .near⟩ ∧ (Acts b0 h0 (NS [1]) ∧ (b0.s 1).p = false) ∧ Acts b0 h0 .empty ∧
    (b0.me.far = [] ∧ (readCheck b0.me).extractLsb' 0 3 = 0) ∧
    (let s := me b0 fun t => { t with check := 4 }
     Acts s h0 ⟨[], [3], [], [], [], false, false, .near⟩ ∧ s.me.far = [] ∧ (readCheck s.me).extractLsb' 0 3 ≠ 0) :=
  ⟨acts (by decide +kernel), ⟨acts (by decide +kernel), by decide +kernel⟩, acts (by decide +kernel), by decide +kernel,
    acts (by decide +kernel), by decide +kernel⟩

/-- The least and the greatest window format, SEED, the readings. -/
theorem wit_SpecialRegisters :
    (Acts b0 h0 ⟨[], [3], [], [], [], false, false, if isWfmt 0x10 then .scalar else .near⟩ ∧ Instr.wf (.getsr h0 3 0x10) = true ∧ isWfmt 0x10 = true) ∧
    (Acts b0 h0 ⟨[], [3], [], [], [], false, false, if isWfmt 0x17 then .scalar else .near⟩ ∧ isWfmt 0x17 = true) ∧
    (Acts b0 h0 ⟨[], [3], [], [], [], false, false, if isWfmt 4 then .scalar else .near⟩ ∧ Instr.wf (.getsr h0 3 4) = true ∧
      isWfmt 4 = false ∧ b0.me.far = [] ∧ flagsOwed b0.me = false) ∧
    (Instr.wf (.getsr h0 3 0x20) = true ∧ Instr.wf (.getsr h0 3 0x21) = true ∧ Instr.wf (.getsr h0 3 0x18) = true) ∧
    (Acts b0 h0 (NS [1]) ∧ Instr.wf (.setsr h0 1 8) = true ∧ (b0.s 1).p = false) ∧
    (Acts b0 h0 { NS [1] with far := if isWfmt 0x17 then .scalar else .near } ∧ Instr.wf (.setsr h0 1 0x17) = true) ∧
    (Acts (sr b0 1 7 true) h0 (NS [1]) ∧ ((sr b0 1 7 true).s 1).p = true) :=
  ⟨⟨acts (by decide +kernel), by decide +kernel⟩, ⟨acts (by decide +kernel), by decide +kernel⟩,
    ⟨acts (by decide +kernel), by decide +kernel⟩, by decide +kernel, ⟨acts (by decide +kernel), by decide +kernel⟩,
    ⟨acts (by decide +kernel), by decide +kernel⟩, acts (by decide +kernel), by decide +kernel⟩

/-- A thread in a region whose chunk is empty. -/
def inRegion : State := me b0 fun t => { t with reg := ⟨true, 0x80, 0x40, 0, 0⟩ }
/-- A thread one of whose chunks has ended. -/
def chunkEnded : State := me b0 fun t => { t with ended := [{ t.cur with npkts := 1 }], cur := { t.cur with no := t.cur.no + 1 } }
theorem wit_RegionsChunksAndFences :
    (b0.me.reg.isOpen = false ∧ Acts b0 h0 { Names.empty with noGuest := true, noRanger := true } ∧ Acts b0 h0 .empty ∧ Calm b0) ∧
    (Acts inRegion h0 .empty ∧ inRegion.me.reg.isOpen = true) ∧ Acts b0 h0 ⟨[], [3], [], [], [], false, false, .near⟩ ∧
    (Acts inRegion h0 ⟨[], [3], [], [], [], false, false, .near⟩ ∧ inRegion.me.ended = [] ∧
      commitReady inRegion inRegion.ctl.cur = true ∧ (commitChunk inRegion inRegion.ctl.cur).2 = .clean) ∧
    Acts b0 h0 { Names.empty with far := .scalar } ∧ (Acts chunkEnded h0 .empty ∧ chunkEnded.me.ended ≠ []) ∧ b0.me.ended = [] :=
  ⟨⟨by decide +kernel, acts (by decide +kernel), acts (by decide +kernel), calm (by decide +kernel)⟩,
    ⟨acts (by decide +kernel), by decide +kernel⟩, acts (by decide +kernel), ⟨acts (by decide +kernel), by decide +kernel⟩,
    acts (by decide +kernel), ⟨acts (by decide +kernel), by decide +kernel⟩, by decide +kernel⟩

/-! Witnesses: scalar floating point, predicates, threads. -/

/-- Every FP trap enabled. -/
def traps (s : State) : State := me s fun t => { t with regs := { t.regs with fpctl := 0xF8 } }
theorem wit_ScalarFloatAndCompares :
    Acts b0 h0 ⟨[1, 2, 4], [3], [], [], [], false, false, .near⟩ ∧ fpTrap b0 0x3F = none ∧
    (Acts (traps b0) h0 ⟨[1, 2], [3], [], [], [], false, false, .near⟩ ∧ (fpTrap (traps b0) 1).isSome = true) ∧
    (Acts b0 h0 ⟨[1, 2], [3], [], [], [], false, false, .scalar⟩ ∧ anyEnable b0 = false ∧ b0.ctl.came = false) ∧
    (Acts (traps b0) h0 ⟨[1], [3], [], [], [], false, false, .scalar⟩ ∧ anyEnable (traps b0) = true ∧ (traps b0).ctl.came = false) ∧
    (let s : State := { traps b0 with ctl := { (traps b0).ctl with came := true } }
     Acts s h0 ⟨[1], [3], [], [], [], false, false, .scalar⟩ ∧ anyEnable s = true ∧ s.ctl.came = true) ∧
    (Acts b0 h0 ⟨[1, 2], [], [], [], [1, 2], false, false, .near⟩ ∧ b0.me.cur.cons.length + b0.me.cur.ghost.cons < 32) ∧
    Acts b0 h0 ⟨[1], [], [], [], [1, 2], false, false, .near⟩ :=
  ⟨acts (by decide +kernel), by decide +kernel, ⟨acts (by decide +kernel), by decide +kernel⟩,
    ⟨acts (by decide +kernel), by decide +kernel⟩, ⟨acts (by decide +kernel), by decide +kernel⟩,
    ⟨acts (by decide +kernel), by decide +kernel⟩, ⟨acts (by decide +kernel), by decide +kernel⟩, acts (by decide +kernel)⟩

theorem wit_PredicateOperations : Issues b0 h0 ⟨[], [], [], [1, 2], [3], false, false, .near⟩ ∧
    Issues b0 h0 ⟨[1], [], [], [], [3], false, false, .near⟩ ∧ Issues b0 h0 ⟨[1, 2], [], [], [], [3], false, false, .near⟩ ∧
    MayIssue b0 h0 ⟨[], [1], [], [2], [], false, false, .near⟩ ∧ (b0.p 0).m.getLsbD 63 = true ∧
    [(0x0C30, 15, 0x8000), (0x0C30, 24, 0x1000000), (0x0C40, 10, 0x400), (0x0C50, 10, 0x400), (0x0C80, 15, 0x8000),
      (0x0C80, 21, 0x200000)].all (fun x : BitVec 16 × Nat × BitVec 64 =>
      decide (headOp x.1 = x.1.extractLsb' 4 9 ∧ x.2.2.extractLsb' x.2.1 1 ≠ 0)) = true :=
  ⟨issues (by decide +kernel), issues (by decide +kernel), issues (by decide +kernel), may (by decide +kernel),
    by decide +kernel, by decide⟩

def okB : Machine.Acc → Bool
  | .ok _ => true
  | .stop _ => false
def asOf : Machine.Acc → List Nat
  | .ok as => as
  | .stop _ => []
theorem acc {a : Machine.Acc} (e : okB a = true) : a = .ok (asOf a) := by
  cases a with
  | ok as => rfl
  | stop r => cases e
def oksB : Accs → Bool
  | .ok _ => true
  | .stop _ => false
def assOf : Accs → List (List Nat)
  | .ok as => as
  | .stop _ => []
theorem accs {a : Accs} (e : oksB a = true) : a = .ok (assOf a) := by
  cases a with
  | ok as => rfl
  | stop r => cases e

/-- A guest of slot 12, its thread of the launch's space. -/
def guest : State :=
  let s := me b0 fun t => { t with kind := .guest 0 false }
  { s.setSlot 12 { s.slot 0 with th := s.me } with ctl := { s.ctl with cur := 12 } }
/-- The address last in the mapped 64 KiB, the least and the greatest barrier count. -/
theorem wit_ThreadsEndForkAndWait : Calm b0 ∧ (Acts b0 h0 { Names.empty with noRanger := true } ∧ b0.me.far = []) ∧
    (let s := sr b0 4 0xFFF8
     Calm s ∧ Acts s h0 { NF [1, 2, 4] with noRanger := true } ∧ Acts s h0 { NF [4] with noRanger := true } ∧
      translated s (s.k 0) (s.s 4).v 8 [permA] none = .ok (asOf (translated s (s.k 0) (s.s 4).v 8 [permA] none)) ∧
      (s.s 1).p = false ∧ (s.s 4).p = false ∧ (s.s 4).v.toNat % 8 = 0 ∧ (joinBreak s 4).isNone = true ∧ adding s (joinRef s 4) = false) ∧
    (Calm guest ∧ Acts guest h0 { Names.empty with noRanger := true, far := .scalar } ∧ isResident guest.ctl.cur = false ∧ replyGuest guest.me = false ∧
      runsSpace guest guest.me.space = true) ∧
    ([(1 : Word), 128].all (fun n => let s := sr b0 1 n
      actsB s h0 { NF [1] with noGuest := true, noRanger := true } && decide (1 ≤ (s.s 1).v.toNat ∧ (s.s 1).v.toNat ≤ 128 ∧
        (barOf s 0).armed = none)) = true) ∧
    (let l : CoreLaunch := { placedLaunch with sh := { placedLaunch.sh with info := { placedInfo with flags := 1 } } }
     let s : State := { b0 with core := { b0.core with launch := some l } }
     Calm s ∧ Acts s h0 { Names.empty with noGuest := true, noRanger := true, far := .scalar } ∧ s.core.launch = some l ∧
      l.sh.info.flags.getLsbD 0 = true) :=
  ⟨calm (by decide +kernel), ⟨acts (by decide +kernel), by decide +kernel⟩,
    ⟨calm (by decide +kernel), acts (by decide +kernel), acts (by decide +kernel), acc (by decide +kernel), by decide +kernel⟩,
    ⟨calm (by decide +kernel), acts (by decide +kernel), by decide +kernel⟩, by decide +kernel,
    calm (by decide +kernel), acts (by decide +kernel), by decide +kernel⟩

def cfg0 : PartCfg := ⟨1, 0, 3, 0, 0, 0x4000, 8, 0, 0x8000, 6, [], 0x2000, 0, 0x3000, 0x200, 0, 0, 0, 0, none⟩
def destB : Dest → CoreId → Bool
  | .ok c _, d => decide (c = d)
  | .stop _, _ => false
theorem dest {x : Dest} {d : CoreId} (e : destB x d = true) : ∃ s1, x = .ok d s1 := by
  cases x with
  | ok c s1 => exact ⟨s1, by rw [of_decide_eq_true e]⟩
  | stop r => cases e
/-- Core 5 named by its number, one credit for it, the largest window that may hike. -/
def sender : State :=
  let s := win (sr b0 1 5) ⟨0, 8, false, 1, 0, 0, []⟩
  { s with part := { s.part with cfg := some cfg0 }, core := { s.core with credits := [⟨5, false, 1, none, false⟩] } }
/-- The partition of cfg0 with the range of log 9 in its table of space 0. -/
def tabled (s : State) : State :=
  { s with
    mem := putDesc ((s.mem.store 0x2000 (leBytes 8 0x3000) false).store 0x2008 (leBytes 4 1) false) 0x3000 placedRange
    part := { s.part with cfg := some cfg0 } }
/-- The thread that FANOUT's launch runs on, its packet and its header. -/
def launcher : State :=
  let s := tabled (sr guest 1 0x400)
  let m := ((((((s.mem.store 0x400 (leBytes 8 0x800) false).store 0x410 (leBytes 8 0x100000001) false).store 0x418
    (leBytes 4 1) false).store 0x430 (leBytes 4 1) false).store 0x80B [1] false))
  let k : Hiker := ⟨0, Bank.fill _ _ ⟨0, false⟩, Bank.fill _ _ 0, 0, 0, 0, 0, 0, false, false, 8, some (1, 0x400)⟩
  let l : Launch := ⟨1, 0x400, .dispatched, 0, 0, 0, 0, 0, 0, 0, 0, 0, 0, true, [], [], 0, 0, 0, 0, true, false, false, false, false, 0, 0, 0,
    [], 0, 0, false⟩
  { s with
    mem := m
    core := { s.core with arrivals := [⟨0, k, true⟩] }
    part := { s.part with cfg := some cfg0, launches := [l] } }
def fanB : Fan → Bool
  | .ok _ _ => true
  | _ => false
theorem fan {x : Fan} (e : fanB x = true) : ∃ hd sh, x = .ok hd sh := by
  cases x with
  | ok hd sh => exact ⟨hd, sh, rfl⟩
  | _ => cases e
theorem wit_ThreadsTravelAndLaunch :
    (Calm sender ∧ (sender.s 1).p = false ∧ Acts sender h0 { NF [1] with noRanger := true } ∧
      (∃ s1, destOf sender 1 true (cannotHike sender) = .ok 5 s1) ∧ sender.me.far = [] ∧ (5 : CoreId) ≠ sender.core.id ∧
      (creditOf sender 5 false).held ≠ 0) ∧
    (let s := sr sender 1 0
     Calm s ∧ (s.s 1).p = false ∧ Acts s h0 { NF [1] with noRanger := true } ∧ (∃ s1, destOf s 1 true (cannotHike s) = .ok 0 s1) ∧
      s.core.id = 0) ∧
    (Acts sender h0 (NF ([1, 2] ++ payload 1 15)) ∧ payloadOk sender 1 15 = true ∧ (sender.s 2).p = false ∧ replyGuest sender.me = false ∧
      ∃ s1, destOf sender 1 true (streamBound sender) = .ok 5 s1) ∧
    (let as := asOf (translated launcher (launcher.k 0) 0x400 256 [permR] none)
     Calm launcher ∧ Acts launcher h0 { NF [1] with noRanger := true } ∧ (launcher.s 1).v = 0x400 ∧
      translated launcher (launcher.k 0) (launcher.s 1).v 256 [permR] none = .ok as ∧
      (breakAt launcher (launcher.k 0) (launcher.s 1).v 256 true false none).isNone = true ∧ markOf launcher launcher.me = some (1, 0x400) ∧
      launcher.part.cfg = some cfg0 ∧ ((findLaunch launcher 1).map (·.st)) = some .dispatched ∧ launcher.mem.gatherP as = false ∧
      ∃ hd sh, checkPacket (useRegs launcher [1]) cfg0 (launcher.mem.gather as) = .ok hd sh) :=
  ⟨⟨calm (by decide +kernel), by decide +kernel, acts (by decide +kernel), dest (by decide +kernel), by decide +kernel⟩,
    ⟨calm (by decide +kernel), by decide +kernel, acts (by decide +kernel), dest (by decide +kernel), by decide +kernel⟩,
    ⟨acts (by decide +kernel), by decide +kernel, by decide +kernel, by decide +kernel, dest (by decide +kernel)⟩,
    calm (by decide +kernel), acts (by decide +kernel), by decide +kernel, acc (by decide +kernel), by decide +kernel, by decide +kernel,
    by decide +kernel, by decide +kernel, by decide +kernel, fan (by decide +kernel)⟩

/-! Witnesses: memory. -/

theorem wit_StoreLaw : State.reset.mem.wf = true ∧ (leBytes 8 1)[7]? = some 0 ∧ (7 < 8 ∨ 8 + 8 ≤ 7) ∧ (16 < 8 ∨ 8 + 8 ≤ 16) := by
  decide +kernel

def someB {α : Type} : Option α → Bool
  | some _ => true
  | none => false
theorem isNone {α : Type} {o : Option α} (e : someB o = false) : o = none := by
  cases o with
  | none => rfl
  | some x => cases e

def badB : XRes → Bool
  | .bad _ _ => true
  | _ => false
theorem bad {x : XRes} (e : badB x = true) : ∃ c o, x = .bad c o := by
  cases x with
  | bad c o => exact ⟨c, o, rfl⟩
  | _ => cases e
/-- The last word of the mapped 64 KiB, the first byte past the pad, an offset that is not aligned, a poisoned address. -/
theorem wit_ScalarAccess :
    (let s := sr b0 1 0xFFF8
     let a := access s (s.k 0) (s.s 1).v 8 [permR] true false none
     Acts s h0 { N2 3 1 2 with far := .scalar } ∧ Acts s h0 { N1 3 1 with far := .scalar } ∧ (s.s 1).p = false ∧ (s.s 2).p = false ∧
      (s.s 1).v.toNat % IType.size .i64 = 0 ∧ a = .ok (asOf a) ∧ crosses s (loadAt s 3 [1, 2] (s.k 0) (s.s 1).v .i64) = false ∧
      crosses s (loadAt s 3 [1] (s.k 0) (s.s 1).v .i64) = false) ∧
    (let s := sr b0 1 0xFFF8
     let a := access s (s.k 0) (s.s 1).v 8 [permW] false true none
     Acts s h0 (NF [3, 1, 2]) ∧ Acts s h0 (NF [3, 1]) ∧ a = .ok (asOf a) ∧ crosses s (storeAt s 3 [1, 2] (s.k 0) (s.s 1).v .i64) = false ∧
      crosses s (storeAt s 3 [1] (s.k 0) (s.s 1).v .i64) = false) ∧
    (let s := kr (sr b0 1 0x80000) 0 0xFFFF
     Acts s h0 (NF [3, 1]) ∧ (∃ c o, xlate s s.ctl.cur s.me.space [permW] (vaOf (s.k 0) (s.s 1).v) 8 = .bad c o) ∧
      ∃ c o, xlate s s.ctl.cur s.me.space [permR] (vaOf (s.k 0) (s.s 1).v) 8 = .bad c o) ∧
    (let s := sr b0 1 7
     Acts s h0 (NF [3, 1]) ∧ (s.s 1).v.toNat % IType.size .i64 ≠ 0) ∧
    (Acts (sr b0 1 0 true) h0 (NF [3, 1]) ∧ ((sr b0 1 0 true).s 1).p = true) ∧
    (let s := pr b0 1 0
     gpois s hG = false ∧ gbit s hG = false ∧ Issues s hG { N2 3 1 2 with far := .scalar }) ∧
    (let s : State := { pr b0 1 0 with ctl := { b0.ctl with awaits := true } }
     gpois s hG = false ∧ gbit s hG = false ∧ MayIssue s hG { N2 3 1 2 with far := .scalar } ∧ (armGuard s hG).ctl.awaits = true ∧
      s.me.reg.isOpen = false) :=
  ⟨⟨acts (by decide +kernel), acts (by decide +kernel), by decide +kernel, by decide +kernel, by decide +kernel, acc (by decide +kernel),
      by decide +kernel, by decide +kernel⟩,
    ⟨acts (by decide +kernel), acts (by decide +kernel), acc (by decide +kernel), by decide +kernel, by decide +kernel⟩,
    ⟨acts (by decide +kernel), bad (by decide +kernel), bad (by decide +kernel)⟩, ⟨acts (by decide +kernel), by decide +kernel⟩,
    ⟨acts (by decide +kernel), by decide +kernel⟩, ⟨by decide +kernel, by decide +kernel, issues (by decide +kernel)⟩,
    by decide +kernel, by decide +kernel, may (by decide +kernel), by decide +kernel⟩

/-- The last 128 bytes of the mapped 64 KiB. -/
def last : State := sr b0 1 0xFF80
def spotsOf (s : State) (t : VTy) (st : Bool) : List (Nat × Word × Nat) :=
  let off := offVector s 1 2 0 0
  let bits := pairBits t (pairAt s (s.k 0) off t st)
  (governed s h0 (VTy.width t) (VTy.count t)).map fun e => (laneOf (VTy.width t) e, elemOff off bits e, elemLen bits)
theorem wit_VectorLoads :
    (let a := translatedAll last (last.k 0) [permR] (spotsOf last .i32 false)
     Issues last h0 { NV [3] [1, 2] [] [] with far := .vec 32 (some 3) } ∧ gpois last h0 = false ∧ gany last h0 32 = true ∧
      Plain last [3] ∧ (last.s 1).p = false ∧ (last.s 2).p = false ∧ a = .ok (assOf a) ∧
      pairAt last (last.k 0) (offVector last 1 2 0 0) .i32 false ≠ .illegal ∧
      (breakAll last (last.k 0) true false (spotsOf last .i32 false)).isNone = true ∧
      (offVector last 1 2 0 0).toNat % elemLen (pairBits .i32 (pairAt last (last.k 0) (offVector last 1 2 0 0) .i32 false)) = 0 ∧
      crosses last (finLoad last h0 3 32 [1, 2] (governed last h0 32 32) ((spotsOf last .i32 false).map fun x => vaOf (last.k 0) x.2.1) (assOf a)
        (loadElem last .i32 (pairAt last (last.k 0) (offVector last 1 2 0 0) .i32 false))) = false) ∧
    (let a := laneAccess last h0 1 (last.v 4) (last.k 0) 0 false [permR] (governed last h0 32 32)
     Issues last h0 { NV [3, 4] [1] [] [] with far := .vec 32 (some 3) } ∧ Plain last [3, 4] ∧ a = .ok (assOf a) ∧
      crosses last (finLoad last h0 3 32 [1] (governed last h0 32 32)
        ((governed last h0 32 32).map fun e => vaOf (last.k 0) (offLane last 1 (last.v 4) 0 false e)) (assOf a) fun _ x => (x, false)) = false) :=
  ⟨⟨issues (by decide +kernel), by decide +kernel, by decide +kernel, plain (by decide +kernel), by decide +kernel, by decide +kernel,
      accs (by decide +kernel), by decide +kernel, by decide +kernel, by decide +kernel, by decide +kernel⟩,
    issues (by decide +kernel), plain (by decide +kernel), accs (by decide +kernel), by decide +kernel⟩

theorem wit_VectorStores :
    (let a := translatedAll last (last.k 0) [permW] (spotsOf last .i32 true)
     let p := pairAt last (last.k 0) (offVector last 1 2 0 0) .i32 true
     let es := governed last h0 32 32
     let xs := (es.zip (assOf a)).map fun x => (x.2.headD 0, leBytes (elemLen (pairBits .i32 p))
       (narrowed .i32 p .rne (draws last h0 .rne (storeSteps p)) false x.1 (velt 32 (last.v 3).bits x.1)).1, vpois 32 (last.v 3) x.1)
     Issues last h0 { NV [3] [1, 2] [] [] with far := .vec 32 none } ∧ gpois last h0 = false ∧ gany last h0 32 = true ∧ Plain last [3] ∧ a = .ok (assOf a) ∧
      p ≠ .illegal ∧ (breakAll last (last.k 0) false true (spotsOf last .i32 true)).isNone = true ∧
      overLimit { last.me.cur with stores := last.me.cur.stores ++ (mergeParts xs).map fun x => ⟨x.1, x.2.1, x.2.2, none⟩ } = false) ∧
    (let es := governed last h0 32 32
     let a := laneAccess last h0 1 (last.v 4) (last.k 0) 0 false [permW] es
     let xs := (es.zip (assOf a)).map fun x => (x.2.headD 0, leBytes 4 (velt 32 (last.v 3).bits x.1), (last.v 3).poison.getLsbD x.1)
     Issues last h0 { NV [3, 4] [1] [] [] with far := .vec 32 none } ∧ Plain last [3, 4] ∧ a = .ok (assOf a) ∧
      overLimit { last.me.cur with stores := last.me.cur.stores ++ (mergeParts xs).map fun x => ⟨x.1, x.2.1, x.2.2, none⟩ } = false) :=
  ⟨⟨issues (by decide +kernel), by decide +kernel, by decide +kernel, plain (by decide +kernel), accs (by decide +kernel),
      by decide +kernel, by decide +kernel, by decide +kernel⟩,
    issues (by decide +kernel), plain (by decide +kernel), accs (by decide +kernel), by decide +kernel⟩

/-- The same word full and empty. -/
theorem wit_FullEmptyWords :
    [true, false].all (fun f =>
      let s : State := { sr b0 1 0xFFF8 with mem := b0.mem.setFull 0xFFF8 f }
      let off := offIndexed s 1 2 0 0 .i64
      let a := homeAccess s [1, 2] (s.k 0) off 8 8 [permR, permW] true
      actsB s h0 (NL 3 1 2) && actsB s h0 (NF [3, 1, 2]) && actsB s h0 (NF [1]) && calmB s && okB a && !isRemote s ((asOf a).headD 0) &&
        decide (s.mem.full ((asOf a).headD 0) = f) && okB (homeAccess s [1] (s.k 0) (s.s 1).v 8 8 [permW] true) &&
        opFree s s.ctl.cur ⟨.ldf, (asOf a).headD 0, .i64, true, ⟨0, false⟩, ⟨0, false⟩, ⟨0, 0⟩, 0⟩ &&
        opFree s s.ctl.cur ⟨.stef, (asOf a).headD 0, .i64, true, s.s 3, ⟨0, false⟩, ⟨0, 0⟩, 0⟩) = true := by
  decide +kernel

theorem wit_Atomics :
    [(true, 4, 0xFFFC), (false, 8, 0xFFF8)].all (fun x : Bool × Nat × Word =>
      let s := sr b0 1 x.2.2
      let a := homeAccess s [1] (s.k 0) (s.s 1).v x.2.1 x.2.1 [permR, permW, permA] false
      actsB s h0 (NL 3 1 2) && actsB s h0 { NL 3 1 2 with src := [1, 2, 4] } && calmB s && okB a && !isRemote s ((asOf a).headD 0) &&
        opFree s s.ctl.cur ⟨.atom .add x.1, (asOf a).headD 0, .i64, false, s.s 2, ⟨0, false⟩, ⟨0, 0⟩, 0⟩ &&
        opFree s s.ctl.cur ⟨.cas x.1, (asOf a).headD 0, .i64, false, s.s 2, s.s 4, ⟨0, 0⟩, 0⟩) = true := by
  decide +kernel

def redB : RedAcc → Bool
  | .ok _ => true
  | .stop _ => false
def redOf : RedAcc → List (Nat × Nat)
  | .ok es => es
  | .stop _ => []
theorem red {a : RedAcc} (e : redB a = true) : a = .ok (redOf a) := by
  cases a with
  | ok es => rfl
  | stop r => cases e
/-- A range that STASH may map. -/
def stashable : State := { b0 with core := { b0.core with rcache := [⟨0, { placedRange with attr := 0x83 }⟩] } }
/-- STASH of the pad's last line and of the range's, an UNSTASH of its span. -/
def stashed : State :=
  let s := sr (sr b0 1 0x400) 3 0x400
  { s with cl := { s.cl with spans := [⟨0x400, 0x400, ⟨0, 0, 0x400⟩, []⟩] } }
theorem wit_ReduceGatherPadAndEngines :
    (let s := sr b0 1 0xFF80
     let a := redAccess s h0 1 (s.k 0) .i32
     let o : HomeOp := ⟨.vred .add .i32 (redOf a), ((redOf a).head?.map (·.2)).getD 0, .i64, false, ⟨0, false⟩, ⟨0, false⟩, s.v 4, gmask s h0⟩
     Issues s h0 { NV [4] [1] [] [] with far := .vec 32 none } ∧ gpois s h0 = false ∧ gany s h0 32 = true ∧ Plain s [4] ∧ Calm s ∧
      a = .ok (redOf a) ∧ (∀ y, y ∈ redOf a → y.2 = 0xFF80 + 4 * y.1) ∧ s.mem.wf = true ∧ isRemote s o.addr = false ∧
      opFree s s.ctl.cur o = true) ∧
    (let a := laneAccess last h0 1 (last.v 4) (last.k 0) 0 false [permR] (governed last h0 32 32)
     Issues last h0 { NV [3, 4] [1] [] [] with far := .vec 32 (some 3) } ∧ Plain last [3, 4] ∧ Calm last ∧ a = .ok (assOf a)) ∧
    Issues b0 h0 ⟨[1], [], [], [], [], false, false, .near⟩ ∧
    (let s := sr (sr (sr b0 1 0x7FFC0) 2 0) 3 0x40
     Acts s h0 (NF [1, 2, 3]) ∧ Calm s ∧ s.mem.wf = true ∧
      someB (causes (stashEarly (s.s 1) (s.s 2) (s.s 3) (s.k 0) ++ stashLate s (s.s 1) (s.s 2) (s.s 3))) = false ∧ (s.s 2).v = 0) ∧
    (let s := sr (sr (sr stashable 1 0) 2 0xFFC0) 3 0x40
     Acts s h0 (NF [1, 2, 3]) ∧ Calm s ∧
      someB (causes (stashEarly (s.s 1) (s.s 2) (s.s 3) (s.k 0) ++ stashLate s (s.s 1) (s.s 2) (s.s 3))) = false ∧
      (s.s 3).v.toNat ≠ 0 ∧ (s.s 2).v ≠ 0) ∧
    (Acts stashed h0 { N1 2 1 with far := .scalar } ∧ Calm stashed ∧ (stashed.s 1).p = false ∧
      (spanFrom stashed (stashed.s 1).v).map (fun x => (x.pad % 8, x.len % 8, meetsBedroll stashed x.pad x.len)) = some (0, 0, false)) ∧
    (let s := sr (sr b0 1 0xFFC0) 2 64
     Acts s h0 { N2 3 1 2 with far := .scalar } ∧ Calm s ∧ (s.s 1).p = false ∧ (s.s 2).p = false ∧
      someB (spanAccess s (s.k 0) (s.s 1).v (s.s 2).v.toNat [permR]) = false) ∧
    (let s := kr (sr (sr (sr b0 1 0xFFC0) 2 0) 4 64) 1 0
     Acts s h0 { NS [1, 2, 4] with dst := [3], far := .scalar } ∧ Calm s ∧ s.cl.engq.length < 16 ∧
      someB (copyChecks s 1 2 4 false false) = false) ∧
    (let s := kr (sr (sr (sr b0 1 0xF000) 2 0x7F000) 4 1) 1 0xFFFF
     Acts s h0 { NF [1, 2, 4] with dst := [3] } ∧ someB (mcastChecks s 1 2 4 false) = false) ∧
    (let s := sr b0 1 0xFC00
     Acts s h0 { N1 3 1 with far := .scalar, noGuest := true } ∧ Calm s ∧ (s.s 1).p = false ∧ (s.s 1).v.toNat % 64 = 0 ∧
      someB (spanAccess s (s.k 0) (s.s 1).v 1024 [permR]) = false ∧
      (match xlate s s.ctl.cur s.me.space [permR] (vaOf (s.k 0) (s.s 1).v) 1024 with | .ok _ => true | _ => false) = true) :=
  ⟨⟨issues (by decide +kernel), by decide +kernel, by decide +kernel, plain (by decide +kernel), calm (by decide +kernel),
      red (by decide +kernel), by decide +kernel, by decide +kernel, by decide +kernel, by decide +kernel⟩,
    ⟨issues (by decide +kernel), plain (by decide +kernel), calm (by decide +kernel), accs (by decide +kernel)⟩,
    issues (by decide +kernel),
    ⟨acts (by decide +kernel), calm (by decide +kernel), by decide +kernel, by decide +kernel, by decide +kernel⟩,
    ⟨acts (by decide +kernel), calm (by decide +kernel), by decide +kernel, by decide +kernel, by decide +kernel⟩,
    ⟨acts (by decide +kernel), calm (by decide +kernel), by decide +kernel, by decide +kernel⟩,
    ⟨acts (by decide +kernel), calm (by decide +kernel), by decide +kernel, by decide +kernel, by decide +kernel⟩,
    ⟨acts (by decide +kernel), calm (by decide +kernel), by decide +kernel, by decide +kernel⟩,
    ⟨acts (by decide +kernel), by decide +kernel⟩,
    acts (by decide +kernel), calm (by decide +kernel), by decide +kernel, by decide +kernel, by decide +kernel, by decide +kernel⟩

/-! Witnesses: vectors, streams, rings, the matrix unit. -/

theorem wit_VectorArithmetic : Issues b0 h0 (NV (3 :: 1 :: vecB true 2) (scaB true 2) [] [2]) ∧ Plain b0 (3 :: 1 :: vecB true 2) ∧
    Issues b0 h0 (NV (3 :: 31 :: 4 :: vecB false 2) (scaB false 2) [] []) ∧ Plain b0 (3 :: 31 :: 4 :: vecB false 2) ∧
    b0.me.cur.vregs.length < 16 ∧ VTy.fmt .i8 = none ∧ (fpTrap (traps b0) 1).isSome = true ∧ fpTrap b0 0x3F = none :=
  ⟨issues (by decide +kernel), plain (by decide +kernel), issues (by decide +kernel), plain (by decide +kernel), by decide +kernel,
    by decide, by decide +kernel, by decide +kernel⟩
theorem wit_ArithmeticElements : VTy.fmt .i8 = none ∧ VTy.fmt .n32 = none ∧ VTy.fmt .bf16 = some fmtBF16 := by decide
theorem wit_VectorMovesAndLanes : Issues b0 h0 (NV (3 :: 1 :: vecB true 2) (scaB true 2) [] []) ∧ Plain b0 (3 :: 1 :: vecB true 2) ∧
    b0.me.cur.vregs.length < 16 ∧ (Issues b0 h0 (NV [1] [] [3] []) ∧ Plain b0 [1]) ∧ gnever ⟨8, false⟩ = true ∧ gnever h0 = false ∧
    ((List.range (VTy.count .i32)).filter (govBit (VTy.width .i32) (gmask b0 h0)) ≠ []) ∧ VTy.fmt .i32 = none :=
  ⟨issues (by decide +kernel), plain (by decide +kernel), by decide +kernel, ⟨issues (by decide +kernel), plain (by decide +kernel)⟩,
    by decide +kernel, by decide +kernel, by decide +kernel, by decide⟩
theorem wit_VectorFarAndCompare :
    (Issues b0 h0 { NV (3 :: 1 :: vecB true 2) (scaB true 2) [] [] with far := .vec 32 (some 3) } ∧ Plain b0 (3 :: 1 :: vecB true 2) ∧
      b0.me.cur.vregs.length < 16 ∧ gpois b0 h0 = false ∧ gany b0 h0 32 = true ∧ anyEnable b0 = false) ∧
    (Issues (traps b0) h0 { NV [3, 1] [] [] [] with far := .vec 32 (some 3) } ∧ anyEnable (traps b0) = true ∧
      (traps b0).ctl.came = false) ∧
    (let s : State := { traps b0 with ctl := { (traps b0).ctl with came := true } }
     Issues s h0 { NV [3, 1] [] [] [] with far := .vec 32 (some 3) } ∧ anyEnable s = true ∧ s.ctl.came = true) ∧
    (let s := pr b0 1 0xFFFFFFFF00000000
     Issues s hG { NV [3, 1] [] [] [] with far := .vec 32 (some 3) } ∧ gpois s hG = false ∧ gany s hG 32 = false) ∧
    (let s := pr b0 1 1 true
     Issues s hG { NV [3, 1] [] [] [] with far := .vec 32 (some 3) } ∧ gpois s hG = true) ∧
    (Issues b0 h0 ⟨scaB true 2, [], 1 :: vecB true 2, [], [1, 2], false, false, .near⟩ ∧ Plain b0 (1 :: vecB true 2) ∧ (2 : PReg) ≠ 1) :=
  ⟨⟨issues (by decide +kernel), plain (by decide +kernel), by decide +kernel⟩, ⟨issues (by decide +kernel), by decide +kernel⟩,
    ⟨issues (by decide +kernel), by decide +kernel⟩, ⟨issues (by decide +kernel), by decide +kernel⟩, ⟨issues (by decide +kernel), by decide +kernel⟩,
    issues (by decide +kernel), plain (by decide +kernel), by decide⟩
theorem wit_VectorPack : Issues b0 h0 (NV [3, 1, 4] [] [] []) ∧ Issues b0 h0 (NV [3, 1] [] [] []) ∧ Plain b0 [3, 1, 4] ∧
    b0.me.cur.vregs.length < 15 ∧ gnever h0 = false ∧ (4 : VNum) ≠ 3 ∧ fpTrap b0 0x3F = none ∧ (fpTrap (traps b0) 1).isSome = true :=
  ⟨issues (by decide +kernel), issues (by decide +kernel), plain (by decide +kernel), by decide +kernel⟩

/-- A resident of the largest allotment whose v28 is bound as said, ring 3 a vector ring of four. -/
def streaming (k : BindKind) (buf : List (VVal × Bool × Bool × Option (BitVec 8 × Word))) : State :=
  let s := me b0 fun t => { t with binds := t.binds.set 0 ⟨k, none, [], [], 0, buf⟩ }
  setRing s 3 ⟨true, 0, 0, 1, 2, 128, 0, 2, 0, 0, false, false, false, [], [], none⟩
theorem wit_StreamElements :
    (let s := streaming (.pop 3) [(⟨1, 0⟩, false, false, none)]
     Issues s h0 (NV [1, 28] [] [] []) ∧ s.ctl.taken = [] ∧ s.me.cur.vregs.length < 16 ∧ gpois s h0 = false ∧ gnever h0 = false ∧
      (s.me.binds.get 0).desc = none ∧ badWindow s 3 = false ∧ bindIdx s 28 = some 0 ∧ (s.me.binds.get 0).kind = .pop 3 ∧
      (s.me.binds.get 0).buf = [(⟨1, 0⟩, false, false, none)] ∧ bindIdx s 1 = none ∧
      someB (elemBad s s.ctl.cur (getRing s 3) ((getRing s 3).head.toNat + (getRing s 3).resvPop - 1) 128 [permR]) = false) ∧
    (let s := streaming (.push 3) []
     Issues s h0 (NV [28, 1] [] [] []) ∧ gnever h0 = false ∧ bindIdx s 28 = some 0 ∧ (s.me.binds.get 0).kind = .push 3 ∧
      (getRing s 3).room ≠ 0 ∧ bindIdx s 1 = none ∧
      someB (elemBad s s.ctl.cur (getRing s 3) ((getRing s 3).tail.toNat + (getRing s 3).resvPush) 128 [permW]) = false) :=
  ⟨⟨issues (by decide +kernel), by decide +kernel⟩, issues (by decide +kernel), by decide +kernel⟩

/-- A descriptor of one level of four elements in the last line of the mapped 64 KiB. -/
def described (base ring step : Nat) : State :=
  let s := sr (streaming .unbound []) 1 0xFFC0
  { s with mem := (((s.mem.store 0xFFC0 (leBytes 8 base) false).store 0xFFC8 (leBytes 8 (2 ^ 16 + ring * 2 ^ 24)) false).store 0xFFD0
      (leBytes 4 4) false).store 0xFFE0 (leBytes 8 step) false }
/-- An index below, at the length; a table past alignment; poison. -/
theorem wit_TableJumpsAndStreams :
    (let s := sr (sr b0 1 7) 2 0x100
     let ea := (s.s 2).v + (s.s 1).v * 8
     let a := access s (s.k 0) ea 8 [permR] true false none
     Acts s h0 (NF [1, 2]) ∧ (s.s 1).p = false ∧ (s.s 2).p = false ∧
      (s.s 1).v.toNat < (8 : BitVec 12).toNat ∧ (7 : BitVec 12).toNat ≤ (s.s 1).v.toNat ∧ ea.toNat % 8 = 0 ∧ a = .ok (asOf a) ∧
      (asOf a).any (viewMem s s.ctl.cur).pois = false ∧ overLimit (loadPlain s (asOf a) (vaOf (s.k 0) ea)).2.me.cur = false ∧ s.ctl.came = false) ∧
    (let s := sr (sr { b0 with ctl := { b0.ctl with came := true } } 1 7) 2 0x100
     Acts s h0 (NF [1, 2]) ∧ s.ctl.came = true) ∧
    (let s := sr (sr { b0 with mem := b0.mem.store 0x138 (leBytes 8 5) true } 1 7) 2 0x100
     let ea := (s.s 2).v + (s.s 1).v * 8
     let a := access s (s.k 0) ea 8 [permR] true false none
     a = .ok (asOf a) ∧ (asOf a).any (viewMem s s.ctl.cur).pois = true) ∧
    (let s := sr b0 2 0x101
     Acts s h0 (NF [1, 2]) ∧ ((s.s 2).v + (s.s 1).v * 8).toNat % 8 ≠ 0) ∧
    (Acts (sr b0 1 0 true) h0 (NF [1, 2]) ∧ ((sr b0 1 0 true).s 1).p = true) ∧
    (Acts b0 h0 { Names.empty with vec := [27], noGuest := true, far := .scalar } ∧ bindIdx b0 27 = none) ∧
    (let s := streaming .unbound []
     let g := getRing s 3
     Acts s h0 { Names.empty with vec := [28], noGuest := true, far := .scalar } ∧ Calm s ∧ bindIdx s 28 = some 0 ∧ bindIdx b0 31 = some 3 ∧
      (s.binding 0).kind = .unbound ∧ ringMode .pop = true ∧ g.defd = true ∧ g.kind = 1 ∧ g.popb = false ∧ g.pushb = false ∧ g.pendDef = none) ∧
    ([(BindMode.rd, 0x100, 0, 4), (.wr, 0x100, 0, 4), (.pop, 0, 3, 0), (.push, 0, 3, 0)].all (fun x : BindMode × Nat × Nat × Nat =>
      let s := described x.2.1 x.2.2.1 x.2.2.2
      let a := translated s (s.k 0) (s.s 1).v 64 [permR] none
      okB a && !descBad (readBind (viewMem s s.ctl.cur) (asOf a)) (!ringMode x.1)) = true) ∧
    (let s := described 0x100 0 4
     let a := translated s (s.k 0) (s.s 1).v 64 [permR] none
     Acts s h0 { NF [1] with vec := [28], noGuest := true } ∧ Calm s ∧ (s.s 1).p = false ∧ (s.s 1).v.toNat % 64 = 0 ∧ a = .ok (asOf a) ∧
      (breakAt s (s.k 0) (s.s 1).v 64 true false none).isNone = true ∧ ringMode .rd = false) :=
  ⟨⟨acts (by decide +kernel), by decide +kernel, by decide +kernel, by decide +kernel, by decide +kernel, by decide +kernel,
      acc (by decide +kernel), by decide +kernel, by decide +kernel⟩, ⟨acts (by decide +kernel), by decide +kernel⟩, ⟨acc (by decide +kernel), by decide +kernel⟩,
    ⟨acts (by decide +kernel), by decide +kernel⟩, ⟨acts (by decide +kernel), by decide +kernel⟩,
    ⟨acts (by decide +kernel), by decide +kernel⟩, ⟨acts (by decide +kernel), calm (by decide +kernel), by decide +kernel⟩,
    by decide +kernel, acts (by decide +kernel), calm (by decide +kernel), by decide +kernel, by decide +kernel, acc (by decide +kernel),
    by decide +kernel, by decide +kernel⟩

/-- Ring 3 of a kind with two of four slots in use; the largest ring RDEF takes; the last byte of the pad and of the range. -/
def ringed (kind : BitVec 2) (stride : Nat) (f : Ring → Ring := id) : State :=
  setRing b0 3 (f ⟨true, 0, 0, kind, 2, stride, 0, 2, 0, 0, false, false, false, [], [], none⟩)
theorem wit_RingsAndRanges :
    (let s := ringed 0 8
     let g := getRing s 3
     g.pendDef = none ∧ Calm s ∧ Acts s h0 { NF [1] with noGuest := true } ∧ g.defd = true ∧ g.kind = 0 ∧ g.pushb = false ∧ g.popb = false ∧
      badWindow s 3 = false ∧ g.room ≠ 0 ∧ g.avail ≠ 0 ∧ someB (elemBad s s.ctl.cur g (g.tail.toNat + g.resvPush) 8 [permW]) = false ∧
      someB (elemBad s s.ctl.cur g (g.head.toNat + g.resvPop) 8 [permR]) = false ∧ Acts s h0 ⟨[], [1], [], [], [], true, false, .scalar⟩) ∧
    (let s := ringed 1 128
     let g := getRing s 3
     g.pendDef = none ∧ Calm s ∧ Acts s h0 { NV [1] [] [] [] with noGuest := true, far := .vec 32 none } ∧ Plain s [1] ∧ g.defd = true ∧ g.kind = 1 ∧
      g.pushb = false ∧ g.popb = false ∧ badWindow s 3 = false ∧ g.room ≠ 0 ∧ g.avail ≠ 0 ∧
      someB (elemBad s s.ctl.cur g (g.tail.toNat + g.resvPush) 128 [permW]) = false ∧
      someB (elemBad s s.ctl.cur g (g.head.toNat + g.resvPop) 128 [permR]) = false ∧
      Issues s h0 { NV [1] [] [] [] with noGuest := true, far := .vec 32 (some 1) } ∧ gpois s h0 = false ∧ gany s h0 32 = true) ∧
    (Acts b0 h0 { NF [1] with noGuest := true } ∧ (getRing b0 3).pendDef = none ∧ (getRing b0 3).defd = false) ∧
    (let s := sr (sr b0 1 0x78000) 2 0xC00
     Acts s h0 { NF [1, 2] with noGuest := true } ∧ Calm s ∧ (s.s 1).p = false ∧ (s.s 2).p = false ∧ rdefBad s 3 (s.s 1).v (s.s 2).v = false) ∧
    (let s := ringed 0 8 fun g => { g with resvPush := 1 }
     ¬ ((getRing s 3).resvPush = 0 ∧ (getRing s 3).resvPop = 0) ∧ (getRing s 3).occ < 2 ^ 13) ∧
    (let s := kr (sr b0 1 0x7FFFF) 1 0xFFFF
     Acts s h0 { N1 3 1 with noGuest := true, far := .scalar } ∧ (s.s 1).p = false ∧ s.k 1 = localReach ∧
      padOff (s.s 1).v = some (0x7FFFF, 0) ∧ (spanAt s 0x7FFFF).isNone = true ∧ inBedroll s 0x7FFFF = false) ∧
    (let s := sr b0 1 0xFFFF
     Acts s h0 { N1 3 1 with noGuest := true, far := .scalar } ∧ s.k 1 ≠ localReach ∧
      rcFind s.core.rcache s.me.space (vaOf (s.k 1) (s.s 1).v) = some placedRange) ∧
    (let s := me (sr b0 1 0x10000) fun t => { t with miss := some 0x10000 }
     Acts s h0 { N1 3 1 with noGuest := true, far := .scalar } ∧
      (rcFind s.core.rcache s.me.space (vaOf (s.k 1) (s.s 1).v)).isNone = true ∧ s.me.miss = some (vaOf (s.k 1) (s.s 1).v)) :=
  ⟨⟨by decide +kernel, calm (by decide +kernel), acts (by decide +kernel), by decide +kernel, by decide +kernel, by decide +kernel,
      by decide +kernel, by decide +kernel, by decide +kernel, by decide +kernel, by decide +kernel, by decide +kernel, acts (by decide +kernel)⟩,
    ⟨by decide +kernel, calm (by decide +kernel), acts (by decide +kernel), plain (by decide +kernel), by decide +kernel, by decide +kernel,
      by decide +kernel, by decide +kernel, by decide +kernel, by decide +kernel, by decide +kernel, by decide +kernel, by decide +kernel,
      issues (by decide +kernel), by decide +kernel⟩,
    ⟨acts (by decide +kernel), by decide +kernel⟩,
    ⟨acts (by decide +kernel), calm (by decide +kernel), by decide +kernel, by decide +kernel, by decide +kernel⟩, by decide +kernel,
    ⟨acts (by decide +kernel), by decide +kernel⟩, ⟨acts (by decide +kernel), by decide +kernel⟩, acts (by decide +kernel), by decide +kernel⟩

theorem wit_MatrixCommands :
    (let g : Ring := ⟨true, 0, 0, 2, 0, 4096, 0, 1, 0, 0, false, false, false, [], [], none⟩
     let s := setRing (setRing b0 1 g) 2 g
     Calm s ∧ s.core.mq.length < 8 ∧ s.me.reg.isOpen = false ∧ Acts s h0 { Names.empty with noGuest := true, far := .scalar } ∧ tileRingBad s 1 = false ∧ tileRingBad s 2 = false ∧
      someB (tilesBad s 1 1) = false ∧ someB (tilesBad s 2 1) = false) ∧
    (let s := sr b0 1 0xF000
     Acts s h0 { NS [1] with noGuest := true, far := .scalar } ∧ someB (causes (tileChecks s 1 (s.k 0) [permR] false)) = false ∧
      Acts s h0 { NS [1] with dst := [4], far := .scalar, noGuest := true } ∧
      someB (causes (tileChecks s 1 (s.k 0) [permW] true)) = false) :=
  ⟨⟨calm (by decide +kernel), by decide +kernel, by decide +kernel, acts (by decide +kernel), by decide +kernel⟩,
    acts (by decide +kernel), by decide +kernel, acts (by decide +kernel), by decide +kernel⟩

/-! Witnesses: the ranger. -/

/-- The ranger in hand, a thread of the launch in slot 0, stopped. -/
def rgS : State :=
  let s : State := { rg with core := { rg.core with launch := some placedLaunch } }
  s.setSlot 0 { b0.slot 0 with stop := true, stopped := true }
/-- The same with a trap record in place of the stop. -/
def rgT : State := rgS.setSlot 0 { b0.slot 0 with trap := some ⟨⟨1, 0, 0⟩, 0x40, 0, 0x40, true⟩ }
theorem wit_PrivilegedOutsideTheRanger : b0.ctl.cur ≠ 15 ∧ guest.ctl.cur ≠ 15 := by decide +kernel
theorem wit_PrivilegedRegisters :
    (rg.ctl.cur = 15 ∧ Acts rg h0 ⟨[], [3], [], [], [], false, false, .near⟩ ∧ isPriv 0x107 = false ∧ isPriv 0x116 = false ∧
      isPriv 0x100 = true ∧ isPriv 0x115 = true ∧ rg.core.events.length < 128 ∧ (tregRead rg).isSome = true) ∧
    (let s : State := { rg with core := { rg.core with priv := { rg.core.priv with tsel := 0x1F } } }
     Acts s h0 ⟨[], [3], [], [], [], false, false, .near⟩ ∧ (tregRead s).isNone = true) ∧
    (Acts (sr rg 1 0 true) h0 (NS [1]) ∧ ((sr rg 1 0 true).s 1).p = true) ∧ (Acts rg h0 (NS [1]) ∧ (rg.s 1).p = false ∧ bedrollUsed rg = false) ∧
    (let s : State := { rg with core := { rg.core with images := [⟨0, [], some 0, 0, 0, b0.me, 0, false, [], false⟩] } }
     Acts s h0 (NS [1]) ∧ bedrollUsed s = true) ∧
    (let s : State := { rgS with core := { rgS.core with priv := { rgS.core.priv with tsel := 0x1F0 } } }
     Acts s h0 (NS [1]) ∧ (match tregOf s with | .reg i r => decide (i = 0 ∧ r = 31) | _ => false) = true) ∧
    (Acts rgT h0 (NS [1]) ∧ fin16 (rgT.core.priv.cause.extractLsb' 8 4).toNat = 0 ∧ (rgT.slot 0).trap.isSome = true) :=
  ⟨⟨by decide +kernel, acts (by decide +kernel), by decide +kernel⟩, ⟨acts (by decide +kernel), by decide +kernel⟩,
    ⟨acts (by decide +kernel), by decide +kernel⟩, ⟨acts (by decide +kernel), by decide +kernel⟩,
    ⟨acts (by decide +kernel), by decide +kernel⟩, ⟨acts (by decide +kernel), by decide +kernel⟩, acts (by decide +kernel), by decide +kernel⟩

def workB : Work → Option Word
  | .go _ pc => some pc
  | _ => none
theorem work {w : Work} {pc : Word} (e : workB w = some pc) : ∃ s1, w = .go s1 pc := by
  cases w with
  | go s1 q => exact ⟨s1, by rw [Option.some.inj e]⟩
  | _ => cases e
def noWorkB : Work → Bool
  | .none => true
  | _ => false
theorem noWork {w : Work} (e : noWorkB w = true) : w = .none := by
  cases w with
  | none => rfl
  | _ => cases e
theorem wit_RangerReturns : (rg.ctl.cur = 15 ∧ Acts rg h0 .empty ∧ Calm rg ∧ nextWork rg = .none) ∧
    (let s0 := tabled rgT
     let s : State := { s0 with mem := s0.mem.store 0x208 (leBytes 8 0x5000) false, core := { s0.core with priv := { s0.core.priv with vtab := 0x200 } } }
     s.ctl.cur = 15 ∧ Acts s h0 .empty ∧ Calm s ∧ ∃ s1, nextWork s = .go s1 0x5000) :=
  ⟨⟨by decide +kernel, acts (by decide +kernel), calm (by decide +kernel), noWork (by decide +kernel)⟩,
    by decide +kernel, acts (by decide +kernel), calm (by decide +kernel), work (by decide +kernel)⟩
theorem wit_TakingATrap : (0 : SlotN) ≠ 15 ∧ b0.me.reg.isOpen = false ∧ inRegion.me.reg.isOpen = true ∧
    (rgT.ctl.cur = 15 ∧ Acts rgT h0 ⟨[], [3], [], [], [], false, false, .near⟩) ∧
    (Acts rgT h0 (NS [1]) ∧ (rgT.s 1).p = false ∧ (0 : SlotN) = fin16 (rgT.core.priv.cause.extractLsb' 8 4).toNat ∧
      (rgT.slot 0).trap.isSome = true ∧ (rgT.th 0).flight = []) :=
  ⟨by decide, by decide +kernel, by decide +kernel, ⟨by decide +kernel, acts (by decide +kernel)⟩, acts (by decide +kernel),
    by decide +kernel⟩

/-- The least and the greatest operand of each command. -/
theorem wit_RangerCommands :
    (let s : State := { sr rgS 1 0x3FFFF with part := { rgS.part with cfg := some { cfg0 with sites := 0xFFFFFFFF } } }
     s.ctl.cur = 15 ∧ Acts s h0 (NF [1]) ∧ (s.s 1).p = false ∧ Calm s ∧ (s.s 1).v.toNat < 2 ^ 18 ∧
      inPartition s ((s.s 1).v.extractLsb' 0 14) = true ∧ (s.s 1).v.extractLsb' 0 14 ≠ s.core.id) ∧
    (Acts (sr rgS 1 0) h0 (NF [1]) ∧ Calm (sr rgS 1 0) ∧ drained (sr rgS 1 0) 0 = true ∧ inPartition (sr rgS 1 0) 0 = true ∧ (rgS.slot 0).occ = true ∧
      (rgS.slot 0).stopped = true ∧ (rgS.th 0).ended = [] ∧ (rgS.th 0).far = [] ∧ creditState (sr rgS 1 0) 0 = false) ∧
    (Acts (sr rgS 1 14) h0 (NS [1]) ∧ ((sr rgS 1 14).s 1).v.toNat = (14 : SlotN).val ∧ (14 : SlotN) ≠ 15) ∧
    (let s := sr (tabled <| rgS.setSlot 0 { rgS.slot 0 with th := { rgS.th 0 with park := some (.join ⟨0, 0, 0xFFF8⟩ 1) } }) 1 0
     Acts s h0 (NS [1]) ∧ (s.th 0).park = some (.join ⟨0, 0, 0xFFF8⟩ 1) ∧ ∃ y, homeOf s ⟨0, 0, 0xFFF8⟩ = .at_ y) ∧
    (Acts (sr rgS 1 1) h0 (NS [1]) ∧ Calm (sr rgS 1 1) ∧ ((sr rgS 1 1).s 1).v.toNat < 2) ∧
    (let s : State := { sr rgS 1 0x3FFF with core := { rgS.core with credits := [⟨0x3FFF, false, 1, none, false⟩] } }
     Acts s h0 (NF [1]) ∧ Calm s ∧ (s.s 1).v.toNat < 2 ^ 14 ∧ creditState s 0x3FFF = true ∧ (0x3FFF : CoreId) ≠ s.core.id) :=
  ⟨⟨by decide +kernel, acts (by decide +kernel), by decide +kernel, calm (by decide +kernel), by decide +kernel⟩,
    ⟨acts (by decide +kernel), calm (by decide +kernel), by decide +kernel⟩, ⟨acts (by decide +kernel), by decide +kernel⟩,
    ⟨acts (by decide +kernel), by decide +kernel, hok (by decide +kernel)⟩,
    ⟨acts (by decide +kernel), calm (by decide +kernel), by decide +kernel⟩, acts (by decide +kernel), calm (by decide +kernel), by decide +kernel⟩

def linesB : Blocks → Bool
  | .ok _ => true
  | _ => false
theorem lines {x : Blocks} (e : linesB x = true) : ∃ ls, x = .ok ls := by
  cases x with
  | ok ls => exact ⟨ls, rfl⟩
  | _ => cases e
def blocksOf : Blocks → List Nat
  | .ok ls => ls
  | _ => []
/-- A vacant, stopped slot 0 and an image of an index thread at 0x400. -/
def rgL : State :=
  let s := sr (rgS.setSlot 0 { Slot.vacant with stop := true, stopped := true }) 2 0x400
  { s with mem := s.mem.store 0x408 (leBytes 8 (32 * 2 ^ 28)) false }
theorem wit_ContextsSavedAndLoaded :
    (let s := sr rgS 2 0xEC00
     s.ctl.cur = 15 ∧ Acts s h0 { N2 3 1 2 with far := .scalar } ∧ Calm s ∧ (s.s 1).p = false ∧ (s.s 2).p = false ∧
      (s.s 1).v.toNat = (0 : SlotN).val ∧ saveIllegal s 0 = false ∧ settledSlot s 0 = true ∧
      someB (causes (kibChecks s (s.s 2).v (imageBytes (s.allot 0)) [permW] false true)) = false ∧
      ∃ ls, blocksAt s (s.s 2).v (imageBytes (s.allot 0) / 64) [permW] = .ok ls) ∧
    (let ls := blocksOf (imageSource rgL (rgL.s 2).v)
     Acts rgL h0 { N2 3 1 2 with far := .scalar } ∧ Calm rgL ∧ (rgL.slot 0).occ = false ∧ (rgL.slot 0).stop = true ∧
      (∃ ls, imageSource rgL (rgL.s 2).v = .ok ls) ∧ imageFits rgL 0 (readWord rgL.mem ls 1) = true ∧
      field (readWord rgL.mem ls 24) 0 5 = 0 ∧ someB (recordOf rgL ls) = false ∧ stateKind (readWord rgL.mem ls 1) = 0) :=
  ⟨⟨by decide +kernel, acts (by decide +kernel), calm (by decide +kernel), by decide +kernel, by decide +kernel, by decide +kernel,
      by decide +kernel, by decide +kernel, by decide +kernel, lines (by decide +kernel)⟩,
    acts (by decide +kernel), calm (by decide +kernel), by decide +kernel, by decide +kernel, lines (by decide +kernel), by decide +kernel⟩
/-- The last line of the mapped range, the last space number. -/
theorem wit_RangeInstructions :
    (let s := sr (sr rg 1 0xFFC0) 2 0xFFFF
     s.ctl.cur = 15 ∧ Acts s h0 { N2 3 1 2 with far := .scalar } ∧ Calm s ∧ (s.s 1).p = false ∧ (s.s 2).p = false ∧
      (s.s 1).v.toNat % 64 = 0 ∧ (s.s 2).v.toNat < 2 ^ 16 ∧ someB (spanAccess s (s.k 0) (s.s 1).v 64 [permR]) = false) :=
  ⟨by decide +kernel, acts (by decide +kernel), calm (by decide +kernel), by decide +kernel⟩

/-! Witnesses: the steps of the parts. -/

/-- The far-table entry of packet n, with its value. -/
def owed (n : BitVec 8) (d : FarDest) (v : Option FarVal) : FarEntry := ⟨n, 0, d, v, 0, false, 0, false, false⟩
/-- s1 of slot 0 expects packet 3, v3 packet 5, v4 packet 6, whose seal entry is on its way; each value is there, and a fault
found late. -/
def owing : State :=
  let s := me b0 fun t => { t with
    regs := { t.regs with g := t.regs.g.set 1 ⟨0, false, true, 3, none⟩ }
    flight := [⟨6, 0, t.regs, false, false⟩]
    far := [owed 3 (.scalar 1) (some (.scalar ⟨5, true⟩ none)), owed 4 .none (some .discard), owed 5 (.vec 3) (some (.vec ⟨7, 1⟩)),
      owed 6 (.vec 4) (some (.vec ⟨7, 1⟩))]
    late := some (⟨0x13, 0, 0⟩, 0x40) }
  s.putV 0 3 ⟨⟨0, 0⟩, 5⟩
def trapped (s : State) : State := s.setSlot 0 { s.slot 0 with trap := some ⟨⟨1, 0, 0⟩, 0x40, 0, 0x40, true⟩ }
def parked (s : State) (p : Park) : State := me s fun t => { t with park := some p }
/-- A thread of space 0 whose code no launch tags. -/
def untagged : State := { b0 with core := { b0.core with launch := none, icache := [] } }
theorem wit_StepsOfThePipe :
    ((owing.th 0).far = [] ++ owed 3 (.scalar 1) (some (.scalar ⟨5, true⟩ none)) :: (owing.th 0).far.tail ∧
      (∀ x ∈ (owing.th 0).far.tail, x.seq ≠ 3) ∧
      (owing.th 0).far = (owing.th 0).far.take 2 ++ owed 5 (.vec 3) (some (.vec ⟨7, 1⟩)) :: (owing.th 0).far.drop 3 ∧
      ∀ x ∈ (owing.th 0).far.take 2 ++ (owing.th 0).far.drop 3, x.seq ≠ 5) ∧
    ((owing.th 0).late = some (⟨0x13, 0, 0⟩, 0x40) ∧ (0 : SlotN) ≠ ranger) ∧
    (((trapped b0).slot 0).occ = true ∧ ((trapped b0).slot 0).trap.isSome = true ∧ ((trapped b0).th 0).reg.isOpen = false ∧
      ((trapped inRegion).slot 0).occ = true ∧ ((trapped inRegion).slot 0).trap.isSome = true ∧
      ((trapped inRegion).th 0).reg.isOpen = true) ∧
    runnable b0 0 = true ∧ (((parked b0 .walk).th 0).park = some .walk ∧ parkOver (parked b0 .walk) 0 .walk = true) ∧
    ((untagged.slot 0).occ = true ∧ lineTag untagged 0 = 0 ∧ patchWaits untagged 0 = false ∧
      ∃ a fe, xByte untagged 0 (untagged.th 0).space (vaOf (untagged.th 0).creach (pcLine (untagged.th 0).pc)) [permX] = .ok a fe) ∧
    ((parked b0 (.wakeAt 9)).th 0).park = some (.wakeAt 9) :=
  ⟨by decide +kernel, by decide +kernel, by decide +kernel, by decide +kernel, by decide +kernel,
    ⟨by decide +kernel, by decide +kernel, by decide +kernel, bok (by decide +kernel)⟩, by decide +kernel⟩

/-- A chunk with a store to 0x100, which has read line 0 symbolically: input 0, the word at 8, must be 5. -/
def chunk0 : Chunk :=
  { Chunk.start 1 0x40 0x40 .zero [0, 0, 0, 0] with
    npkts := 1, stores := [⟨0x100, [1, 2], false, none⟩, ⟨0x108, [0, 0, 0, 0, 0, 0, 0, 0], false, some (0, 1)⟩]
    inputs := [⟨8, .i64, false, 5⟩], cons := [⟨0, 0, .eq, false, 5, false, true⟩], reads := [⟨0, 0, 8, false⟩] }
def ended (c : Chunk) : State := me b0 fun t => { t with ended := [c] }
/-- The same thread of a paired launch. -/
def twinned (s : State) : State :=
  { s with core := { s.core with launch := some { placedLaunch with sh := { placedLaunch.sh with info := { placedInfo with flags := 2 } } } } }
/-- Its line has been written: the input holds 5 still, or 6. -/
def clash (n : Nat) : State :=
  let s := ended { chunk0 with confl := [0] }
  { s with mem := s.mem.store 8 (leBytes 8 n) false }
theorem wit_ChunksCommitted :
    ((b0.slot 0).occ = true ∧ ((ended chunk0).th 0).ended = [chunk0] ∧ paired (ended chunk0) 0 = false ∧ paired (twinned (ended chunk0)) 0 = true ∧
      commitReady (ended chunk0) 0 = true ∧ commitReady (twinned (ended chunk0)) 0 = true ∧ chunk0.pushed = [] ∧ chunk0.act = none ∧
      ∀ h ∈ chunk0.stores, isHost h.addr = false ∧ isRemote (ended chunk0) h.addr = false) ∧
    (judge (ended chunk0) 0 chunk0 = .clean ∧ judge (clash 5) 0 { chunk0 with confl := [0] } = .repaired ∧ commitReady (clash 5) 0 = true ∧
      judge (clash 6) 0 { chunk0 with confl := [0] } = .squash 2 ∧ ((clash 6).slot 0).stopped = false ∧ ((clash 6).slot 0).halting = false) ∧
    (let s := me (clash 6) fun t => { t with squash := 3 }
     judge s 0 { chunk0 with confl := [0] } = .squash 2 ∧ commitReady s 0 = true ∧ 4 ≤ (s.th 0).squash + 1 ∧ (s.th 0).solo = false ∧
      (0 : SlotN) ∉ s.pkg.soloQueue) ∧
    mismatchesOf (twinned (ended chunk0)) 0 = 0 ∧
    (let s : State := { b0 with pkg := { b0.pkg with soloQueue := [0, 3] } }
     s.pkg.soloHolder = none ∧ s.pkg.soloQueue = 0 :: [3]) := by decide +kernel

/-- STEF of 7 to a full word, LDFE of an empty one, with the reference of packet 3. -/
def opW (k : HomeKind) (a : Nat) : HomeOp := ⟨k, a, .i64, true, ⟨7, false⟩, ⟨0, false⟩, ⟨0, 0⟩, 0⟩
def waiting (k : HomeKind) (a n : Nat) : State := me b0 fun t =>
  { t with sync := some ⟨opW k a, some ⟨0, 3, 0⟩, n, 0x40, Chunk.start 1 0x40 0x40 .zero [0, 0, 0, 0], false, none⟩, far := [owed 3 .none none] }
/-- A bedroll area of the five frames that an image of 32 vector registers takes. -/
def bedded (s : State) : State := { s with core := { s.core with priv := { s.core.priv with bedroll := 0x50001 } } }
theorem wit_HomesPerform :
    ([(HomeKind.ldf, 0x100), (.ldfe, 0x100), (.feset false, 0xFFF8), (.atom .add false, 0)].all (fun x =>
      let s := waiting x.1 x.2 0
      decide (opReady s.mem (opW x.1 x.2) = true ∧ isRemote s x.2 = false ∧ opFree s 0 (opW x.1 x.2) = true ∧ (s.th 0).pend = [] ∧
        (s.th 0).sent = [] ∧ (s.slot 0).occ = true ∧ (∃ y ∈ (s.th 0).far, y.seq = 3 ∧ y.inc = 0) ∧ (s.th 0).sync.all (fun w => w.chunk.taken.isEmpty && w.chunk.pushed.isEmpty) = true)) = true) ∧
    (let s := bedded (waiting .stef 0x100 64)
     (s.th 0).sync.isSome = true ∧ opReady s.mem (opW .stef 0x100) = false ∧ (opW .stef 0x100).fe = true ∧ isResident 0 = true ∧
      (freeRun s (framesFor (s.allot 0))).isSome = true ∧ (∀ x ∈ s.cl.waiters, x.addr ≠ 0x100) ∧ tableRoom s 0x100 = true ∧ mayLeave (dropSync s 0) 0 = true) ∧
    (opReady (waiting .stef 0x100 63).mem (opW .stef 0x100) = false) ∧
    (let s := waiting .ldfe (2 ^ 40) 64
     isRemote s (2 ^ 40) = true ∧ (s.th 0).sync.all (fun w => !w.asked) = true ∧ (s.slot 0).stopped = false ∧ (s.slot 0).halting = false ∧
      ackedBy (s.th 0) (packageOf (2 ^ 40)) = true) ∧
    (hasMemory 0x100 = true ∧ opReady b0.mem (opW .ldfe 0x100) = true ∧ linesFree b0 none (opLines (opW .ldfe 0x100)) = true) ∧
    (let s := waiting .ldf 0 0
     (s.slot 0).occ = true ∧ ∃ x ∈ (s.th 0).far, x.seq = 3 ∧ x.inc = 0) := by decide +kernel

/-- Stores of slot 0 to the host and to package 1, waiting and sent. -/
def edge : State := me b0 fun t =>
  { t with pend := [⟨hostBase, [1], false⟩, ⟨2 ^ 40, [2], true⟩], sent := [⟨2 ^ 40 + 8, [3], false⟩] }
theorem wit_StoresAcrossTheEdge :
    ((edge.th 0).pend = ⟨hostBase, [1], false⟩ :: [⟨2 ^ 40, [2], true⟩] ∧ isHost hostBase = true) ∧
    (let s := me edge fun t => { t with pend := t.pend.tail }
     (s.th 0).pend = ⟨2 ^ 40, [2], true⟩ :: [] ∧ isHost (2 ^ 40) = false ∧ (liveLink s).isSome = true) ∧
    ((edge.th 0).sent = ⟨2 ^ 40 + 8, [3], false⟩ :: [] ∧ sentTo (some (packageOf (2 ^ 40 + 8))) ⟨2 ^ 40 + 8, [3], false⟩ = true) ∧
    (let ls := linesOf 0x13E 4
     hasMemory 0x13E = true ∧ linesFree edge none ls = true) ∧
    (0xBFFFFFFFFF + [(1 : Byte)].length ≤ 0xC000000000 ∧ soloHolds b0 none (linesOf 0xBFFFFFFFFF 1) = false ∧
      heldAbroad b0 (linesOf 0xBFFFFFFFFF 1) = []) ∧
    (b0.mem.wf = true ∧ soloHolds b0 none [hostBase / 64] = false) ∧
    (isRemote b0 (64 * 2 ^ 34) = true ∧ soloHolds b0 none (blockLines (2 ^ 34 / 8)) = false ∧ isRemote b0 (64 * 2 ^ 33) = false) := by decide +kernel
/-- A core of the launch of log 9 with its slots empty, one index thread of four started, two tasks in the pack. -/
def task0 : Task := ⟨0x40, ⟨9, true⟩, ⟨0, 0, 0x500⟩, 2, 0⟩
def idler : State :=
  let s := tabled b0
  { s with
    slots := Bank.fill _ _ Slot.vacant
    core := { s.core with launch := some { placedLaunch with sh := { placedLaunch.sh with hi := 4 } }, pack := [task0, task0] } }
def noPack (s : State) : State := { s with core := { s.core with pack := [] } }
def frozen (s : State) (n : Nat) : State :=
  { s with core := { s.core with pack := List.replicate 64 task0, priv := { s.core.priv with packFrozen := true, packBlocks := n, packspill := 0xFFFF } } }
theorem wit_LaunchesAndTasks_task : (idler.core.launch).isSome = true ∧ slotFree idler 0 = true ∧ settlers idler = [] ∧
    resumedImage idler = none ∧ packItem idler = some (task0, [task0]) := by decide +kernel
theorem wit_LaunchesAndTasks_index : slotFree (noPack idler) 0 = true ∧ settlers (noPack idler) = [] ∧
    resumedImage (noPack idler) = none ∧ packItem (noPack idler) = none ∧ packAway (noPack idler) = false ∧ (1 : Nat) < 4 := by decide +kernel
/-- A core of this cluster whose hint bit is clear, one that has the entry, one of another launch nearer by number. -/
def around : List Sys2Proof.Victim := [⟨5, false, 1, some task0⟩, ⟨7, true, 1, some task0⟩, ⟨6, true, 2, some task0⟩]
theorem wit_LaunchesAndTasks_stolen : let l : CoreLaunch := { placedLaunch with next := 1 }
    let s : State := { noPack idler with core := { (noPack idler).core with launch := some l } }
    s.core.launch = some l ∧ l.sh.hi ≤ l.next ∧ slotFree s 0 = true ∧ l.stopped = false ∧ settlers s = [] ∧ resumedImage s = none ∧
      packItem s = none ∧ packAway s = false ∧ (search s.core.id 1 around [0, 1, 2, 3] s.core.tried).1 = some (7, task0) := by decide +kernel
/-- The last entry but one of a pack is given; another launch's thief and one too far away get nothing. -/
theorem wit_LaunchesAndTasks_thief : (placedLaunch.sh.info.seq = 1 ∧ hintBit idler (unitLevel 7 idler.core.id) = true ∧ idler.core.pack.length ≠ 1) ∧
    hintBit idler (unitLevel 0x3000 idler.core.id) = false := by decide +kernel
theorem wit_LaunchesAndTasks_push : let s : State := { idler with core := { idler.core with pack := List.replicate 63 task0 } }
    s.core.priv.packFrozen = false ∧ s.core.pack.length < 64 ∧ ∃ a, homeOf s task0.join = .at_ a :=
  ⟨by decide +kernel, by decide +kernel, hok (by decide +kernel)⟩
theorem wit_LaunchesAndTasks_readback : let s0 := noPack idler
    let s : State := { s0 with core := { s0.core with priv := { s0.core.priv with packBlocks := 1, packspill := 0xFFFF } } }
    s.core.priv.packFrozen = false ∧ s.core.pack = [] ∧ s.core.priv.packBlocks ≠ 0 ∧
      ∃ as, devAddrs s 0 [permR] (vaOf (packReach s) (packOff s (s.core.priv.packBlocks - 1))) 1024 = .ok as :=
  ⟨by decide +kernel, by decide +kernel, by decide +kernel, xok (by decide +kernel)⟩
theorem wit_LaunchesAndTasks_spill : let s := frozen idler 62
    s.core.priv.packFrozen = true ∧ s.core.pack.length = 64 ∧ s.core.priv.packBlocks < s.core.priv.packLimit.toNat ∧
      ∃ as, devAddrs (s.modPriv fun p => { p with packFrozen := false }) 0 [permW] (vaOf (packReach s) (packOff s s.core.priv.packBlocks)) 1024 =
        .ok as :=
  ⟨by decide +kernel, by decide +kernel, by decide +kernel, xok (by decide +kernel)⟩
theorem wit_LaunchesAndTasks_take : let sh : Share := ⟨{ placedInfo with rings := [⟨3, 1, 2, 4, 0x40⟩] }, 0, 0, 1⟩
    let s : State := { b0 with core := { b0.core with launch := some { placedLaunch with reported := true }, waiting := some sh } }
    mayTake { s with slots := Bank.fill _ _ Slot.vacant } = true ∧
      (∀ e ∈ sh.info.rings, ∀ e' ∈ sh.info.rings, e'.ring = e.ring → e' = e) ∧ s.cl.launch ≠ some 2 := by decide +kernel

/-- The join word at 0x500 of b0's range. -/
def joinAt (w : Nat) : State :=
  let s := tabled b0
  { s with mem := s.mem.store 0x500 (leBytes 8 w) false }
def join0 : WordRef := ⟨0, 0, 0x500⟩
/-- Slot 0 arrives at counter 3, armed or not, with n arrivals. -/
def atBar (k : Option Nat) (n : Nat) : State :=
  let s := parked b0 (.barc 3 4 false)
  { s with cl := { s.cl with bars := s.cl.bars.set 3 ⟨k, n⟩ } }
/-- The launch of b0 in its partition's table. -/
def launch0 : Launch := ⟨1, 0x400, .fanned, 0, 0, 0, 0, 0, 0, 0, 0, 0, 0, true, [], [], 1, 4, 0, 0, true, false, false, false, false, 2, 1, 0,
  [], 1, 0, false⟩
def listed (s : State) (l : Launch) : State := { s with part := { s.part with cfg := some cfg0, launches := [l] } }
theorem wit_JoinsAndBarriers_end : homeOf (joinAt 2) join0 = .at_ 0x500 ∧ (joinAt 2).mem.nat 0x500 8 % 2 ^ 32 ≠ 1 :=
  by decide +kernel
theorem wit_JoinsAndBarriers_last : let s := joinAt 0x8000000500000001
    homeOf s join0 = .at_ 0x500 ∧ s.mem.nat 0x500 8 % 2 ^ 32 = 1 ∧ 2 ^ 63 ≤ s.mem.nat 0x500 8 :=
  by decide +kernel
theorem wit_JoinsAndBarriers_zero : let s := parked (joinAt 0x100000000) (.join join0 16)
    (s.th 0).park = some (.join join0 16) ∧ homeOf s join0 = .at_ 0x500 ∧ s.mem.nat 0x500 8 % 2 ^ 32 = 0 :=
  by decide +kernel
theorem wit_JoinsAndBarriers_leave : let s := bedded (parked (joinAt 0x7FFFFFFFFFFFFFFF) (.join join0 16))
    (s.th 0).park = some (.join join0 16) ∧ homeOf s join0 = .at_ 0x500 ∧ s.mem.nat 0x500 8 % 2 ^ 32 ≠ 0 ∧ s.mem.nat 0x500 8 < 2 ^ 63 ∧
      mayLeave s 0 = true ∧ (freeRun s (framesFor (s.allot 0))).isSome = true :=
  by decide +kernel
theorem wit_JoinsAndBarriers_barc : ((atBar none 0).slot 0).occ = true ∧ ((atBar none 0).th 0).park = some (.barc 3 4 false) ∧
    ([(none, 0), (some 4, 2)].all (fun x => let b := barOf (atBar x.1 x.2) 3
      decide ((b.armed = none ∨ b.armed = some 4) ∧ b.arrived + 1 < 4)) = true) ∧
    ((barOf (atBar (some 4) 3) 3).armed = some 4 ∧ 4 ≤ (barOf (atBar (some 4) 3) 3).arrived + 1) ∧
    (barOf (atBar (some 5) 1) 3).armed = some 5 ∧ (5 : Nat) ≠ 4 := by decide +kernel
theorem wit_JoinsAndBarriers_barg : (listed b0 launch0).core.launch = some placedLaunch ∧
    findLaunch (listed b0 launch0) placedLaunch.sh.info.seq = some launch0 ∧
    launch0.bargAt + 0 + launch0.bargOut < launch0.total ∧ launch0.total ≤ launch0.bargAt + 1 + launch0.bargOut := by decide +kernel

def hiker0 : Hiker := ⟨0x40, Bank.fill _ _ ⟨3, true⟩, Bank.fill _ _ 0, 2, 2, 0, 0, 0, false, true, 8, none⟩
def arriving : State := { b0 with core := { b0.core with arrivals := [⟨0, { hiker0 with reply := true, src := 9 }, false⟩] } }
/-- n request entries are held, tickets from a to b wait. -/
def crowded (n : Nat) (a b : BitVec 16) (kept : Bool) : State :=
  { b0 with core := { b0.core with ticketsO := ⟨b, a, List.replicate n 7, kept⟩ } }
theorem wit_HikersGuestsAndCredits :
    (b0.core.sealed = false ∧ hikerOf (hikerMsg hiker0) = hiker0 ∧ hikerResv (hikerMsg hiker0).bytes = false ∧
      hikerResv (List.replicate 191 0 ++ [1]) = true) ∧ ({ b0 with core := { b0.core with sealed := true } } : State).core.sealed = true ∧
    hiker0.src ≠ b0.core.id ∧ (guestFree arriving 12 = true ∧ (nextArrival arriving).isSome = true) ∧
    (let s : State := { (guest.setSlot 0 Slot.vacant).modTh 12 (fun t => { t with park := some .settle }) with ctl := b0.ctl }
     s.core.launch = some placedLaunch ∧ slotFree s 0 = true ∧ placedLaunch.stopped = false ∧ placedLaunch.started = true ∧
      (settlers s).find? (settleReady s) = some 12) ∧
    (let s := crowded 21 5 5 false
     (ticketsOf s false).next = (ticketsOf s false).serve ∧ entryFree s false = true ∧ s.core.sealed = false ∧ (7 : CoreId) ∉ s.core.creditFault ∧
      (7 : CoreId) ≠ s.core.id) ∧
    entryFree (crowded 22 5 5 false) false = false ∧
    (let s := crowded 21 5 6 true
     waits (ticketsOf s false) 5 = true ∧ (ticketsOf s false).serve = 5 ∧ (ticketsOf s false).reserved = true) ∧
    (creditOf sender 5 false).held ≠ 0 ∧ (5 : CoreId) ≠ sender.core.id ∧ guestsStarved (guest.modTh 12 fun t => { t with park := some (.credit 7 true) }) = true ∧
    (b0.core.credSync = none ∧ ((ticketsOf (crowded 2 0 0 false) false).promised.filter (· = (7 : CoreId))).length = 2 ∧
      (creditOf b0 7 false).held = 0 ∧ (creditOf b0 7 true).held = 0 ∧
      b0.core.arrivals.length = 0) := by decide +kernel
/-- Packet 3 of slot 0 is owed a token; the matrix queue holds a command of it. -/
def token3 : FarRef := ⟨0, 3, 0⟩
def owedTo (s : State) : State := me s fun t => { t with far := [owed 3 .none none] }
def queued (op : MOp) (s : State := tabled b0) (w : Option Nat := none) : State :=
  { owedTo s with core := { s.core with mq := [⟨op, 0, .slot 0, 0, 0, false, 0x40, w⟩] } }
/-- The tile at the last 4,096 bytes of the pad. -/
def tile0 : WordRef := ⟨0, 0xFFFF, 0x7F000⟩
/-- Rings 3 and 4 of tiles in window 0, the window's format given. -/
def tileRings (f : BitVec 4) : State :=
  let g (r : Nat) : Ring := ⟨true, 0, 0x1000 * r, 2, 1, strideOf (WFmt.ofCode 0) 2, 0, 1, 0, 0, false, false, false, [], [], none⟩
  let s := setRing (setRing (tabled b0) 3 (g 0)) 4 (g 1)
  { s with cl := { s.cl with wfmt := s.cl.wfmt.set 0 f } }
theorem wit_MatrixUnitAtWork_clear : mqStands (queued (.mzero 1)) = false ∧ (queued (.mzero 1)).core.mq.map (·.wait) = [none] ∧
    ((queued (.mzero 1) (tabled b0) (some 7)).core.mq.map (·.wait) = [some 7] ∧ mqStands (queued (.mzero 1) (tabled b0) (some 7)) = false) ∧
    ({ queued (.mzero 1) with core := { (queued (.mzero 1)).core with mqHalted := true } } : State).core.mqHalted = true := by decide +kernel
theorem devAddrs_ok {s : State} {sp : BitVec 16} {ps : List Nat} : ∀ (n va : Nat), (∀ k, k < n → ∃ a f, devByte s sp (va + k) ps = .ok a f) →
    ∃ as, devAddrs s sp ps va n = .ok as
  | 0, va, _ => ⟨[], by simp [devAddrs]⟩
  | n + 1, va, e => by
    obtain ⟨a, f, h0⟩ := e 0 (by omega)
    obtain ⟨as, h1⟩ := devAddrs_ok n (va + 1) (fun k hk => by
      obtain ⟨a, f, h⟩ := e (k + 1) (by omega)
      exact ⟨a, f, by rw [← h]; congr 1; omega⟩)
    simp only [Nat.add_zero] at h0
    exact ⟨a :: as, by simp [devAddrs, h0, h1]⟩
def byteB : BRes → Bool
  | .ok _ _ => true
  | _ => false
theorem byte_ok {x : BRes} (e : byteB x = true) : ∃ a f, x = .ok a f := by
  cases x with
  | ok a f => exact ⟨a, f, rfl⟩
  | _ => cases e
/-- Every byte of rows of 64 translates. -/
theorem rows_ok {s : State} {sp : BitVec 16} {ps : List Nat} {va n : Nat}
    (e : ∀ i, i < n → ∀ j, j < 64 → byteB (devByte s sp (va + (64 * i + j)) ps) = true) : ∃ as, devAddrs s sp ps va (64 * n) = .ok as := by
  refine devAddrs_ok (64 * n) va fun k hk => byte_ok ?_
  have := e (k / 64) (by omega) (k % 64) (by omega)
  rwa [show 64 * (k / 64) + k % 64 = k by omega] at this
def spanB : DSpan → Bool
  | .ok _ => true
  | _ => false
theorem tile_ok {s : State} {r : WordRef} {ps : List Nat} (q : invalPending s r.space = false)
    (p : spanB (devSpan s r.space ps r.va 4096) = true)
    (e : ∀ i, i < 64 → ∀ j, j < 64 → byteB (devByte s r.space (r.va + (64 * i + j)) ps) = true) : ∃ as, tileHome s r ps = .ok as := by
  have h : ∃ as, devAddrs s r.space ps r.va 4096 = .ok as := rows_ok (n := 64) e
  unfold tileHome
  generalize devAddrs s r.space ps r.va 4096 = x at h
  generalize devSpan s r.space ps r.va 4096 = y at p
  rw [if_neg (by simp [q])]
  split
  · exact h
  · cases y with
    | ok b => exact h
    | wait => cases p
    | bad => cases p
theorem wit_MatrixUnitAtWork_fill : ∃ as, tileHome (queued (.mfill 0 tile0)) tile0 [permR] = .ok as := tile_ok (by decide +kernel) (by decide +kernel) (by decide +kernel)
theorem wit_MatrixUnitAtWork_drain : let s := queued (.mdrain 1 tile0 token3)
    ((s.slot 0).occ = true ∧ ∃ x ∈ (s.th 0).far, x.seq = 3 ∧ x.inc = 0) ∧ (getTile s 1).valid = false ∧
      (getTile (setTile s 1 ⟨7, 1, true⟩) 1).valid = true ∧ ∃ as, tileHome s tile0 [permW] = .ok as :=
  ⟨by decide +kernel, by decide +kernel, by decide +kernel, tile_ok (by decide +kernel) (by decide +kernel) (by decide +kernel)⟩
theorem wit_MatrixUnitAtWork_mma : let s := queued (.mma 0 3 4 2 1) (tileRings 0)
    (3 : RingN) ≠ 4 ∧ (getRing s 3).occ ≠ 0 ∧ (getRing s 4).occ ≠ 0 ∧ (∃ f, tileFmt s (getRing s 3) = some f) ∧
      (∃ f, tileFmt s (getRing s 4) = some f) ∧ tileFmt (queued (.mma 0 3 4 2 1) (tileRings 15)) (getRing s 3) = none :=
  ⟨by decide, by decide +kernel, by decide +kernel, sok (by decide +kernel), sok (by decide +kernel), by decide +kernel⟩

/-- A COPY of rl · rows bytes from 0 to 0x8000, n bytes done; the marks that it waits at. -/
def copy0 (n rl rows : Nat) (check paused : Bool) : EngCmd :=
  ⟨.copy ⟨0, 0, 0⟩ ⟨0, 0, 0x8000⟩ none none (rl * rows), token3, n, false, check, paused, some (rl, rows, 0, 0), (0, 0x8000), [], none, 0, false⟩
def engine (c : EngCmd) : State := let s := owedTo (tabled b0); { s with cl := { s.cl with engq := [c] } }
theorem wit_EnginesAtWork_pause : let s := engine (copy0 0 16 1 true false)
    let t : State := { s with pkg := { s.pkg with invals := [0] } }
    t.cl.engq = [copy0 0 16 1 true false] ∧ engFrozen t = false ∧ invalPending t 0 = true ∧ invalPending s 0 = false := by decide +kernel
theorem wit_EnginesAtWork_check : (∃ a, engValid (engine (copy0 0 16 1 true false)) (copy0 0 16 1 true false) false = .ok a) ∧
    engValid (engine (copy0 0 0x8008 1 true false)) (copy0 0 0x8008 1 true false) false = .bad ∧
    (∃ a, engValid (engine (copy0 0 16 1 true true)) (copy0 0 16 1 true true).anchored true = .ok a) ∧
    engValid (engine (copy0 0 0x8008 1 true true)) (copy0 0 0x8008 1 true true).anchored true = .bad :=
  ⟨dok (by decide +kernel), by decide +kernel, dok (by decide +kernel), by decide +kernel⟩
/-- The last word, and one before. -/
theorem wit_EnginesAtWork_copy : let s := engine (copy0 8 16 1 false false)
    s.cl.engq = [copy0 8 16 1 false false] ∧ s.cl.units = [] ∧ engFrozen s = false ∧ (copy0 8 16 1 false false).done + 8 = 16 * 1 ∧
      (copy0 0 16 1 false false).done + 8 ≠ 16 * 1 ∧ devByte s 0 (rowVa ⟨0, 0, 0⟩ 0 0 8) [permR, permE] = .ok 8 true ∧
      devByte s 0 (rowVa ⟨0, 0, 0x8000⟩ 0 0 8) [permW, permE] = .ok 0x8008 true ∧ 0x8008 / 64 ∉ s.pkg.hostLines ∧
      ∀ z ∈ s.pkg.remoteCopies, z.2.1 ≠ 0x8008 / 64 / 8 := by decide +kernel
def unit0 : State := let s := tabled b0
                     { s with cl := { s.cl with units := [.pad ⟨8, 0⟩ 0x40 [1, 2, 3, 4, 5, 6, 7, 8] [false]] } }
theorem wit_EnginesAtWork_unit : unit0.cl.units = [.pad ⟨8, 0⟩ 0x40 [1, 2, 3, 4, 5, 6, 7, 8] [false]] ∧
    padFirstBad unit0 0 [permW] 0x40 8 = none ∧ copiesGone unit0 [padLoc unit0 0x40 / 64] = true := by decide +kernel
theorem wit_EnginesAtWork_walker : let s := owedTo (tabled b0)
    ((s.slot 0).occ = true ∧ ∃ x ∈ (s.th 0).far, x.seq = 3 ∧ x.inc = 0) ∧ invalPending s 0 = false ∧ storesOut s ⟨0, 0, 0xFFC0⟩ 64 = false ∧
      storesOut (me s fun t => { t with pend := [⟨0xFFC0, [1], false⟩] }) ⟨0, 0, 0xFFC0⟩ 64 = true ∧
      devSpan s 0 [permR] (WordRef.va ⟨0, 0, 0xFFC0⟩) 64 = .ok 0 ∧ devSpan s 0 [permR] (WordRef.va ⟨0, 0, 0xFFC0⟩) 65 = .bad := by decide +kernel
theorem wit_EnginesAtWork_fill : let s := tabled stashed
    (∃ sp, spanAt s (64 * 0x1F) = some sp) ∧ ((spanAt s (64 * 0x1F)).map fun sp => invalPending s sp.global.space) = some false ∧
      ((spanAt s (64 * 0x1F)).map fun sp => memByte s sp.global.space (sp.behind (64 * 0x1F)) [permR]) = some (.ok 0x7C0 true) :=
  ⟨sok (by decide +kernel), by decide +kernel⟩
theorem wit_EnginesAtWork_fetch : let s := me (ringed 1 128) fun t => { t with binds := t.binds.set 2 { Binding.idle with kind := .pop 3 } }
    canFetch s 0 2 = true ∧ ((s.th 0).binds.get 2).kind = .pop 3 := by decide +kernel
theorem wit_EnginesAtWork_define : let s := ringed 0 8 fun g => { g with pendDef := some (0x78000, 0xC00) }
    (getRing s 3).pendDef = some (0x78000, 0xC00) ∧ (getRing s 3).resvPush = 0 ∧ (getRing s 3).resvPop = 0 := by decide +kernel
theorem wit_EnginesAtWork_reset : let s := engine (copy0 0 16 1 false false)
    let t : State := { owedTo b0 with agenda := [.walkerRun (.flush token3 ⟨0, 0, 0⟩ 64)] }
    s.cl.engq = [copy0 0 16 1 false false] ∧ walkCmds t.agenda = [.flush token3 ⟨0, 0, 0⟩ 64] ∧
      ∀ u ∈ [s, t], (u.slot 0).occ = true ∧ ∃ x ∈ (u.th 0).far, x.seq = 3 ∧ x.inc = 0 := by decide +kernel
/-! Witnesses: ranges. -/

/-- A command of slot 0's packet 3 whose block stands at 0x1000 of the pad. -/
def cmd0 (op : RangeOp) : RangeCmd := ⟨op, some token3, ⟨0, 0xFFFF, 0x1000⟩, 0⟩
/-- The table of space 0 with the given ranges, and a command on va, limit, phys whose PERM and ATTR are 0x1F and 1. -/
def tableIn (s : State) (ds : List RangeDesc) : State :=
  let m := (s.mem.store 0x2000 (leBytes 8 0x3000) false).store 0x2008 (leBytes 4 ds.length) false
  { s with
    mem := ((List.range ds.length).zip ds).foldl (fun m x => putDesc m (0x3000 + 64 * x.1) x.2) m
    part := { s.part with cfg := some cfg0 } }
def jobIn (s : State) (op : RangeOp) (va limit phys : Nat) : State :=
  let m := ((s.mem.store (padBase + 0x1000) (leBytes 8 va) false).store (padBase + 0x1008) (leBytes 8 limit) false).store (padBase + 0x1018) (leBytes 8 phys) false
  { owedTo s with mem := m.store (padBase + 0x1020) [0x1F, 1] false, pkg := { s.pkg with rjobs := [⟨cmd0 op, .new⟩] } }
def job (op : RangeOp) (va limit phys : Nat) (ds : List RangeDesc := [placedRange]) : State := jobIn (tableIn b0 ds) op va limit phys
def blockB : RRead → Option RBlock
  | .ok b => some b
  | _ => none
def tableB : TabRead → Option RTable
  | .ok t => some t
  | _ => none
/-- What the clauses on a new command ask, and on one that has taken LOCK, with the range found. -/
def begins (s : State) (op : RangeOp) (f : RBlock → RTable → Option (Nat × RangeDesc) → Bool) : Bool :=
  decide (firstJob s (cmd0 op) = some ⟨cmd0 op, .new⟩) && (dirEntry s 0).isSome && (tableB (tableOf s 0)).isSome &&
    (match blockB (readBlock s ⟨0, 0xFFFF, 0x1000⟩ op) with
    | some b =>
      let u : State := { s with pkg := { s.pkg with rjobs := [⟨cmd0 op, .locked b⟩] } }
      decide (firstJob u (cmd0 op) = some ⟨cmd0 op, .locked b⟩) &&
        (match tableNow u 0 with | some t => f b t (rangeAt u t b.va) | none => false)
    | none => false)
def someIs (o : Option (Nat × RangeDesc)) (f : RangeDesc → Bool) : Bool := match o with
  | some x => f x.2
  | none => false
theorem wit_RangesChange_walk : let s := tabled b0
    (∃ d, rcFind [⟨0, placedRange⟩] 0 0xFFFF = some d) ∧ rcFind s.cl.rcache 0 0xFFFF = none ∧
      placedRange.base ≤ 0xFFFF ∧ 0xFFFF < placedRange.limit := ⟨sok (by decide +kernel), by decide +kernel⟩
theorem wit_RangesChange_rload : begins (job .rload 0x10000 0 0) .rload (fun _ _ o => o.isNone) = true ∧
    begins (job .rload 0xFF00 0 0) .rload (fun _ _ o => o.isSome) = true := by decide +kernel
theorem wit_RangesChange_rinval : begins (job .rinval 0x100 0x100 0) .rinval (fun b _ _ => decide (b.limit ≤ b.va)) = true ∧
    begins (job .rinval 0x100 0x200 0) .rinval (fun b _ _ => decide (b.va < b.limit)) = true := by decide +kernel
theorem wit_RangesChange_rsplit : begins (job .rsplit 0x10000 0 0) .rsplit (fun _ _ o => o.isNone) = true ∧
    begins (job .rsplit 0 0 0) .rsplit (fun b _ o => someIs o fun q => decide (b.va = q.base)) = true ∧
    begins (job .rsplit 0xFF00 0 0) .rsplit (fun b t o => decide (t.count < 2 ^ 20) &&
      someIs o fun q => decide (b.va ≠ q.base) && !splitBad b q) = true := by decide +kernel
/-- A table of 2^20 ranges, of which the last alone stands. -/
def fullTable : State :=
  let s := tableIn b0 []
  jobIn { s with mem := putDesc (s.mem.store 0x2008 (leBytes 4 0x100000) false) (0x3000 + 64 * 0xFFFFF) placedRange } .rsplit 0xFF00 0 0
theorem wit_RangesChange_full : begins fullTable .rsplit (fun b t o => decide (2 ^ 20 ≤ t.count) &&
    someIs o fun q => decide (b.va ≠ q.base) && !splitBad b q) = true := by decide +kernel
def merges (f : RBlock → RangeDesc → RangeDesc → Bool) (ds : List RangeDesc) : Bool :=
  let s := job .rmerge 0x8000 0 0 ds
  begins s .rmerge fun b t o => someIs (rangeAt s t (b.va - 1)) fun lo => someIs o fun hi => f b lo hi
def lower : RangeDesc := { placedRange with limit := 0x8000, wmark := 0x8000 }
def upper : RangeDesc := { placedRange with base := 0x8000, phys := 0x8000 }
theorem wit_RangesChange_rmerge : merges (fun b lo _ => decide (lo.limit ≠ b.va)) [placedRange] = true ∧
    merges (fun b lo hi => decide (lo.limit = b.va ∧ hi.base = b.va ∧ lo.perm = hi.perm ∧ lo.attr = hi.attr ∧ lo.wmark = lo.limit ∧
      hi.phys = lo.phys + (b.va - lo.base))) [lower, upper] = true ∧
    merges (fun b lo hi => decide (lo.limit = b.va ∧ hi.base = b.va ∧ lo.perm ≠ hi.perm)) [lower, { upper with perm := 1 }] = true := by
  decide +kernel
def grows (va : Nat) (f : RBlock → Option (Nat × RangeDesc) → Bool) (d : RangeDesc) : Bool :=
  let s := job .rgrow va 0 0 [d]
  begins s .rgrow fun b t _ => f b (rangeAt s t (b.va - 1))
theorem wit_RangesChange_rgrow : grows 0x10100 (fun _ o => o.isNone) placedRange = true ∧
    grows 0x10000 (fun b o => someIs o fun q => decide (q.base < b.va ∧ b.va ≤ q.wmark)) placedRange = true ∧
    grows 0x10000 (fun b o => someIs o fun q => decide (q.base < b.va ∧ q.wmark < b.va)) { placedRange with wmark := 0x8000 } = true := by decide +kernel
theorem wit_RangesChange_rcompact : begins (job .rcompact 0x10000 0 0x20000) .rcompact (fun _ _ o => o.isNone) = true ∧
    begins (job .rcompact 0 0 0xC000000000) .rcompact (fun b _ o => someIs o fun q => !physOk 0 q b.phys) = true ∧
    begins (job .rcompact 0 0 0x20000) .rcompact (fun b _ o => someIs o fun q => decide (q.place ≠ 2) && physOk 0 q b.phys) = true := by
  decide +kernel
/-- The phases that follow, with a range of 512 bytes compacted up to a mark. -/
def phase (p : RPhase) (mark : Nat) : State :=
  let s := job .rcompact 0 0 0x20000 [⟨0, 0x10000, 0x200, 0, 0x1F, 0xC1, 0x20000, mark⟩]
  { s with pkg := { s.pkg with rjobs := [⟨cmd0 .rcompact, p⟩] } }
/-- The command block that RCOMPACT carries on. -/
def block0 : RBlock := ⟨0, 0, 0, 0x20000, 0x1F, 1⟩
theorem wit_RangesChange_over : [none, some block0].all (fun b => let p : RPhase := .inval [(0, 0x10000)] 0 0 b
    invalOver (phase p 0) 0 [(0, 0x10000)] && decide (firstJob (phase p 0) (cmd0 .rcompact) = some ⟨cmd0 .rcompact, p⟩)) = true ∧
    invalOver (me (phase .new 0) fun t => { t with pend := [⟨0, [1], false⟩] }) 0 [(0, 0x10000)] = false := by
  decide +kernel
def copies (mark : Nat) (f : RangeDesc → Bool) : Bool :=
  [false, true].all fun l =>
    let s := phase (.copy block0 l) mark
    decide (firstJob s (cmd0 .rcompact) = some ⟨cmd0 .rcompact, .copy block0 l⟩) && (tableB (tableOf s 0)).isSome &&
      (match tableNow s 0 with
      | some t => (match compacting s t block0 with | some x => f x.2 && copyReady s (cmd0 .rcompact) x.2 | none => false)
      | none => false)
theorem wit_RangesChange_copy : copies 0x200 (fun q => decide (q.wmark ≤ q.mark)) = true ∧
    copies 0x100 (fun q => decide (q.mark < q.wmark)) = true := by decide +kernel
/-! Witnesses: the ranger's work, containment. -/

/-- The ranger free in slot 15, its vector entry for cause n at 0x200 + 8 n. -/
def dispatch (f : Priv → Priv) (evs : List EventRec) : State :=
  let s0 := tabled rgS
  let s : State := { s0 with mem := s0.mem.store 0x300 (leBytes 8 0x5000) false }
  { s with core := { s.core with events := evs, priv := f { s.core.priv with handling := false, vtab := 0x200 } } }
def event0 : EventRec := ⟨0x16, 15, 3, 4⟩
/-- Item and vector entry of a state that dispatches. -/
def dispatches (s : State) (f : Item → Bool) : Bool :=
  rangerFree s && (match pendingItem s with
    | some x => f x && (match devAddrs s (s.th 15).space [permX] (vaOf (s.th 15).creach (s.core.priv.vtab + BitVec.ofNat 64 (8 * itemCause x))) 8 with
      | .ok as => !s.mem.gatherP as
      | _ => false)
    | none => false)
def isIrq : Item → Bool
  | .irq _ => true
  | _ => false
def isTrap : Item → Bool
  | .trap _ _ => true
  | _ => false
def isEvent : Item → Bool
  | .event _ => true
  | _ => false
theorem wit_TheRangersWork_events : (List.replicate 63 event0).length < 64 ∧ 64 ≤ (List.replicate 64 event0).length := by decide +kernel
theorem wit_TheRangersWork_irq : dispatches (dispatch (fun p => { p with irqpend := 0x10, irqmask := 0x1F }) []) isIrq = true := by decide +kernel
theorem wit_TheRangersWork_event : dispatches (dispatch id [event0]) isEvent = true := by decide +kernel
theorem wit_TheRangersWork_trap :
    dispatches ((dispatch id []).setSlot 0 { rgS.slot 0 with trap := some ⟨⟨1, 0, 0⟩, 0x40, 0, 0x40, true⟩ }) isTrap = true := by decide +kernel
theorem wit_TheRangersWork_trappc : (rgT.slot (fin16 (rgT.core.priv.cause.extractLsb' 8 4).toNat)).trap.isSome = true ∧
    fin16 (rgT.core.priv.cause.extractLsb' 8 4).toNat ≠ 15 := by decide +kernel
theorem wit_TheRangersWork_treg : let sel (n : BitVec 9) : State := { rgT with core := { rgT.core with priv := { rgT.core.priv with tsel := n } } }
    (match tregOf (sel 0x1F0) with | .reg j r => decide (j = 0 ∧ r = 31) | _ => false) = true ∧
      (match tregOf (sel 0) with | .none => true | _ => false) = true := by decide +kernel
/-- A thread outside a region, and one in a region. -/
theorem wit_TheRangersWork_stop : ∀ s ∈ [b0, inRegion], let t := s.setSlot 0 { s.slot 0 with stop := true }
    (1 : BitVec 15).getLsbD 0 = true ∧ (t.slot 0).stop = true ∧ (t.slot 0).stopped = false ∧ (t.slot 0).occ = true ∧
      (t.slot 0).trap = none ∧ (t.th 0).park = none ∧ (t.th 0).sync = none ∧ (t.slot 0).halting = false ∧ (t.th 0).late = none ∧ (t.th 0).await = none := by
  decide +kernel
theorem wit_TheRangersWork_kill : let t := b0.setSlot 0 { b0.slot 0 with stop := true, halting := true }
    (t.slot 0).occ = true ∧ (t.slot 0).halting = true ∧ (t.slot 0).trap = none ∧ (t.th 0).flight = [] := by decide +kernel
/-- A waiter of slot 0 in its image. -/
def saved0 (f : Thread → Thread) (o : List (FarEntry × List Nat)) : Image :=
  ⟨7, (List.range 80).map fun k => 0x10000 + 64 * k, some 0, 5, 0, f b0.me, 32, false, o, true⟩
theorem wit_TheRangersWork_resume : let s : State := { b0 with core := { b0.core with images := [saved0 id []] } }
    rgT.agenda.any (fun e => match e with | .killApply j => decide (j = 0) | _ => false) = false ∧ rgT.core.contained = false ∧
      (rgT.slot 0).trap.isSome = true ∧ (s.slot 0).trap = none ∧ (waiterOf s 0).isSome = true ∧ s.agenda = [] := by decide +kernel
theorem wit_TheRangersWork_arrival : let e := owed 3 (.scalar 5) (some (.scalar ⟨9, false⟩ none))
    let m := saved0 id [(e, [7])]
    let s : State := { b0 with core := { b0.core with images := [m] } }
    s.core.images.find? (fun y => y.id = m.id) = some m ∧ m.owed.find? (fun y => y.1.seq = e.seq) = some (e, [7]) ∧ s.mem.wf = true ∧
      ∀ k, k < 16 → m.lines.getD k 0 = 64 * (0x400 + k) := by decide +kernel

theorem wit_ErrorsAndContainment : hasMemory 0xC000000000 = false ∧ hasMemory 0xBFFFFFFFFF = true ∧ b0.mem.wf = true ∧ b0.core.contained = false ∧
    ({ b0 with core := { b0.core with contained := true } } : State).core.contained = true ∧ b0.part.contained = false ∧
    (listed b0 launch0).part.cfg = some cfg0 ∧ b0.part.cfg = none := by decide +kernel

/-! Witnesses: the launch port. -/

/-- A port whose journal of 8 entries has n used, m launches waiting. -/
def port (n m : Nat) : State :=
  let s := tabled b0
  { s with
    part := { s.part with
      jhead := n, launches := List.replicate m { launch0 with seq := 9, st := .queued, resv := 0 }, cfg := some { cfg0 with jlog := 3 } } }
theorem wit_LaunchesQueued_refused : portOpen (port 5 0) = some { cfg0 with jlog := 3 } ∧ jRoom (port 5 0) 4 = false ∧ jRoom (port 5 0) 1 = true ∧
    jRoom (port 8 0) 1 = false ∧ 64 ≤ queuedCount (port 0 64) ∧ (0x480 : Word).toNat % 256 ≠ 0 ∧
    devSpan (port 0 0) 0 [permR] (vaOf 0 0xFF80) 256 = .bad := by decide +kernel
/-- The last packet of the mapped range, the last free place in the queue and the journal. -/
theorem wit_LaunchesQueued_accepted : let s : State :=
    { port 4 63 with part := { (port 4 63).part with cfg := some { cfg0 with jlog := 3, lreach := 0xFFFF } } }
    queuedCount s < 64 ∧ jRoom s 4 = true ∧ devSpan s 0 [permR] (vaOf 0xFFFF 0x7FF00) 256 = .ok 0 ∧
      (∃ as, devAddrs s 0 [permR] (vaOf 0xFFFF 0x7FF00) 256 = .ok as) ∧ ∀ l ∈ s.part.launches, l.seq ≠ s.part.lastSeq + 1 :=
  ⟨by decide +kernel, by decide +kernel, by decide +kernel, rows_ok (n := 4) (by decide +kernel), by decide +kernel⟩
theorem wit_LaunchesQueued_cancel : findLaunch b0 1 = none ∧
    [LState.queued, .chosen, .dispatched, .fanned].all (fun st => decide (findLaunch (listed b0 { launch0 with st := st }) 1 = some { launch0 with st := st })) =
      true ∧ launch0.stopping = false ∧ bestOf [launch0] = some launch0 := by decide +kernel
/-- The credit is missing and every entry of this core's, the TRAIL's, is held: the port takes a ticket. -/
theorem wit_LaunchesQueued_ticket : let l : Launch := { launch0 with st := .chosen }
    let s := listed { b0 with core := { b0.core with arrivals := List.replicate 24 ⟨0, hiker0, true⟩ } } l
    let s : State := { s with part := { s.part with cfg := some { cfg0 with trail := 0 } } }
    chosenLaunch s = some l ∧ s.core.id = 0 ∧ portOpen s = some { cfg0 with trail := 0 } ∧ s.part.contained = false ∧ fanoutIdle s = true ∧
      s.part.portCredit = 0 ∧ s.part.portTicket = none ∧ entryFree s false = false := by decide +kernel
/-- A walk that waits for a LOCK. -/
theorem wit_LaunchesQueued_waits : let s := port 0 0
    let t : State := { s with core := { s.core with rcache := [] }, mem := s.mem.store 0x200C (leBytes 4 (2 ^ 31)) false }
    devSpan t 0 [permR] (vaOf 0 0xFF00) 256 = .wait := by decide +kernel
theorem wit_LaunchesQueued_dispatch : let l : Launch := { launch0 with st := .queued }
    let s : State := { listed b0 l with part := { (listed b0 l).part with portCredit := 1 } }
    portOpen s = some cfg0 ∧ s.part.contained = false ∧ fanoutIdle s = true ∧ l.flags.getLsbD 2 = false ∧ s.part.portCredit ≠ 0 ∧
      ∀ time, bestOf (s.part.launches.filter (eligible time)) = some l :=
  ⟨by decide +kernel, by decide +kernel, by decide +kernel, by decide +kernel, by decide +kernel, fun _ => rfl⟩

/-- A launch of a strict gang, delivered to core 9 and to this one. -/
def gang0 : Launch := { launch0 with flags := 24, gang := 5, shares := [(placedLaunch.sh, 9), ({ placedLaunch.sh with share := 1 }, 0)] }
theorem wit_LaunchesRun_deliver : findLaunch (listed b0 launch0) placedLaunch.sh.info.seq = some launch0 ∧ launch0.st = .fanned ∧
    launch0.stopping = false ∧ b0.core.waiting = none := by decide +kernel
theorem wit_LaunchesRun_gang : gangMembers (listed b0 gang0) 5 0 = [gang0] ∧ findLaunch (listed b0 gang0) gang0.seq = some gang0 := by decide +kernel
theorem wit_LaunchesRun_timed : let l : CoreLaunch := { placedLaunch with started := false }
    let s : State := { b0 with core := { b0.core with launch := some l } }
    l.stopped = false ∧ l.reported = false ∧ gangGo s l.sh.info = true := by decide +kernel
theorem wit_LaunchesRun_finished : let r : ShareReport := ⟨1, 0, 1, 0, []⟩
    let s : State := { listed idler gang0 with core := { (noPack idler).core with launch := some placedLaunch } }
    findLaunch s r.seq = some gang0 ∧ placedLaunch.sh.info.seq = r.seq ∧ placedLaunch.sh.share = r.share ∧ placedLaunch.reported = false ∧
      placedLaunch.stopped = false ∧ shareOver s placedLaunch = true ∧ gang0.flags.getLsbD 0 = false ∧
      gang0.shares.find? (fun y => decide (y.1.share = r.share) && decide (y.2 ≠ s.core.id)) = some (placedLaunch.sh, 9) := by decide +kernel
/-- The completion word at the last word of the mapped range. -/
theorem wit_LaunchesRun_done : let l : Launch := { launch0 with flags := 0x40, donew := 0xFFF8 }
    let s := listed (tabled b0) l
    findLaunch s l.seq = some l ∧ l.st = .fanned ∧ l.shares = [] ∧ launchStoresOut s = true ∧ l.stopping = false ∧ l.flags.getLsbD 6 = true ∧
      memByte s l.space (vaOf l.dreach l.donew) [permW] = .ok 0xFFF8 true ∧ l.donew.toNat % 8 = 0 ∧ l.dreach ≠ 0xFFFF ∧
      isRemote s 0xFFF8 = false ∧ opFree s 15 (doneOp l 0xFFF8) = true := by decide +kernel
/-- The same word in a range of package 1. -/
theorem wit_LaunchesRun_asked : let l : Launch := { launch0 with flags := 0x40, donew := 0xFFF8 }
    let s := listed (tabled { b0 with core := { b0.core with rcache := [] } }) l
    let t : State := { s with mem := putDesc s.mem 0x3000 { placedRange with phys := 2 ^ 40, attr := 0xB1 } }
    memByte t l.space (vaOf l.dreach l.donew) [permW] = .ok (2 ^ 40 + 0xFFF8) true ∧ isRemote t (2 ^ 40 + 0xFFF8) = true ∧
      rangerAsks t = false ∧ portAsks t = false ∧
      ([{ l with st := .closing }].find? fun l => decide (l.st = .closing)) = some { l with st := .closing } := by decide +kernel
theorem wit_LaunchesRun_swap : let s : State := { b0 with
      slots := Bank.fill _ _ { b0.slot 0 with stop := true, stopped := true }, part := { b0.part with swap := .asked } }
    b0.part.swap = .here ∧ s.part.swap = .asked ∧ s.part.shadow = none ∧ allStopped s = true ∧ (s.slot 15).stopped = true ∧
      swapReady s = true ∧ s.mem.wf = true ∧ allStopped { b0 with part := { b0.part with swap := .asked } } = false := by decide +kernel

/-! Witnesses: links, the board, the machine as a whole. -/

/-- The polynomial's published check value, of the digits 1 to 9 in ASCII (R390). -/
theorem test_crc64 : crc64 [0x31, 0x32, 0x33, 0x34, 0x35, 0x36, 0x37, 0x38, 0x39] = 0x6C40DF5F0B497347#64 := by decide +kernel
theorem other_crc (f : Flit) : flitGood { sealFlit f with crc := (sealFlit f).crc + 1 } = false := by
  show decide (crc64 (flitBytes f) + 1 = crc64 (flitBytes f)) = false
  generalize crc64 (flitBytes f) = c
  simp
theorem wit_LinksCarryMessages_flits : let k := getLink b0 17
    let f := sealFlit ⟨0, 1, 0, false, 0, false, [], 0⟩
    flitGood f = true ∧ flitGood { f with crc := f.crc + 1 } = false ∧ k.up = true ∧ f.seq = k.expect ∧ ({ f with seq := 0xFFF } : Flit).seq ≠ k.expect ∧
      k.nakking = false ∧ k.replays < 7 :=
  ⟨sealFlit_good _, other_crc _, by decide +kernel, by simp only [sealFlit]; decide +kernel, by decide +kernel,
    by decide +kernel, by decide +kernel⟩
theorem wit_LinksCarryMessages_retrain : ((0x00FF : BitVec 16).extractLsb' 8 8 = 0) ∧ ((0x0101 : BitVec 16).extractLsb' 0 8 ≠ 0) ∧
    ((0x0101 : BitVec 16).extractLsb' 8 8 ≠ 0) := by decide +kernel
theorem wit_LinksCarryMessages_e2e : let s : State := { b0 with pkg := { b0.pkg with e2eNext := [(1, 0, 4)] } }
    let m (n : Nat) : E2EMsg := ⟨1, 0, n, .store ⟨0x100, [1], false⟩ ⟨0, 0⟩⟩
    expectedFrom s 1 0 = 4 ∧ (m 3).seq < 4 ∧ 4 < (m 5).seq ∧ m 5 ∉ s.pkg.e2eEarly ∧ (m 4).seq = 4 ∧ hasMemory 0xC000000000 = false ∧
      hasMemory 0x100 = true ∧ linesFree s none (linesOf 0x100 1) = true ∧ (liveLink s).isSome = true := by decide +kernel
theorem wit_LinksCarryMessages_gone : [(1 : BitVec 8)].any (pendingTo edge) = true ∧ [(2 : BitVec 8)].any (pendingTo edge) = false := by decide +kernel

/-- The board at a stage of boot. -/
def stage (n : BitVec 8) : State := { b0 with pkg := { b0.pkg with mgmt := { b0.pkg.mgmt with boot := n, config := some cfg0 } } }
theorem wit_TheBoard : b0.pkg.mgmt.busy = false ∧ isDebug 1 = false ∧ isDebug 0x5FC = true ∧ heldHere b0 0 0x5FC = true ∧
    ((0x400 : Nat) ≤ (0x5FC : BitVec 12).toNat ∧ (0x5FC : BitVec 12).toNat % 8 ≠ 0) ∧ (800 : Word).toNat % 50 = 0 ∧ (300 : Word).toNat ≤ 2400 ∧
    (let s : State := { b0 with pkg := { b0.pkg with mgmt := { b0.pkg.mgmt with freqNext := some (200, 65536) } } }
     s.pkg.mgmt.freqNext = some (200, 65536)) ∧
    b0.pkg.mgmt.leaf < 2 ^ 20 ∧ b0.pkg.mgmt.report.length = 4096 ∧
    ({ b0.pkg.mgmt with leaf := 2 ^ 20 } : Mgmt).leaf = 2 ^ 20 ∧ [(1 : BitVec 8), 0xE1, 2, 3, 4].all (fun n => decide ((stage n).pkg.mgmt.boot = n)) = true ∧
    (stage 3).pkg.mgmt.config = some cfg0 ∧ (tabled (stage 4)).part.cfg.isSome = true := by decide +kernel

theorem wit_DecodeAndEncodeAgree : (Instr.nop h0).wf = true ∧ encode (.nop h0) = some (0, 0) := by decide +kernel
/-- b0's next step issues the NOP of its line. -/
theorem wit_StepRunsTheDecodedInstruction : let u := turn b0 0
    b0.inbox = [] ∧ cands b0 = [] ∧ nextSlot b0 = some 0 ∧ (u.th 0).pc.getLsbD 5 = false ∧
      (∃ a r, xByte u 0 (u.th 0).space (vaOf (u.th 0).creach (pcLine (u.th 0).pc)) [permX] = .ok a r) ∧
      (∃ l, findLine u 0 = some l) ∧ pcBreak u 0 = none ∧
      ((findLine u 0).map fun l => !headP l && lineOk l.bits && !l.badPatch && decide (pcHead (u.th 0).pc < lineN l.bits) && !tailP l 0 &&
        decide (l.headFault = []) && decide (decode (lineHead l.bits 0) (lineTail l.bits 0) = .ok (.nop h0))) = some true :=
  ⟨by decide +kernel, by decide +kernel, by decide +kernel, by decide +kernel, bok (by decide +kernel), sok (by decide +kernel),
    by decide +kernel, by decide +kernel⟩
theorem wit_StepRunsTheDecodedInstruction_trap : let s := placed State.reset 16 0x0620
    s.inbox = [] ∧ cands s = [] ∧ nextSlot s = some 0 ∧ (match fetch (turn s 0) 0 with | .trap _ => true | _ => false) = true := by decide +kernel
theorem wit_StepsKeepMemoryCanonical : b0.mem.wf = true ∧ (match step b0 with | .next _ => true | _ => false) = true := by decide +kernel
theorem wit_PacketsLeaveOtherThreads : (encode (.add h0 1 2 3 false)).isSome = true ∧ b0.ctl.cur ≠ 15 ∧
    b0.cl.dbg.drctl.extractLsb' 36 2 = 0 ∧ (match exec (.add h0 1 2 3 false) b0 with | .next _ => true | _ => false) = true := by decide +kernel
/-! Words written out from the encoding tables: head, tail, instruction. -/

def reads (l : List (BitVec 16 × BitVec 64 × Instr)) : Bool := l.all fun x => decide (decode x.1 x.2.1 = .ok x.2.2)

/-- The control and thread family. -/
theorem decode_control_1 : reads
    [(0x0, 0x0, .nop h0), (0x200b, 0x0, .nop ⟨11, true⟩), (0xa01b, 0xffffffc9, .br ⟨11, true⟩ 9 0x7FFFFFE),
     (0x4020, 0x2c0, .jmp h0 22), (0x8030, 0x2468acf7, .call h0 23 0x1234567), (0x4040, 0x3e0, .calli h0 31),
     (0x50, 0x0, .ret h0), (0x4060, 0x118, .frame h0 24 8), (0x8070, 0xabc02920, .jtab h0 9 10 0xABC),
     (0x8080, 0xffff0d8c, .loop h0 12 12 3 0x1FFFE), (0x209b, 0x0, .exit ⟨11, true⟩), (0xa0, 0x0, .yield h0)] = true := by decide +kernel
/-- The control and thread family. -/
theorem decode_control_2 : reads
    [(0x40b0, 0x1c0, .wakeat h0 14), (0x80c0, 0x218820, .fork h0 1 2 3 2), (0x40d0, 0x3a0, .join h0 29),
     (0x40e0, 0x80a0, .hike h0 5 true), (0x80f0, 0x1a29060, .post h0 3 4 5 10 true false),
     (0x80f0, 0x2001060, .post h0 3 4 0 0 false true), (0x100, 0x0, .settle h0), (0x4110, 0xef, .barc h0 15 7),
     (0x120, 0x0, .barg h0), (0x4130, 0x260, .fanout h0 19), (0x4140, 0x1f, .trap h0 31), (0x4150, 0x800a, .chkerr h0 10 true)] = true := by decide +kernel
/-- The control and thread family. -/
theorem decode_control_3 : reads
    [(0x4160, 0x11, .tstamp h0 17), (0x4170, 0x12, .cycle h0 18), (0x8180, 0xa1, .pitch h0 1 5), (0x4190, 0x6, .strike h0 6),
     (0x1a0, 0x0, .douse h0), (0x41b0, 0x8004, .fence h0 .system true), (0x41b0, 0x1, .fence h0 .die false),
     (0x1c0, 0x0, .chunk h0), (0x81d0, 0x1800009, .getsr h0 9 0x018), (0x81e0, 0x2100120, .setsr h0 9 0x021),
     (0x1f0, 0x0, .iflush h0)] = true := by decide +kernel
/-- The two-source integer family. -/
theorem decode_integer_1 : reads
    [(0x4400, 0x6cd3, .add h0 19 6 27 false), (0x4410, 0xecd3, .sub h0 19 6 27 true), (0x4430, 0x6cd3, .mul h0 19 6 27 false),
     (0x4440, 0xecd3, .mulh h0 19 6 27 true), (0x4450, 0x6cd3, .div h0 19 6 27 false), (0x4460, 0xecd3, .rem h0 19 6 27 true),
     (0x4470, 0x6cd3, .and h0 19 6 27 false), (0x4480, 0xecd3, .or h0 19 6 27 true), (0x4490, 0x6cd3, .xor h0 19 6 27 false),
     (0x44a0, 0xecd3, .andn h0 19 6 27 true), (0x44e0, 0x6cd3, .shl h0 19 6 27 false), (0x44f0, 0xecd3, .shr h0 19 6 27 true)] = true := by decide +kernel
/-- The two-source integer family. -/
theorem decode_integer_2 : reads
    [(0x4520, 0x6cd3, .rot h0 19 6 27 false), (0x4560, 0xecd3, .min h0 19 6 27 true), (0x4570, 0x6cd3, .max h0 19 6 27 false),
     (0x4530, 0xd3, .clz h0 19 6 false), (0x4540, 0x80d3, .ctz h0 19 6 true), (0x4550, 0xd3, .popc h0 19 6 false),
     (0x45d0, 0x80d3, .mov h0 19 6 true)] = true := by decide +kernel
/-- The immediate and field family. -/
theorem decode_immediate_1 : reads
    [(0xa42b, 0xfffffea3, .addi ⟨11, true⟩ 3 21 0x3fffff), (0xa4bb, 0x555556a3, .andi ⟨11, true⟩ 3 21 0x155555),
     (0xa4cb, 0x800002a3, .ori ⟨11, true⟩ 3 21 0x200000), (0xa4db, 0x6a3, .xori ⟨11, true⟩ 3 21 0x1),
     (0x8500, 0x3f00149, .shli h0 9 10 63), (0x8510, 0x4300149, .shri h0 9 10 3 true), (0x8580, 0x3c800149, .ext h0 9 10 8 15),
     (0x8590, 0xfc000149, .exts h0 9 10 0 63), (0x85a0, 0x3f00149, .ins h0 9 10 63 0),
     (0xc5b0, 0xfedcba987654000a, .movi h0 10 0xFEDCBA987654), (0x85c0, 0xafbbc09, .movk h0 9 0xBEEF 2),
     (0x85e0, 0x68c41, .sel h0 1 2 3 5 true)] = true := by decide +kernel
/-- The immediate and field family. -/
theorem decode_immediate_2 : reads
    [(0x85f0, 0xffa00c41, .lea h0 1 2 3 2 0x3FE), (0x4600, 0x6b, .getk h0 11 3), (0x4610, 0x162, .setk h0 2 11)] = true := by decide +kernel
/-- The scalar floating point family. -/
theorem decode_float_1 : reads
    [(0x8800, 0x1c06cd3, .fadd h0 19 6 27 .f32 .dyn), (0x8810, 0x506cd3, .fsub h0 19 6 27 .f64 .rz),
     (0x8820, 0x1606cd3, .fmul h0 19 6 27 .f16 .sr), (0x8840, 0xb06cd3, .fdiv h0 19 6 27 .bf16 .rdn),
     (0x8830, 0x462d49, .ffma h0 9 10 11 12 .f32 .rz), (0x8850, 0x1100149, .fsqrt h0 9 10 .f64 .rna),
     (0x8860, 0x302d49, .fmin h0 9 10 11 .bf16), (0x8870, 0x202d49, .fmax h0 9 10 11 .f16),
     (0x8880, 0x2002d49, .fsgn h0 9 10 11 .f32 .neg), (0x8880, 0x4100149, .fsgn h0 9 10 0 .f64 .abs),
     (0x8890, 0xb1400149, .fcvt h0 9 10 .e4m3 .f64 .rup true), (0x8890, 0x5b00149, .fcvt h0 9 10 .n64 .e5m2 .rne false)] = true := by decide +kernel
/-- The scalar floating point family. -/
theorem decode_float_2 : reads
    [(0x8890, 0x78300149, .fcvt h0 9 10 .bf16 .i32 .dyn false), (0x88a0, 0xe00149, .frnd h0 9 10 .f16 .rup),
     (0x48b0, 0xd49, .fcls h0 9 10 .bf16), (0x88c0, 0xdc00149, .fxf h0 9 10 .f32 .dyn .tanh)] = true := by decide +kernel
/-- The predicate and compare family. -/
theorem decode_predicate_1 : reads
    [(0x8c00, 0xc12921, .cmp h0 1 2 9 10 .gt true), (0x8c10, 0x310921, .cmpi h0 1 2 9 .lt false 3),
     (0x8c10, 0xfff03520, .cmpi h0 0 0 9 .ge true 0xFFF), (0x8c20, 0x1932927, .fcmp h0 7 6 9 10 .f64 .un),
     (0x8c30, 0xe00c41, .plog h0 1 2 3 14), (0x4c40, 0x2c4, .pfrom h0 4 22), (0x4c50, 0x96, .ptos h0 22 4),
     (0x4c60, 0xb7, .pcnt h0 23 5), (0x4c70, 0xd8, .pfirst h0 24 6), (0x8c80, 0x105ec3, .plim h0 3 22 23 true),
     (0x8c93, 0x2111481, .vcmp ⟨3, false⟩ 1 2 4 5 .f16 .lt false), (0x8c90, 0x83811481, .vcmp h0 1 2 4 5 .n8 .le true)] = true := by decide +kernel
/-- The memory and engine family. -/
theorem decode_memory_1 : reads
    [(0x9000, 0x17902909, .ld h0 9 8 10 1 .i64 3 2), (0x9010, 0x82202909, .st h0 9 8 10 2 .i8 1 16),
     (0x9080, 0x7c702909, .ldf h0 9 8 10 3 .n8 2 15), (0x9090, 0xf8802909, .ldfe h0 9 8 10 0 .i16 0 31),
     (0x90a0, 0xf02909, .stef h0 9 8 10 3 .n16 0 0), (0x90b0, 0x3d502909, .stf h0 9 8 10 1 .n32 2 7),
     (0xd020, 0xfffffffffff84909, .ldo h0 9 8 2 .i32 0xFFFFFFFFFFF8),
     (0xd030, 0x123456789abc6509, .sto h0 9 8 1 .i64 0x123456789ABC), (0x9040, 0x81fa1a4, .vld h0 4 13 8 31 1 .f32 2),
     (0x9050, 0xd5a821a4, .vst h0 4 13 8 16 2 .n16 1 .sr true), (0x9060, 0x18d025a4, .vldg h0 4 13 9 1 .i32 2 true),
     (0x9070, 0xd3025a4, .vsts h0 4 13 9 3 .n32 3 false)] = true := by decide +kernel
/-- The memory and engine family. -/
theorem decode_memory_2 : reads
    [(0x9100, 0x142025a4, .gathn h0 4 13 9 2 .f32 1 true), (0x50c0, 0x8103, .feset h0 3 8 true),
     (0x5110, 0x8102, .pref h0 2 8 true), (0x90d0, 0x105689, .atom h0 9 20 21 1 .add false),
     (0x90d0, 0x6a05689, .atom h0 9 20 21 2 .faddbf true), (0x90d0, 0x3005689, .atom h0 9 20 21 0 .fmax false),
     (0x90e0, 0x75a909, .cas h0 9 8 10 11 3 true), (0x90f0, 0x4902900, .vred h0 8 10 1 .max .n32),
     (0x9120, 0x52500, .stash h0 8 9 10), (0x9130, 0x10c, .unstash h0 12 8), (0x9140, 0x20250c, .flush h0 12 8 9 2),
     (0x9150, 0x5250c, .copy h0 12 8 9 10 false false)] = true := by decide +kernel
/-- The memory and engine family. -/
theorem decode_memory_3 : reads
    [(0x9150, 0x15250c, .copy h0 12 8 9 10 true false), (0x9150, 0x25250c, .copy h0 12 8 9 10 false true),
     (0x9160, 0x15250c, .mcast h0 12 8 9 10 true)] = true := by decide +kernel
/-- The vector arithmetic family. -/
theorem decode_vector_1 : reads
    [(0x9400, 0xc0502928, .vadd h0 8 9 10 .i16 .rne false false true true),
     (0x9410, 0xf002928, .vsub h0 8 9 10 .f32 .dyn true false false false),
     (0x9420, 0x91202928, .vmul h0 8 9 10 .bf16 .rz false true false true),
     (0x9500, 0x1d102928, .vdot h0 8 9 10 .f16 .sr true true false false),
     (0x9500, 0xd0602928, .vdot h0 8 9 10 .n16 .rne false true true true),
     (0x9430, 0x70398a4, .vfma h0 4 5 6 7 .f32 .dyn false false false false false),
     (0x9430, 0xe08398a4, .vfma h0 4 5 6 7 .n8 .rne false false true true true), (0x9440, 0x2928, .vmin h0 8 9 10 .f32 false),
     (0x9450, 0x80702928, .vmax h0 8 9 10 .i8 true), (0x94a0, 0x102928, .vand h0 8 9 10 .f16 false),
     (0x94b0, 0x80302928, .vor h0 8 9 10 .i32 true), (0x94c0, 0x502928, .vxor h0 8 9 10 .i16 false)] = true := by decide +kernel
/-- The vector arithmetic family. -/
theorem decode_vector_2 : reads
    [(0x94e0, 0x80402928, .vshr h0 8 9 10 .n32 true), (0x94f0, 0x802928, .vmulh h0 8 9 10 .n8 false),
     (0x9460, 0x88202928, .vsgn h0 8 9 10 .bf16 .neg true), (0x9460, 0x10100128, .vsgn h0 8 9 0 .f16 .abs false),
     (0x9470, 0x84102928, .vdiv h0 8 9 10 .f16 .rna true), (0x9480, 0x2b200128, .vxf h0 8 9 .bf16 .rup .cos),
     (0x9490, 0xf6100128, .vcvt h0 8 9 .f16 .n16 .dyn true), (0x9490, 0x88700128, .vcvt h0 8 9 .i8 .n8 .rne true),
     (0x94d0, 0x40302928, .vshl h0 8 9 10 .i32 true false), (0x9510, 0x8045a928, .vclamp h0 8 9 10 11 .n32 true),
     (0x9520, 0x772928, .vsel h0 8 9 10 6 true .i8 false)] = true := by decide +kernel
/-- The vector movement and narrow formats family. -/
theorem decode_movement_1 : reads
    [(0x5800, 0x128, .vmov h0 8 9), (0x9810, 0x6002a8, .vbcast h0 8 21 .n16), (0x9820, 0x3f00135, .vget h0 21 9 31 true),
     (0x9830, 0x11002a8, .vins h0 8 21 17), (0x9840, 0x80202928, .vperm h0 8 9 10 .bf16 true),
     (0x9850, 0x3f3000a4, .vslide h0 4 5 .i32 0x3F), (0x9860, 0x7000089, .vfold h0 9 4 .f32 .dyn .add),
     (0x9870, 0x10700089, .vscan h0 9 4 .i8 .rne .max), (0x5880, 0x801e, .vidx h0 30 true),
     (0x9890, 0x7502488, .vpack h0 8 4 9 .e2m1 .dyn false), (0x9890, 0x8800088, .vpack h0 8 4 0 .i16 .rne true),
     (0x98a0, 0x1700088, .vunpk h0 8 4 .i8 true)] = true := by decide +kernel
/-- The vector movement and narrow formats family. -/
theorem decode_movement_2 : reads
    [(0x98a0, 0x600088, .vunpk h0 8 4 .t8 false), (0x98b0, 0x88, .tenc h0 8 4), (0x98c0, 0x88, .tdec h0 8 4),
     (0x58d0, 0x88, .tload h0 8 4), (0x98e0, 0x89002488, .vmxs h0 8 4 9 .rz true true)] = true := by decide +kernel
/-- The ring and matrix family. -/
theorem decode_rings_1 : reads
    [(0x9c00, 0x249f, .rdef h0 31 4 9), (0x9c10, 0x10009f, .rpush h0 31 4 true), (0x9c20, 0x1000a6, .rpop h0 6 5 true),
     (0x9c20, 0x3c6, .rpop h0 6 30 false), (0x9c30, 0x3a6, .rstat h0 6 29), (0x9c40, 0xbc, .bind h0 28 5 .pop false 0),
     (0x9c40, 0x17000bf, .bind h0 31 5 .wr true 2), (0x5c50, 0x1d, .unbind h0 29), (0x9c60, 0x3f00c41, .mma h0 1 2 3 63),
     (0x5c70, 0x1, .mzero h0 1), (0x9c80, 0x160101, .mdrain h0 1 8 12 1), (0x9c90, 0x300101, .mfill h0 1 8 3)] = true := by decide +kernel
/-- The ring and matrix family. -/
theorem decode_rings_2 : reads
    [(0x9ca0, 0x200109, .rquery h0 9 8 2)] = true := by decide +kernel
/-- The system family. -/
theorem decode_system_1 : reads
    [(0x1e00, 0x0, .rett h0), (0x1ed0, 0x0, .idle h0), (0x9e10, 0x5949, .ctxsave h0 9 10 22),
     (0x9e20, 0x5949, .ctxload h0 9 10 22), (0x9e70, 0x5949, .rload h0 9 10 22), (0x9e80, 0x5949, .rinval h0 9 10 22),
     (0x9e90, 0x5949, .rsplit h0 9 10 22), (0x9ea0, 0x5949, .rmerge h0 9 10 22), (0x9eb0, 0x5949, .rgrow h0 9 10 22),
     (0x9ec0, 0x5949, .rcompact h0 9 10 22), (0x5e30, 0xa0, .resume h0 5), (0x5e40, 0xa0, .killt h0 5)] = true := by decide +kernel
/-- The system family. -/
theorem decode_system_2 : reads
    [(0x5ee0, 0xa0, .dbghalt h0 5), (0x5ef0, 0xa0, .wakef h0 5), (0x5f00, 0xa0, .credsync h0 5),
     (0x9e50, 0x10b00003, .getpr h0 3 0x10B), (0x9e60, 0x11000060, .setpr h0 3 0x110)] = true := by decide +kernel

/-! Ill-formed terms: one for each check of Instr.wf. -/

theorem illformed_control : [Instr.frame hG 10 3, .frame h0 0 0, .frame h0 25 0, .frame h0 24 9, .frame h0 3 4, .loop h0 12 13 0 0,
    .post h0 1 2 3 0 false false, .getsr h0 1 0x00B, .getsr h0 1 0x100, .setsr h0 1 0x019, .setsr h0 1 0x022].all (fun i => !i.wf) = true := by
  decide +kernel
theorem illformed_scalar : [Instr.ext h0 1 2 60 4, .exts h0 1 2 1 63, .ins h0 1 2 63 1, .fsgn h0 1 2 3 .f32 .abs,
    .fcvt h0 1 2 .f32 .f32 .rne false, .fcvt h0 1 2 .i32 .n64 .rne false, .fcvt h0 1 2 .i32 .f32 .rne true, .fxf h0 1 2 .f64 .rne .rcp,
    .cmp h0 1 2 3 4 .un false, .cmp h0 1 1 3 4 .lt false, .cmpi h0 1 2 3 .or false 0, .cmpi h0 7 7 3 .eq false 0,
    .fcmp h0 2 2 3 4 .f32 .lt].all (fun i => !i.wf) = true := by decide +kernel
theorem illformed_memory : [Instr.vldg h0 1 2 3 0 .i16 0 false, .vsts h0 1 2 3 0 .f16 0 false, .gathn h0 1 2 3 0 .n8 0 false,
    .atom h0 1 2 3 0 .fadd32 false, .atom h0 1 2 3 0 .faddbf false, .vred h0 1 2 0 .add .f16, .vred h0 1 2 0 .min .i8].all (fun i => !i.wf) = true := by
  decide +kernel
theorem illformed_vector : [Instr.vcmp h0 1 2 3 4 .i32 .un false, .vcmp h0 1 1 3 4 .f32 .lt false, .vadd h0 1 2 3 .i16 .rz false false false false,
    .vadd h0 1 2 3 .f32 .rne false false true false, .vsub h0 1 2 3 .n8 .dyn false false false false,
    .vsub h0 1 2 3 .bf16 .rne false false true false, .vmul h0 1 2 3 .i32 .rup false false false false,
    .vmul h0 1 2 3 .f16 .rne false false true false, .vfma h0 1 2 3 4 .i32 .rna false false false false false,
    .vfma h0 1 2 3 4 .f32 .rne false false false true false, .vshr h0 1 2 3 .f32 false, .vmulh h0 1 2 3 .bf16 false,
    .vsgn h0 1 2 3 .i32 .neg false, .vsgn h0 1 2 3 .f32 .abs false, .vsgn h0 1 2 0 .f32 .abs true, .vdiv h0 1 2 3 .i32 .rne false,
    .vxf h0 1 2 .i8 .rne .rcp, .vcvt h0 1 2 .f32 .f32 .rne false, .vcvt h0 1 2 .f32 .f16 .rne false, .vcvt h0 1 2 .i16 .n16 .rz false,
    .vcvt h0 1 2 .i32 .f32 .rne true, .vshl h0 1 2 3 .f16 false false, .vdot h0 1 2 3 .f32 .rne false false false false,
    .vdot h0 1 2 3 .i16 .rz false false false false, .vdot h0 1 2 3 .f16 .rne false false true false].all (fun i => !i.wf) = true := by
  decide +kernel
theorem illformed_movement : [Instr.vslide h0 1 2 .i32 32, .vfold h0 1 2 .i32 .rz .add, .vfold h0 1 2 .f32 .rz .min,
    .vscan h0 1 2 .n8 .dyn .add, .vscan h0 1 2 .f16 .rup .max, .vpack h0 1 2 0 .i8 .rz false, .vpack h0 1 2 0 .t8 .dyn false,
    .vpack h0 1 2 0 .t8 .rne true, .vpack h0 1 2 3 .f16 .rne false, .vpack h0 1 2 1 .e2m1 .rne false, .vunpk h0 1 2 .f16 true,
    .bind h0 28 5 .pop false 1, .getpr h0 1 0x107, .getpr h0 1 0x116, .setpr h0 1 0x10E].all (fun i => !i.wf) = true := by decide +kernel

/-- Reserved operation numbers are unassigned; a wrong tail length, a reserved bit, a reserved code and a second name of one
register are illegal. -/
theorem words_refused : [(0x0200, 0x0), (0x47f0, 0x0), (0x1fe0, 0x0)].all (fun x : BitVec 16 × BitVec 64 => decide (decode x.1 x.2 = .unassigned)) ∧
    [(0x4000, 0x0), (0x0060, 0x118), (0x4020, 0x2c1), (0x4400, 0x16cd3), (0x8800, 0x101c06cd3), (0x8800, 0x1806cd3), (0x8080, 0xffff0dac),
      (0x8c10, 0x310922), (0x9e50, 0x10700003)].all (fun x : BitVec 16 × BitVec 64 => decide (decode x.1 x.2 = .illegal)) := by
  decide +kernel

/-- The encoder gives the spec's worked words. -/
theorem worked_encodings : [(Instr.frame h0 10 3, 0x4060, 0x6A), (.jtab h0 9 10 5, 0x8070, 0x502920), (.loop h0 12 12 3 0x1FFFE, 0x8080, 0xFFFF0D8C),
    (.fence h0 .die true, 0x41B0, 0x8001), (.shri h0 9 10 3 true, 0x8510, 0x4300149), (.ext h0 9 10 8 15, 0x8580, 0x3C800149),
    (.movk h0 9 0xBEEF 2, 0x85C0, 0x0AFBBC09), (.vcmp ⟨3, false⟩ 1 2 4 5 .f16 .lt false, 0x8C93, 0x2111481),
    (.vfma h0 4 5 6 7 .f32 .dyn false false false false false, 0x9430, 0x70398A4), (.vadd h0 8 9 10 .i16 .rne false false true true, 0x9400, 0xC0502928),
    (.vld h0 4 13 8 0 1 .f32 2, 0x9040, 0x81021A4), (.stef h0 9 8 0 3 .i64 0 0, 0x90A0, 0x1B00109), (.feset h0 3 8 true, 0x50C0, 0x8103),
    (.mma h0 0 2 3 1, 0x9C60, 0x100C40), (.mdrain h0 1 8 12 1, 0x9C80, 0x160101)].all
    (fun x : Instr × BitVec 16 × BitVec 64 => decide (encode x.1 = some x.2)) = true := by decide +kernel

/-! Single steps, each from a worked value of the spec. -/

/-- The state after one instruction (the same state where there is none). -/
def after (i : Instr) (s : State) : State :=
  match exec i s with
  | .next t => t
  | _ => s
/-- A vector of 32 equal lanes; one lane set. -/
def lanes (v : Nat) : VVal := ⟨BitVec.ofNat 1024 ((List.range 32).foldl (fun x _ => x * 2 ^ 32 + v) 0), 0⟩

/-- Chapter 7's narrowing of 29.0 to E4M3: RNE 0x5E and NX; RUP and RNA 0x5F; SR 0x5F, SEED left at 0x40822041. -/
theorem test_fcvt_narrows : let s := sr b0 2 0x41E80000
    ((after (.fcvt h0 1 2 .e4m3 .f32 .rne false) s).s 1).v = 0x5E ∧
    (after (.fcvt h0 1 2 .e4m3 .f32 .rne false) s).me.regs.fpflags = 0x10 ∧
    ((after (.fcvt h0 1 2 .e4m3 .f32 .rup false) s).s 1).v = 0x5F ∧ ((after (.fcvt h0 1 2 .e4m3 .f32 .rna false) s).s 1).v = 0x5F := by
  decide +kernel
theorem test_fcvt_stochastic : let s := me (sr b0 2 0x41E80000) fun t => { t with regs := { t.regs with seed := 1 } }
    ((after (.fcvt h0 1 2 .e4m3 .f32 .sr false) s).s 1).v = 0x5F ∧
    (after (.fcvt h0 1 2 .e4m3 .f32 .sr false) s).me.regs.seed = 0x40822041 := by decide +kernel
/-- 500.0 to E4M3: 448 with SAT, the NaN with OF under `.inf`. -/
theorem test_fcvt_overflow : let s := sr b0 2 0x43FA0000
    let t := after (.fcvt h0 1 2 .e4m3 .f32 .rne false) s
    let u := after (.fcvt h0 1 2 .e4m3 .f32 .rne true) s
    (t.s 1).v = 0x7E ∧ t.me.regs.fpflags.getLsbD 5 = true ∧ (u.s 1).v = 0x7F ∧ u.me.regs.fpflags.getLsbD 2 = true := by decide +kernel
/-- A dual compare on a quiet NaN: `.lt` gives 0 and 1 and NV, `.ne` 1 and 0 and no flag. -/
theorem test_fcmp_nan : let s := sr (sr b0 2 0x7FC00000) 3 0x3F800000
    let t := after (.fcmp h0 1 2 2 3 .f32 .lt) s
    let u := after (.fcmp h0 1 2 2 3 .f32 .ne) s
    (t.p 1).m = 0 ∧ (t.p 2).m = 1 ∧ t.me.regs.fpflags = 1 ∧ (u.p 1).m = 1 ∧ (u.p 2).m = 0 ∧ u.me.regs.fpflags = 0 := by decide +kernel
/-- 10,000 + 28,672 in 64 elements: 32,767 and SAT, 0x9710 without `.sat`. -/
theorem test_vadd_sat : let s := vr (sr b0 3 0x7000) 2 (lanes 0x27102710)
    let t := after (.vadd h0 1 2 3 .i16 .rne false false true true) s
    let u := after (.vadd h0 1 2 3 .i16 .rne false false false true) s
    (t.v 1).bits = (lanes 0x7FFF7FFF).bits ∧ t.me.regs.fpflags = 0x20 ∧ (u.v 1).bits = (lanes 0x97109710).bits ∧
      u.me.regs.fpflags = 0 := by decide +kernel
/-- PLIM's worked masks. -/
theorem test_plim : let s := sr (sr b0 2 96) 3 100
    ((after (.plim h0 1 2 3 false) s).p 1).m = 0xF ∧ ((after (.plim h0 1 3 3 false) s).p 1).m = 0 := by decide +kernel
/-- Lane 0 = 2^24, lanes 1 and 17 = 1.0. -/
def folded : VVal := ⟨(0x3F800000 : VBits) <<< (32 * 17) ||| (0x3F800000 : VBits) <<< 32 ||| 0x4B800000, 0⟩
theorem test_vfold_order : ((after (.vfold h0 1 4 .f32 .rne .add) (vr b0 4 folded)).s 1).v = 0x4B800001 := by decide +kernel
theorem test_vscan_order : let t := after (.vscan h0 5 4 .f32 .rne .add) (vr b0 4 folded)
    (t.v 5).bits.extractLsb' 992 32 = 0x4B800000 ∧ t.me.regs.fpflags = 0x10 := by decide +kernel
/-- The MX block of 10.0 and −3.3: scale 0x80, codes 0b0110 and 0b1011. -/
theorem test_vpack_block : let t := after (.vpack h0 8 4 9 .e2m1 .rne false) (vr b0 4 ⟨(0xC0533333 : VBits) <<< 32 ||| 0x41200000, 0⟩)
    (t.v 8).bits.extractLsb' 0 8 = 0xB6 ∧ (t.v 9).bits.extractLsb' 0 32 = 0x80 := by decide +kernel
/-- The table of the JTAB at work, its entry come. -/
def jumps : State := { sr (sr b0 1 2) 2 0x4000 with
  ctl := { b0.ctl with came := true }
  mem := ((b0.mem.setByte 0x4001 0x10).setBytes 0x4008 [0x41, 0x10]).setBytes 0x4010 [0x42, 0x10] }
theorem test_jtab : (after (.jtab h0 1 2 3) jumps).me.pc = 0x1042 ∧ (after (.jtab h0 1 2 2) jumps).me.pc = jumps.next ∧
    ((after (.jtab h0 1 2 3) (sr jumps 2 0x4004)).slot 0).trap.map (·.t.cause) = some 0x07 := by decide +kernel
/-- Boundary values of DIV and REM: the owed quotient. -/
def owesOf (s : State) : Option Word :=
  match s.me.far with
  | [⟨_, _, _, some (.scalar v _), _, _, _, _, _⟩] => some v.v
  | _ => none
theorem test_div : let s := sr (sr b0 2 (BitVec.ofInt 64 (-7))) 3 2
    owesOf (after (.div h0 1 2 3 false) s) = some (BitVec.ofInt 64 (-3)) ∧ owesOf (after (.rem h0 1 2 3 false) s) = some (BitVec.ofInt 64 (-1)) := by
  decide +kernel
theorem test_div_boundary : let s := sr (sr b0 2 0x8000000000000000) 3 0xFFFFFFFFFFFFFFFF
    owesOf (after (.div h0 1 2 3 false) s) = some 0x8000000000000000 ∧ owesOf (after (.rem h0 1 2 3 false) s) = some 0 ∧
    ((after (.div h0 1 2 4 false) s).slot 0).trap.map (·.t.cause) = some 0x05 := by decide +kernel
/-- Fields: bits 8 to 23 of a; a shift that brings the sign in; a word ADD, zero- or sign-extended as R188 has it. -/
theorem test_fields : let s := sr (sr b0 2 0xFEDCBA9876543210) 3 0x8000000000000001
    ((after (.ext h0 1 2 8 15) s).s 1).v = 0x5432 ∧ ((after (.exts h0 1 2 32 15) s).s 1).v = 0xFFFFFFFFFFFFBA98 ∧
    ((after (.ins h0 2 3 60 3) s).s 2).v = 0x1EDCBA9876543210 ∧ ((after (.shri h0 1 3 1 true) s).s 1).v = 0xC000000000000000 ∧
    ((after (.movk h0 2 0xBEEF 2) s).s 2).v = 0xFEDCBEEF76543210 ∧ ((after (.movi h0 1 0x800000000000) s).s 1).v = 0xFFFF800000000000 := by
  decide +kernel
/-- A store and a load of the same chunk: the low half, little-endian, sign-extended. -/
theorem test_store_load : let s := after (.st h0 2 3 0 0 .i32 0 0) (sr (sr b0 2 0x12348765) 3 0x500)
    owesOf (after (.ld h0 1 3 0 0 .i16 0 0) s) = some 0xFFFFFFFFFFFF8765 ∧ owesOf (after (.ld h0 1 3 0 0 .n8 0 1) s) = some 0x87 := by
  decide +kernel
/-- A digest that FIPS 180-4 prints as an example (log 18). -/
theorem test_digest : sha256 [0x61, 0x62, 0x63] = beBytes 32 0xBA7816BF8F01CFEA414140DE5DAE2223B00361A396177A9CB410FF61F20015AD := by decide +kernel
end Sys2Proof.Tests
end

section
/-! The board (R344, R395 to R407): what each step of the mailbox, the debug module, the clocks and the boot does, one equation a
case, and what a halt leaves as it was. -/
namespace Sys2Proof.Machine

/-! The step of each part is its own meaning. -/

theorem exec_registerWrite (r : DevReg) (v : Word) (s : State) : exec (.registerWrite r v) s = execRegisterWrite r v s := rfl
theorem exec_readDebugRegister (c : CoreId) (n : BitVec 12) (s : State) :
    exec (.readDebugRegister c n) s = execReadDebugRegister c n s := rfl
theorem exec_writeDebugRegister (c : CoreId) (n : BitVec 12) (v : Word) (s : State) :
    exec (.writeDebugRegister c n v) s = execWriteDebugRegister c n v s := rfl
theorem exec_issueCounterClear (n : BitVec 12) (s : State) : exec (.issueCounterClear n) s = execIssueCounterClear n s := rfl
theorem exec_frequencySwitch (s : State) : exec .frequencySwitch s = execFrequencySwitch s := rfl
theorem exec_attest (s : State) : exec .attest s = execAttest s := rfl
theorem exec_release (s : State) : exec .release s = execRelease s := rfl
theorem exec_xtrig (s : State) : exec .xtrig s = .next (crossTrigger s) := rfl
theorem exec_signatureVerify (s : State) : exec .signatureVerify s = execSignatureVerify s := rfl
theorem exec_hbmLinkTraining (s : State) : exec .hbmLinkTraining s = execHbmLinkTraining s := rfl
theorem exec_configurationLoad (s : State) : exec .configurationLoad s = execConfigurationLoad s := rfl

/-! The mailbox (R395). -/

/-- The bits of CMD that a write reaches. -/
def cmdBits (v : Word) : BitVec 44 := (v &&& cmdMask).extractLsb' 0 44

theorem exec_mailCmd_busy {s : State} (h : s.pkg.mgmt.busy = true) (v : Word) : exec (.registerWrite .mailCmd v) s = .next s := by
  simp [exec_registerWrite, execRegisterWrite, h]
theorem exec_mailData_busy {s : State} (h : s.pkg.mgmt.busy = true) (v : Word) : exec (.registerWrite .mailData v) s = .next s := by
  simp [exec_registerWrite, execRegisterWrite, h]
theorem exec_mailCmd_idle {s : State} (h : s.pkg.mgmt.busy = false) (v : Word) :
    exec (.registerWrite .mailCmd v) s = .next (mailStart s (cmdBits v)) := by
  simp [exec_registerWrite, execRegisterWrite, h, cmdBits]
theorem exec_mailData_idle {s : State} (h : s.pkg.mgmt.busy = false) (v : Word) :
    exec (.registerWrite .mailData v) s = .next (modMgmt s fun m => { m with data := v }) := by
  simp [exec_registerWrite, execRegisterWrite, h, modMgmt]

/-- The mailbox is busy with command c, whose operation is due. -/
def mailRuns (s : State) (c : BitVec 44) (e : Instr) : State := (modMgmt s fun m => { m with cmd := c, busy := true }).later [e]

theorem mailStart_readDebug {c : BitVec 44} (h : c.extractLsb' 0 8 = 1) (s : State) :
    mailStart s c = mailRuns s c (.readDebugRegister (c.extractLsb' 8 14) (c.extractLsb' 32 12)) := by
  simp only [mailStart, h]; rfl
theorem mailStart_writeDebug {c : BitVec 44} (h : c.extractLsb' 0 8 = 2) (s : State) :
    mailStart s c = mailRuns s c (.writeDebugRegister (c.extractLsb' 8 14) (c.extractLsb' 32 12) s.pkg.mgmt.data) := by
  simp only [mailStart, h]; rfl
theorem mailStart_frequency {c : BitVec 44} (h : c.extractLsb' 0 8 = 3) (s : State) :
    mailStart s c = mailRuns s c (.setFrequency s.pkg.mgmt.data) := by
  simp only [mailStart, h]; rfl
theorem mailStart_powerCap {c : BitVec 44} (h : c.extractLsb' 0 8 = 4) (s : State) :
    mailStart s c = mailRuns s c (.setPowerCap s.pkg.mgmt.data) := by
  simp only [mailStart, h]; rfl
theorem mailStart_attest {c : BitVec 44} (h : c.extractLsb' 0 8 = 5) (s : State) : mailStart s c = mailRuns s c .attest := by
  simp only [mailStart, h]; rfl
/-- Any other operation is refused. -/
theorem mailStart_refused {c : BitVec 44} (h : 5 < (c.extractLsb' 0 8).toNat ∨ c.extractLsb' 0 8 = 0) (s : State) :
    mailStart s c = modMgmt s fun m => { m with cmd := c, busy := false, result := rRefused } := by
  have h' : 5 < (c.extractLsb' 0 8).toNat ∨ (c.extractLsb' 0 8).toNat = 0 := h.imp_right fun e => by rw [e]; rfl
  unfold mailStart
  dsimp only
  split
  iterate 5 omega
  rfl

/-! Debug registers (R396, R399, R400). -/

theorem isDebug_iff (n : BitVec 12) : isDebug n = true ↔
    n.toNat = 0 ∨ (8 ≤ n.toNat ∧ n.toNat ≤ 0xC) ∨ (0x10 ≤ n.toNat ∧ n.toNat ≤ 0x14) ∨ n.toNat = 0x20 ∨ (0x100 ≤ n.toNat ∧ n.toNat < 0x140) ∨ (0x180 ≤ n.toNat ∧ n.toNat ≤ 0x190) ∨
    (0x400 ≤ n.toNat ∧ n.toNat < 0x600 ∧ n.toNat % 8 ≤ 4) := by
  simp [isDebug, or_assoc, and_assoc]

/-- A register of the debug module that holds what is written (R396), or a census site (R400). -/
def HoldsWrite (n : Nat) : Prop := (8 ≤ n ∧ n ≤ 0xC) ∨ (0x10 ≤ n ∧ n ≤ 0x14) ∨ (0x400 ≤ n ∧ n % 8 = 0)

theorem holdsWrite_of_isDebug {n : BitVec 12} (h : isDebug n = true)
    (w : (8 ≤ n.toNat ∧ n.toNat < 0x100 ∧ n ≠ 0x20) ∨ (0x400 ≤ n.toNat ∧ n.toNat % 8 = 0)) : HoldsWrite n.toNat := by
  have hd := (isDebug_iff n).1 h
  have h20 : n ≠ 0x20 → n.toNat ≠ 0x20 := fun ne e => ne (BitVec.eq_of_toNat_eq e)
  unfold HoldsWrite
  rcases w with ⟨h1, h2, h3⟩ | h1
  · have := h20 h3; omega
  · omega

/-- A field of k low bits, as a word, is the word under k ones. -/
theorem setWidth_lowBits (v : Word) {k : Nat} (hk : k ≤ 64) :
    (v.extractLsb' 0 k).setWidth 64 = v &&& BitVec.ofNat 64 (2 ^ k - 1) := by
  have hp : 2 ^ k ≤ 2 ^ 64 := Nat.pow_le_pow_right (by omega) hk
  have h1 : (2 ^ k - 1) % 2 ^ 64 = 2 ^ k - 1 := Nat.mod_eq_of_lt (by have := Nat.two_pow_pos k; omega)
  have h2 : v.toNat % 2 ^ k % 2 ^ 64 = v.toNat % 2 ^ k := Nat.mod_eq_of_lt (by have := Nat.mod_lt v.toNat (Nat.two_pow_pos k); omega)
  apply BitVec.eq_of_toNat_eq
  rw [BitVec.toNat_setWidth, BitVec.extractLsb'_toNat, Nat.shiftRight_zero, BitVec.toNat_and, BitVec.toNat_ofNat, h1, h2,
    Nat.and_two_pow_sub_one_eq_mod]

/-- What such a register reads after a write. -/
theorem debugWord_debugWrite (s : State) {n : Nat} (h : HoldsWrite n) (v : Word) :
    debugWord (modDbg s fun d => debugWrite d n v) n =
      if n = 0xC then v &&& 0xFFFFFF else if n = 0x14 then v &&& 0x3FFFFFFFFF else v := by
  rcases h with ⟨h1, h2⟩ | ⟨h1, h2⟩ | ⟨h1, h2⟩
  · obtain h | rfl : n < 0xC ∨ n = 0xC := by omega
    · have h0 : n ≠ 0 := by omega
      have h12 : n ≠ 0xC := by omega
      have h14 : n ≠ 0x14 := by omega
      simp only [debugWord, debugWrite, modDbg, h, h0, h12, h14, if_true, if_false, Bank.get_set_eq]
    · exact setWidth_lowBits v (k := 24) (by omega)
  · obtain rfl | rfl | rfl | rfl | rfl : n = 0x10 ∨ n = 0x11 ∨ n = 0x12 ∨ n = 0x13 ∨ n = 0x14 := by omega
    · exact Bank.get_set_eq _ _ _
    · exact Bank.get_set_eq _ _ _
    · exact Bank.get_set_eq _ _ _
    · exact Bank.get_set_eq _ _ _
    · exact setWidth_lowBits v (k := 38) (by omega)
  · have hlt : ∀ k, k < 0x400 → n ≠ k := fun k hk => by omega
    have hge : ∀ k, k ≤ 0x400 → ¬ n < k := fun k hk => by omega
    simp [debugWord, debugWrite, modDbg, hlt, hge, h2, Bank.get_set_eq]

theorem exec_readDebug_unknown {n : BitVec 12} (h : isDebug n = false) (c : CoreId) (s : State) :
    exec (.readDebugRegister c n) s = .next (mailEnd s rUnknown) := by
  simp [exec_readDebugRegister, execReadDebugRegister, h]
theorem exec_writeDebug_unknown {n : BitVec 12} (h : isDebug n = false) (c : CoreId) (v : Word) (s : State) :
    exec (.writeDebugRegister c n v) s = .next (mailEnd s rUnknown) := by
  simp [exec_writeDebugRegister, execWriteDebugRegister, h]

section
variable {s : State} {c : CoreId} {n : BitVec 12} (hd : isDebug n = true) (hh : heldHere s c n = true) (v : Word)
include hd hh

theorem exec_readDebug_held :
    exec (.readDebugRegister c n) s = .next (mailEnd (modMgmt s fun m => { m with data := debugWord s n.toNat }) rDone) := by
  simp [exec_readDebugRegister, execReadDebugRegister, hd, hh]
theorem exec_writeDebug_holds (w : HoldsWrite n.toNat) :
    exec (.writeDebugRegister c n v) s = .next (modDbg (mailEnd s rDone) fun d => debugWrite d n.toNat v) := by
  have h0 : n.toNat ≠ 0 := by unfold HoldsWrite at w; omega
  have h1 : ¬ (0x100 ≤ n.toNat ∧ n.toNat < 0x140) := by unfold HoldsWrite at w; omega
  have h2 : ¬ (0x180 ≤ n.toNat ∧ n.toNat < 0x400) := by unfold HoldsWrite at w; omega
  have h3 : ¬ (0x400 ≤ n.toNat ∧ n.toNat % 8 ≠ 0) := by unfold HoldsWrite at w; omega
  simp only [exec_writeDebugRegister, execWriteDebugRegister, hd, hh, h0, h1, h2, h3, if_false, Bool.not_true, Bool.false_eq_true]
/-- DBGCTL acts (R396). -/
theorem exec_writeDebug_dbgctl (h0 : n = 0) : exec (.writeDebugRegister c n v) s =
    .next ((mailEnd s rDone).later ((if v.getLsbD 1 then [.xtrig] else []) ++ if v.getLsbD 2 then [.release] else [])) := by
  have h0' : n.toNat = 0 := by rw [h0]; rfl
  simp only [exec_writeDebugRegister, execWriteDebugRegister, hd, hh, h0', if_true, if_false, Bool.not_true, Bool.false_eq_true]
/-- A write of an issue counter clears it (R399). -/
theorem exec_writeDebug_counter (h1 : 0x100 ≤ n.toNat) (h2 : n.toNat < 0x140) :
    exec (.writeDebugRegister c n v) s = .next ((mailEnd s rDone).later [.issueCounterClear n]) := by
  have h0 : n.toNat ≠ 0 := by omega
  simp only [exec_writeDebugRegister, execWriteDebugRegister, hd, hh, h0, h1, h2, if_true, if_false, Bool.not_true, Bool.false_eq_true, and_self]
/-- A write of a census count clears it (R400). -/
theorem exec_writeDebug_census (h1 : 0x400 ≤ n.toNat) (h2 : n.toNat % 8 ≠ 0) :
    exec (.writeDebugRegister c n v) s = .next ((mailEnd s rDone).later [.censusClear n]) := by
  have h0 : n.toNat ≠ 0 := by omega
  have h3 : ¬ (0x100 ≤ n.toNat ∧ n.toNat < 0x140) := by omega
  have h4 : ¬ (0x180 ≤ n.toNat ∧ n.toNat < 0x400) := by omega
  have h5 : 0x400 ≤ n.toNat ∧ n.toNat % 8 ≠ 0 := ⟨h1, h2⟩
  simp only [exec_writeDebugRegister, execWriteDebugRegister, hd, hh, h0, h3, h4, if_pos h5, if_false, Bool.not_true, Bool.false_eq_true]
end

/-- The issue counter with a number is zero, every other as it was. -/
def clearIssues (s : State) (n : Nat) : State := { s with core := { s.core with issues := s.core.issues.set (n - 0x100) 0 } }

theorem exec_issueCounterClear_counter {n : BitVec 12} (h1 : 0x100 ≤ n.toNat) (h2 : n.toNat < 0x140) (s : State) :
    exec (.issueCounterClear n) s = .next (clearIssues s n.toNat) := by
  simp [exec_issueCounterClear, execIssueCounterClear, clearIssues, h1, h2]
/-- How an issue counter reads. -/
theorem debugWord_counter {n : Nat} (h1 : 0x100 ≤ n) (h2 : n < 0x140) (s : State) :
    debugWord s n = BitVec.ofNat 64 (s.core.issues.getD (n - 0x100) 0) := by
  have hne : ∀ k, k < 0x100 → n ≠ k := fun k hk => by omega
  have hge : ¬ n < 0xC := by omega
  simp [debugWord, hne, hge, h2]
theorem debugWord_clearIssues {n : Nat} (h1 : 0x100 ≤ n) (h2 : n < 0x140) (s : State) : debugWord (clearIssues s n) n = 0 := by
  rw [debugWord_counter h1 h2]
  by_cases hl : n - 0x100 < s.core.issues.length
  · simp [clearIssues, List.getD, hl]
  · simp [clearIssues, List.getD, hl]

/-! The census (R400). -/

/-- A count of the census by its number. -/
def IsCount (n : Nat) : Prop := 0x400 ≤ n ∧ n < 0x600 ∧ 1 ≤ n % 8 ∧ n % 8 ≤ 4
theorem isCount_of_isDebug {n : BitVec 12} (h : isDebug n = true) (h1 : 0x400 ≤ n.toNat) (h2 : n.toNat % 8 ≠ 0) : IsCount n.toNat := by
  have := (isDebug_iff n).1 h
  unfold IsCount
  omega
/-- The entry and the place in it that a count's number names. -/
def countEntry (n : Nat) : Fin 64 := fin64 ((n - 0x400) / 8)
def countPlace (n : Nat) : Fin 4 := fin4 (n % 8 - 1)
/-- Two counts of one entry and one place are one. -/
theorem count_inj {x n : Nat} (hx : IsCount x) (hn : IsCount n) (he : countEntry x = countEntry n) (hp : countPlace x = countPlace n) :
    x = n := by
  have e1 : (x - 0x400) / 8 % 64 = (n - 0x400) / 8 % 64 := congrArg Fin.val he
  have e2 : (x % 8 - 1) % 4 = (n % 8 - 1) % 4 := congrArg Fin.val hp
  unfold IsCount at hx hn
  omega
/-- The count with a number is zero. -/
def clearCount (s : State) (n : Nat) : State :=
  modDbg s fun d => { d with census := d.census.set (countEntry n) ((d.census.get (countEntry n)).set (countPlace n) 0) }

theorem exec_censusClear_count {n : BitVec 12} (h : IsCount n.toNat) (s : State) :
    exec (.censusClear n) s = .next (clearCount s n.toNat) :=
  congrArg Host.Outcome.next (if_pos h)
/-- How a count reads. -/
theorem debugWord_count {n : Nat} (h : IsCount n) (s : State) :
    debugWord s n = BitVec.ofNat 64 ((s.cl.dbg.census.get (countEntry n)).get (countPlace n)) := by
  obtain ⟨h1, -, h3, -⟩ := h
  have hne : ∀ k, k < 0x400 → n ≠ k := fun k hk => by omega
  have hge : ∀ k, k ≤ 0x400 → ¬ n < k := fun k hk => by omega
  have h8 : n % 8 ≠ 0 := by omega
  simp [debugWord, hne, hge, h8, countEntry, countPlace]
/-- No other register reads a count. -/
theorem debugWord_clearCount_of_not_count {x : Nat} (h : x < 0x200 ∨ x % 8 = 0) (s : State) (n : Nat) :
    debugWord (clearCount s n) x = debugWord s x := by
  rcases h with h | h <;> simp [debugWord, clearCount, modDbg, h]
theorem debugWord_clearCount_self {n : Nat} (h : IsCount n) (s : State) : debugWord (clearCount s n) n = 0 := by
  simp [debugWord_count h, clearCount, modDbg, Bank.get_set_eq]
theorem debugWord_clearCount_ne {x n : Nat} (hx : IsCount x) (hn : IsCount n) (h : x ≠ n) (s : State) :
    debugWord (clearCount s n) x = debugWord s x := by
  rw [debugWord_count hx, debugWord_count hx]
  by_cases he : countEntry n = countEntry x
  · have hp : countPlace n ≠ countPlace x := fun hp => h (count_inj hx hn he.symm hp.symm)
    simp [clearCount, modDbg, he, Bank.get_set_eq, Bank.get_set_ne _ _ _ _ hp]
  · simp [clearCount, modDbg, Bank.get_set_ne _ _ _ _ he]
/-- A cleared count leaves every other debug register as it reads. -/
theorem debugWord_clearCount {x n : BitVec 12} (hx : isDebug x = true) (hn : IsCount n.toNat) (h : x ≠ n) (s : State) :
    debugWord (clearCount s n.toNat) x.toNat = debugWord s x.toNat := by
  by_cases hc : x.toNat < 0x200 ∨ x.toNat % 8 = 0
  · exact debugWord_clearCount_of_not_count hc s _
  · have hx' : IsCount x.toNat := isCount_of_isDebug hx (by have := (isDebug_iff x).1 hx; omega) (by omega)
    exact debugWord_clearCount_ne hx' hn (fun e => h (BitVec.eq_of_toNat_eq e)) s

/-! Clocks and power (R402, R404). -/

theorem exec_setFrequency_refused {v : Word} (h : (v.extractLsb' 0 12).toNat % 50 ≠ 0 ∨ (v.extractLsb' 0 12).toNat < 200 ∨
    800 < (v.extractLsb' 0 12).toNat) (s : State) : exec (.setFrequency v) s = .next (mailEnd s rRefused) := if_pos h
theorem exec_setFrequency_set {v : Word} (h0 : (v.extractLsb' 0 12).toNat % 50 = 0) (h1 : 200 ≤ (v.extractLsb' 0 12).toNat)
    (h2 : (v.extractLsb' 0 12).toNat ≤ 800) (s : State) : exec (.setFrequency v) s =
      .next (mailEnd (modMgmt s fun m => { m with freqNext := some ((v.extractLsb' 0 12).toNat, switchTick s.pkg.timeb.toNat) }) rDone) :=
  if_neg (by omega)
/-- The tick of the change: the first multiple of 2^16 that is 1,000 ticks on or more. -/
theorem switchTick_spec (t : Nat) : switchTick t % 65536 = 0 ∧ t + 1000 ≤ switchTick t ∧ switchTick t < t + 1000 + 65536 := by
  unfold switchTick
  omega
theorem exec_frequencySwitch_due {s : State} {f k : Nat} (h : s.pkg.mgmt.freqNext = some (f, k)) :
    ∃ b, exec .frequencySwitch s =
      .next { s with pkg := { s.pkg with timeb := b, mgmt := { s.pkg.mgmt with freq := f, freqNext := none } } } := by
  simp [exec_frequencySwitch, execFrequencySwitch, h, modMgmt]
theorem exec_setPowerCap_refused {v : Word} (h : v.toNat < 300 ∨ 2400 < v.toNat) (s : State) :
    exec (.setPowerCap v) s = .next (mailEnd s rRefused) := if_pos h
theorem exec_setPowerCap_set {v : Word} (h1 : 300 ≤ v.toNat) (h2 : v.toNat ≤ 2400) (s : State) :
    exec (.setPowerCap v) s = .next (mailEnd (modMgmt s fun m => { m with cap := v.extractLsb' 0 12 }) rDone) :=
  if_neg (by omega)

/-! The halt (R398): a slot that stops keeps the memory and sends no message. -/

/-- What every part of a halt leaves as it was. -/
structure Quiet (s t : State) : Prop where
  mem : t.mem = s.mem
  out : t.out = s.out

theorem Quiet.refl (s : State) : Quiet s s := ⟨rfl, rfl⟩
theorem Quiet.trans {s t u : State} (a : Quiet s t) (b : Quiet t u) : Quiet s u :=
  ⟨b.mem.trans a.mem, b.out.trans a.out⟩
theorem Quiet.foldl {α : Type} (f : State → α → State) (hf : ∀ s x, Quiet s (f s x)) (l : List α) (s : State) :
    Quiet s (l.foldl f s) := foldl_keeps (Quiet s) f (fun t x h => h.trans (hf t x)) l s (Quiet.refl s)
theorem Quiet.setSlot (s : State) (i : SlotN) (x : Slot) : Quiet s (s.setSlot i x) := ⟨rfl, rfl⟩
theorem Quiet.setCore (s : State) (c : Core) : Quiet s { s with core := c } := ⟨rfl, rfl⟩
theorem Quiet.setTh (s : State) (i : SlotN) (t : Thread) : Quiet s (s.setTh i t) := Quiet.setSlot _ _ _
theorem Quiet.modTh (s : State) (i : SlotN) (f : Thread → Thread) : Quiet s (s.modTh i f) := Quiet.setTh _ _ _
theorem Quiet.sendKill (s : State) (i : SlotN) : Quiet s (sendKill s i) := ⟨rfl, rfl⟩
theorem Quiet.unresv (s : State) (r : RingN) (a b : Nat) : Quiet s (unresv s r a b) := ⟨rfl, rfl⟩
theorem Quiet.dropCmds (s : State) (i : SlotN) (n : Nat) : Quiet s (dropCmds s i n) := ⟨rfl, rfl⟩
theorem Quiet.putV (s : State) (i : SlotN) (r : VNum) (x : VReg) : Quiet s (s.putV i r x) := ⟨rfl, rfl⟩
theorem Quiet.restoreV (s : State) (i : SlotN) (vs : List (VNum × VReg)) : Quiet s (restoreV s i vs) :=
  Quiet.foldl _ (fun u (x : VNum × VReg) => Quiet.putV u i x.1 x.2) vs s
theorem Quiet.unreserve (s : State) (t : Thread) (cs : List Chunk) : Quiet s (unreserve s t cs) := by
  refine Quiet.foldl _ (fun u c => ?_) cs s
  dsimp only
  generalize hw : List.foldl _ u c.pushed = w
  have pushes : Quiet u w := by
    rw [← hw]
    refine Quiet.foldl _ (fun v x => ?_) c.pushed u
    split
    · exact Quiet.unresv _ _ _ _
    · exact Quiet.refl v
  split
  · exact pushes.trans (Quiet.unresv _ _ _ _)
  · exact pushes.trans (Quiet.unresv _ _ _ _)
  · exact pushes
theorem Quiet.squashFrom (s : State) (i : SlotN) (n : Nat) : Quiet s (squashFrom s i n) := by
  unfold Machine.squashFrom
  dsimp only
  split
  · exact Quiet.refl s
  · exact (Quiet.unreserve _ _ _).trans ((Quiet.dropCmds _ i _).trans ((Quiet.foldl _ (fun u (x : Chunk) =>
      Quiet.restoreV u i x.vsave) _ _).trans ((Quiet.setTh _ _ _).trans (Quiet.setSlot _ _ _))))
theorem Quiet.dropSync (s : State) (i : SlotN) : Quiet s (dropSync s i) := by
  unfold Machine.dropSync
  split
  · exact Quiet.refl s
  · exact (Quiet.squashFrom s i 0).trans (Quiet.setTh _ _ _)
theorem Quiet.restartPoint (s : State) (i : SlotN) : Quiet s (restartPoint s i) := by
  unfold Machine.restartPoint
  dsimp only
  split
  · exact (Quiet.squashFrom s i _).trans (Quiet.modTh _ _ _)
  · split
    · exact Quiet.dropSync s i
    · exact Quiet.modTh _ _ _
theorem Quiet.takeTrap (s : State) (i : SlotN) (t : TrapInfo) : Quiet s (takeTrap s i t) := by
  unfold Machine.takeTrap
  split
  · exact ⟨rfl, rfl⟩
  · exact Quiet.trans ((Quiet.setTh _ _ _).trans (Quiet.setSlot _ _ _)) (Quiet.sendKill _ _)
theorem Quiet.stopSlot (s : State) (i : SlotN) : Quiet s (stopSlot s i) := by
  unfold Machine.stopSlot
  dsimp only
  split
  · exact Quiet.setSlot _ _ _
  · split
    · split
      · exact Quiet.setSlot _ _ _
      · exact Quiet.setSlot _ _ _
    · split
      · exact (Quiet.modTh _ _ _).trans ((Quiet.takeTrap _ _ _).trans (Quiet.setSlot _ _ _))
      · split
        · exact Quiet.refl s
        · exact (Quiet.restartPoint s i).trans ((Quiet.modTh _ _ _).trans ((Quiet.setSlot _ _ _).trans (Quiet.sendKill _ _)))
theorem Quiet.haltCore (s : State) : Quiet s (haltCore s) := by
  unfold Machine.haltCore
  exact (Quiet.foldl Machine.stopSlot Quiet.stopSlot allSlots s).trans (Quiet.setCore _ _)
/-- A cross-trigger tells the cluster's other cores, and nothing else leaves (R398). -/
theorem crossTrigger_out (s : State) : (crossTrigger s).out = s.out ++ [.halt s.core.id] := by
  simp only [crossTrigger, State.send_out, (Quiet.haltCore s).out]
theorem crossTrigger_mem (s : State) : (crossTrigger s).mem = s.mem := by
  simp only [crossTrigger, State.send_mem, (Quiet.haltCore s).mem]
theorem crossTrigger_halted (s : State) : (crossTrigger s).core.halted = true ∧ (crossTrigger s).cl.dbg.halted = true := by
  simp only [crossTrigger, haltCore, State.send_core, and_self]

/-! The release (R398). -/

/-- A slot that only the halt has stopped runs again. -/
def released (x : Slot) : Slot := { x with stopped := x.stop && x.stopped, halting := x.stop && x.halting }
/-- Every listed slot through f. -/
def eachSlot (f : Slot → Slot) (l : List SlotN) (s : State) : State := l.foldl (fun s i => s.setSlot i (f (s.slot i))) s

/-- Only the slots change. -/
theorem eachSlot_rest (f : Slot → Slot) (l : List SlotN) (s : State) : eachSlot f l s = { s with slots := (eachSlot f l s).slots } := by
  induction l generalizing s with
  | nil => rfl
  | cons i l ih => exact ih (s.setSlot i (f (s.slot i)))
theorem eachSlot_slot_of_not_mem (f : Slot → Slot) {j : SlotN} (l : List SlotN) (s : State) (h : j ∉ l) :
    (eachSlot f l s).slot j = s.slot j := by
  induction l generalizing s with
  | nil => rfl
  | cons i l ih =>
    rw [List.mem_cons, not_or] at h
    exact (ih _ h.2).trans (State.slot_setSlot_ne _ _ _ _ h.1)
theorem eachSlot_slot (f : Slot → Slot) {j : SlotN} {l : List SlotN} (hn : l.Nodup) (hj : j ∈ l) (s : State) :
    (eachSlot f l s).slot j = f (s.slot j) := by
  induction l generalizing s with
  | nil => cases hj
  | cons i l ih =>
    rw [List.nodup_cons] at hn
    rw [eachSlot, List.foldl_cons, ← eachSlot]
    by_cases h : j = i
    · subst h
      rw [eachSlot_slot_of_not_mem f l _ hn.1, State.slot_setSlot_self]
    · rw [ih hn.2 ((List.mem_cons.1 hj).resolve_left h), State.slot_setSlot_ne _ _ _ _ h]

/-- The state of the machine when the halt is released. -/
def releasedState (s : State) : State :=
  { s with
    slots := (eachSlot released allSlots s).slots
    core := { s.core with
      halted := s.core.contained || s.part.contained
      priv := { s.core.priv with irqpend := s.core.priv.irqpend ||| 4 } }
    cl := { s.cl with dbg := { s.cl.dbg with halted := false } }
    out := s.out ++ [.release s.core.id] }
theorem exec_release_next (s : State) : exec .release s = .next (releasedState s) := by
  have rest := eachSlot_rest released allSlots s
  unfold eachSlot released at rest
  simp only [exec_release, execRelease, releasedState, eachSlot, released]
  rw [rest]
  generalize (List.foldl _ s allSlots).slots = b
  rfl
theorem releasedState_slot (s : State) (i : SlotN) : (releasedState s).slot i = released (s.slot i) := by
  have h : (eachSlot released allSlots s).slot i = released (s.slot i) :=
    eachSlot_slot released (List.nodup_finRange 16) (List.mem_finRange i) s
  simp only [State.slot, releasedState] at h ⊢
  exact h

/-! Attestation (R406). -/

/-- Little-endian bytes past the value are zero. -/
theorem leBytes_padded : ∀ (n k x : Nat), x < 256 ^ n → leBytes (n + k) x = leBytes n x ++ List.replicate k 0
  | 0, k, x, h => by
    obtain rfl : x = 0 := by simpa using h
    rw [Nat.zero_add]
    induction k with
    | zero => rfl
    | succ k ih => simp only [leBytes, List.replicate_succ, Nat.zero_div, ih]; rfl
  | n + 1, k, x, h => by
    have hx : x / 256 < 256 ^ n := Nat.div_lt_of_lt_mul (by rw [Nat.pow_succ'] at h; exact h)
    rw [Nat.add_right_comm]
    simp only [leBytes, leBytes_padded n k _ hx, List.cons_append]
theorem leBytes_length : ∀ n x : Nat, (leBytes n x).length = n
  | 0, _ => rfl
  | n + 1, x => by simp [leBytes, leBytes_length n]
/-- What the device signs: the nonce, both digests, the package's number, the leaf. -/
def reportBody (m : Mgmt) : List Byte :=
  m.report.take 32 ++ leBytes 32 m.fwDigest.toNat ++ leBytes 32 (digest m.configBytes).toNat ++ (m.pkg :: List.replicate 7 0) ++
    leBytes 8 m.leaf
theorem attestBody_report {s : State} (h : s.pkg.mgmt.leaf < 2 ^ 20) :
    s.pkg.mgmt.report.take 32 ++ attestBody s s.pkg.mgmt.leaf = reportBody s.pkg.mgmt := by
  have leaf : padTo 8 (leBytes 4 s.pkg.mgmt.leaf) = leBytes 8 s.pkg.mgmt.leaf := by
    rw [leBytes_padded 4 4 _ (by omega), padTo, leBytes_length]
  have pkg : padTo 8 (leBytes 1 s.pkg.mgmt.pkg.toNat) = s.pkg.mgmt.pkg :: List.replicate 7 0 := by
    simp [padTo, leBytes]
  simp only [attestBody, reportBody, leaf, pkg, List.append_assoc]
theorem reportBody_length {m : Mgmt} (h : m.report.length = 4096) : (reportBody m).length = 112 := by
  simp [reportBody, leBytes_length, h]
theorem exec_attest_signs {s : State} (h : s.pkg.mgmt.leaf < 2 ^ 20) :
    exec .attest s = .next (mailEnd (modMgmt s fun m => { m with
      leaf := m.leaf + 1
      report := putReport m.report 0 (reportBody m ++ attestSign m.leaf (reportBody m)) }) rDone) := by
  simp only [exec_attest, execAttest, if_neg (Nat.not_le.2 h), attestBody_report h, modMgmt]
theorem exec_attest_exhausted {s : State} (h : 2 ^ 20 ≤ s.pkg.mgmt.leaf) : exec .attest s = .next (mailEnd s rExhausted) := if_pos h

/-- Bytes put into a report that holds them stand there, and its length stays. -/
theorem putReport_length {l bs : List Byte} {k : Nat} (h : k + bs.length ≤ l.length) : (putReport l k bs).length = l.length := by
  simp only [putReport, List.length_append, List.length_take, List.length_drop]
  omega
theorem putReport_read {l bs : List Byte} {k : Nat} (h : k ≤ l.length) : ((putReport l k bs).drop k).take bs.length = bs := by
  have hk : (l.take k).length = k := by simp [h]
  unfold putReport
  rw [List.append_assoc, List.drop_left' hk, List.take_left]

/-! Boot (R405, R407). -/

theorem exec_signatureVerify_stage {s : State} (h : s.pkg.mgmt.boot = 1) : let m := s.pkg.mgmt
    exec .signatureVerify s = .next (modMgmt s fun _ => if lmsVerify m.romKey m.imageA m.sigA then { m with boot := 2 }
      else if lmsVerify m.romKey m.imageB m.sigB then { m with boot := 2, fwDigest := digest m.imageB } else { m with boot := 0xE1 }) := by
  intro m
  rw [exec_signatureVerify, execSignatureVerify, if_neg (not_not_intro h)]
  by_cases imageA : lmsVerify s.pkg.mgmt.romKey s.pkg.mgmt.imageA s.pkg.mgmt.sigA = true
  · simp only [m, imageA, if_true]
    rfl
  · by_cases imageB : lmsVerify s.pkg.mgmt.romKey s.pkg.mgmt.imageB s.pkg.mgmt.sigB = true
    · simp only [m, imageA, imageB, if_true, if_false, Bool.false_eq_true]
      rfl
    · simp only [m, imageA, imageB, if_false, Bool.false_eq_true]
      rfl
theorem exec_newImage_failed {s : State} (h : s.pkg.mgmt.boot = bootFailed) (x : List (BitVec 8)) :
    exec (.newImage x) s = .next (modMgmt s fun m => { m with boot := 1, imageA := x, fwDigest := digest x }) :=
  if_pos h
theorem exec_hbmLinkTraining_stage {s : State} (h : s.pkg.mgmt.boot = 2) : ∃ t, exec .hbmLinkTraining s = .next t ∧
    t.pkg.mgmt.boot = 3 ∧ t.pkg.links = Bank.fill _ _ .reset ∧ t.slots = s.slots ∧ t.core = s.core := by
  rw [exec_hbmLinkTraining, execHbmLinkTraining, if_neg (not_not_intro h)]
  exact ⟨_, rfl, rfl, rfl, rfl, rfl⟩
theorem exec_configurationLoad_refused {s : State} (h : s.pkg.mgmt.boot = 3)
    (hv : lmsVerify s.pkg.mgmt.romKey s.pkg.mgmt.configBytes s.pkg.mgmt.configSig = false) :
    exec .configurationLoad s = .next (modMgmt s fun m => { m with boot := 4, result := rRefused }) := by
  rw [exec_configurationLoad, execConfigurationLoad, if_neg (not_not_intro h), hv]
  rfl
theorem exec_configurationLoad_starts {s : State} {c : PartCfg} (h : s.pkg.mgmt.boot = 3) (hc : s.pkg.mgmt.config = some c)
    (hv : lmsVerify s.pkg.mgmt.romKey s.pkg.mgmt.configBytes s.pkg.mgmt.configSig = true) :
    exec .configurationLoad s = .next (startRanger (setBoot { s with part := { s.part with cfg := some c } } 4) c) := by
  simp [exec_configurationLoad, execConfigurationLoad, h, hv, hc]
/-- Slot 15 as firmware starts it. -/
theorem startRanger_slot (s : State) (c : PartCfg) : (startRanger s c).slot 15 = { Slot.vacant with
    occ := true
    th := Thread.start .ranger c.rgPc c.spaceLo c.rgReach { RegFile.zero with k := ⟨[c.rk0, 0, 0, 0xFFFF], rfl⟩ } 0 } :=
  State.slot_setSlot_self _ _ _
theorem exec_launchPortsOpen_stage {s : State} (h : s.pkg.mgmt.boot = 4) (hc : s.part.cfg.isSome = true) :
    exec .launchPortsOpen s = .next (setBoot s 5) := if_pos ⟨h, hc⟩

/-! The obligation. -/

/-- Settles O53: each clause is the equation of its step in its case. The steps of duty, droop and power-on reset are read off
their meanings; a cross-trigger rests on what every part of a halt leaves as it was (`Quiet`), a release on the slots one by one. -/
theorem theBoard : Obligations.TheBoard := by
  unfold Obligations.TheBoard
  intro s
  refine ⟨fun v => ?mailbox, fun c n v => ?debugRegisters, fun v => ?clocks, fun f k h => ?switch,
    fun d => ⟨_, rfl, rfl⟩, ⟨_, rfl, rfl⟩, ⟨_, rfl, rfl⟩, ?crossTrigger, ?release,
    fun hl hr => ?attest, fun hl => ⟨_, exec_attest_exhausted hl, rfl⟩,
    ⟨_, rfl, rfl, rfl, rfl, rfl, rfl, rfl, rfl, rfl, rfl, rfl⟩,
    fun h => ⟨_, exec_signatureVerify_stage h, rfl⟩, fun h x => ⟨_, exec_newImage_failed h x, rfl⟩,
    fun h => ?linkTraining, fun h => ?configuration, fun h hc => ⟨_, exec_launchPortsOpen_stage h hc, rfl⟩,
    fun k hr v => ?report⟩
  case mailbox =>
    refine ⟨rfl, rfl, ?_, fun hb => ⟨exec_mailCmd_busy hb v, exec_mailData_busy hb v⟩,
      fun hb => ⟨⟨_, exec_mailData_idle hb v, rfl⟩, ?_⟩⟩
    · rintro r (rfl | rfl | rfl) <;> rfl
    · have cmd := exec_mailCmd_idle hb v
      exact ⟨fun h => cmd.trans (congrArg _ (mailStart_readDebug h s)), fun h => cmd.trans (congrArg _ (mailStart_writeDebug h s)),
        fun h => cmd.trans (congrArg _ (mailStart_frequency h s)), fun h => cmd.trans (congrArg _ (mailStart_powerCap h s)),
        fun h => cmd.trans (congrArg _ (mailStart_attest h s)), fun h => ⟨_, cmd.trans (congrArg _ (mailStart_refused h s)), rfl⟩⟩
  case debugRegisters =>
    refine ⟨fun hd => ⟨⟨_, exec_readDebug_unknown hd c s, rfl⟩, _, exec_writeDebug_unknown hd c v s, rfl⟩,
      fun hd hh => ⟨⟨_, exec_readDebug_held hd hh, rfl⟩, fun w => ?_, fun h0 => ⟨_, exec_writeDebug_dbgctl hd hh v h0, ?_⟩,
        fun h1 h2 => ⟨_, exec_writeDebug_counter hd hh v h1 h2, rfl⟩, fun h1 h2 => ⟨_, exec_writeDebug_census hd hh v h1 h2, rfl⟩⟩,
      fun h1 h2 => ⟨_, exec_issueCounterClear_counter h1 h2 s, rfl, debugWord_clearIssues h1 h2 s⟩, fun hd h1 h2 => ?_⟩
    · have w' := holdsWrite_of_isDebug hd w
      refine ⟨_, exec_writeDebug_holds hd hh v w', rfl, rfl, (debugWord_debugWrite _ w' v).trans ?_⟩
      simp only [← BitVec.toNat_inj]
      rfl
    · exact (List.append_assoc _ _ _).symm
    · have hn := isCount_of_isDebug hd h1 h2
      exact ⟨_, exec_censusClear_count hn s, debugWord_clearCount_self hn s, fun x hx hne => debugWord_clearCount hx hn hne s⟩
  case clocks =>
    exact ⟨fun h => ⟨_, exec_setFrequency_refused h s, rfl⟩,
      fun h0 h1 h2 => ⟨_, _, exec_setFrequency_set h0 h1 h2 s, rfl, switchTick_spec _⟩,
      fun h => ⟨_, exec_setPowerCap_refused h s, rfl⟩, fun h1 h2 => ⟨_, exec_setPowerCap_set h1 h2 s, rfl⟩⟩
  case switch =>
    obtain ⟨b, hb⟩ := exec_frequencySwitch_due h
    exact ⟨_, hb, rfl, rfl, rfl, rfl⟩
  case crossTrigger =>
    obtain ⟨core, cluster⟩ := crossTrigger_halted s
    exact ⟨_, exec_xtrig s, core, cluster, crossTrigger_out s, by rw [crossTrigger_mem]; exact SameMem.refl _⟩
  case release => exact ⟨_, exec_release_next s, rfl, rfl, rfl, rfl, releasedState_slot s⟩
  case attest =>
    have read := putReport_read (k := 0) (bs := reportBody s.pkg.mgmt ++ attestSign s.pkg.mgmt.leaf (reportBody s.pkg.mgmt))
      (Nat.zero_le s.pkg.mgmt.report.length)
    rw [List.length_append, reportBody_length hr] at read
    exact ⟨_, _, exec_attest_signs hl, rfl, read⟩
  case linkTraining =>
    obtain ⟨t, ht, boot, links, rest⟩ := exec_hbmLinkTraining_stage h
    exact ⟨t, ht, boot, fun l => by rw [getLink, links]; exact Bank.get_fill _ _, rest⟩
  case configuration =>
    refine ⟨fun hv => ⟨_, exec_configurationLoad_refused h hv, rfl⟩,
      fun c hc hv => ⟨_, exec_configurationLoad_starts h hc hv, rfl, rfl, ?_⟩⟩
    unfold State.th
    rw [startRanger_slot]
    exact ⟨rfl, rfl, rfl, rfl, rfl, rfl⟩
  case report =>
    have hk : 8 * k.val + (leBytes 8 v.toNat).length ≤ s.pkg.mgmt.report.length := by rw [leBytes_length, hr]; omega
    have read := putReport_read (bs := leBytes 8 v.toNat) (Nat.le_of_add_right_le hk)
    rw [leBytes_length] at read
    exact ⟨_, _, rfl, rfl, (putReport_length hk).trans hr, read⟩

end Sys2Proof.Machine
end

section
/-! Other threads (R34, R48, R118, R321). A packet outside the ranger's slot leaves the registers, the PC and the occupancy of
every other slot. Every operation that a packet uses is shown once to keep a state apart from the others (`Apart`); a body keeps
apart if its answer does (`KeepsApart`); the frame of runPacket carries that to the next state (`Confined`). -/
namespace Sys2Proof.Machine

/-! States. -/

/-- No data breakpoint halts the cluster (R397). -/
def NoHalt (s : State) : Prop := s.cl.dbg.drctl.extractLsb' 36 2 = 0

/-- The slot in hand stands, of every other slot the registers, the PC and the occupancy; no data breakpoint halts. -/
structure Apart (s t : State) : Prop where
  cur : t.ctl.cur = s.ctl.cur
  noHalt : NoHalt t
  others : ∀ j, j ≠ s.ctl.cur → (t.th j).regs = (s.th j).regs ∧ (t.th j).pc = (s.th j).pc ∧ (t.slot j).occ = (s.slot j).occ

namespace Apart

theorem start {s : State} (n : NoHalt s) : Apart s s := ⟨rfl, n, fun _ _ => ⟨rfl, rfl, rfl⟩⟩

section
variable {s u v : State}

/-- What touches no slot, neither the slot in hand nor the breakpoints, keeps apart. -/
theorem rest (h : Apart s u) (c : v.ctl.cur = u.ctl.cur) (d : v.cl.dbg.drctl = u.cl.dbg.drctl) (e : v.slots = u.slots) : Apart s v where
  cur := c.trans h.cur
  noHalt := by
    unfold NoHalt
    rw [d]
    exact h.noHalt
  others j hj := by
    unfold State.th State.slot
    rw [e]
    exact h.others j hj
theorem trans (h : Apart s u) (k : Apart u v) : Apart s v where
  cur := k.cur.trans h.cur
  noHalt := k.noHalt
  others j hj := by
    obtain ⟨r, p, o⟩ := h.others j hj
    obtain ⟨r', p', o'⟩ := k.others j (by rw [h.cur]; exact hj)
    exact ⟨r'.trans r, p'.trans p, o'.trans o⟩
theorem ite (h : Apart s u) (k : Apart s v) {c : Prop} [Decidable c] : Apart s (if c then u else v) := by
  split
  · exact h
  · exact k
theorem ofBeside (k : Beside u v) (h : Apart s u) : Apart s v := h.trans
  { cur := k.cur
    noHalt := by
      unfold NoHalt
      rw [k.cl]
      exact h.noHalt
    others := fun j hj => by
      unfold State.th
      rw [k.slots j hj]
      exact ⟨rfl, rfl, rfl⟩ }

/-- A slot may be written freely if it is the one in hand, and else where registers, PC and occupancy are kept. -/
theorem setSlot (h : Apart s u) {i : SlotN} {x : Slot}
    (hx : i ≠ s.ctl.cur → x.th.regs = (u.th i).regs ∧ x.th.pc = (u.th i).pc ∧ x.occ = (u.slot i).occ) : Apart s (u.setSlot i x) where
  cur := h.cur
  noHalt := h.noHalt
  others j hj := by
    by_cases e : j = i
    · subst e
      obtain ⟨r, p, o⟩ := h.others j hj
      obtain ⟨r', p', o'⟩ := hx hj
      unfold State.th
      rw [State.slot_setSlot_self]
      exact ⟨r'.trans r, p'.trans p, o'.trans o⟩
    · unfold State.th
      rw [State.slot_setSlot_ne _ _ _ _ e]
      exact h.others j hj
theorem setSlot_cur (h : Apart s u) {i : SlotN} (hi : i = s.ctl.cur) {x : Slot} : Apart s (u.setSlot i x) :=
  h.setSlot fun hn => absurd hi hn
theorem setTh_cur (h : Apart s u) {i : SlotN} (hi : i = s.ctl.cur) {t : Thread} : Apart s (u.setTh i t) := h.setSlot_cur hi
theorem modTh_cur (h : Apart s u) {i : SlotN} (hi : i = s.ctl.cur) {f : Thread → Thread} : Apart s (u.modTh i f) := h.setTh_cur hi
/-- A thread of any slot whose registers and PC are kept. -/
theorem modTh (h : Apart s u) {i : SlotN} {f : Thread → Thread} (hf : ∀ t, (f t).regs = t.regs ∧ (f t).pc = t.pc) :
    Apart s (u.modTh i f) := h.setSlot fun _ => ⟨(hf _).1, (hf _).2, rfl⟩

/-! The core, the cluster, the package, messages and memory. -/

theorem setCore (h : Apart s u) {c : Core} : Apart s { u with core := c } := h.rest rfl rfl rfl
theorem setCl (h : Apart s u) {c : Cluster} (d : c.dbg.drctl = u.cl.dbg.drctl := by rfl) : Apart s { u with cl := c } := h.rest rfl d rfl
theorem setPart (h : Apart s u) {p : Part} : Apart s { u with part := p } := h.rest rfl rfl rfl
theorem setPkg (h : Apart s u) {p : Pkg} : Apart s { u with pkg := p } := h.rest rfl rfl rfl
theorem setMem (h : Apart s u) {m : Memory} : Apart s { u with mem := m } := h.rest rfl rfl rfl
theorem setAgenda (h : Apart s u) {es : List Instr} : Apart s { u with agenda := es } := h.rest rfl rfl rfl
theorem setCtl (h : Apart s u) {c : Ctl} (e : c.cur = u.ctl.cur := by rfl) : Apart s { u with ctl := c } := h.rest e rfl rfl
theorem later (h : Apart s u) {es : List Instr} : Apart s (u.later es) := h.rest rfl rfl rfl
theorem send (h : Apart s u) {m : Msg} : Apart s (u.send m) := h.rest rfl rfl rfl
theorem putV (h : Apart s u) {i : SlotN} {r : VNum} {x : VReg} : Apart s (u.putV i r x) := h.rest rfl rfl rfl
theorem fresh (h : Apart s u) : Apart s u.fresh.2 := h.rest rfl rfl rfl
theorem setRing (h : Apart s u) {r : RingN} {g : Ring} : Apart s (Machine.setRing u r g) := h.rest rfl rfl rfl
theorem unresv (h : Apart s u) {r : RingN} {a b : Nat} : Apart s (Machine.unresv u r a b) := h.rest rfl rfl rfl
theorem readTime (h : Apart s u) : Apart s (Machine.readTime u).2 := h.rest rfl rfl rfl
theorem readCycles (h : Apart s u) : Apart s (Machine.readCycles u).2 := h.rest rfl rfl rfl
theorem passTurn (h : Apart s u) : Apart s (Machine.passTurn u) := h.rest rfl rfl rfl
theorem sendKill (h : Apart s u) {i : SlotN} : Apart s (Machine.sendKill u i) := h.later
/-- A write marks the chunks that have read its lines; no thread's registers or PC are among what it changes. -/
theorem markWrite (h : Apart s u) {b : Option SlotN} {ls : List Nat} : Apart s (Machine.markWrite u b ls) := h.trans
  { cur := rfl
    noHalt := h.noHalt
    others := fun j _ => by
      have e : (Machine.markWrite u b ls).slot j = if b.map (·.val) = some j.val then u.slot j else { u.slot j with
          th := { u.th j with ended := (u.th j).ended.map (markChunk ls), cur := markChunk ls (u.th j).cur } } := by
        simp [Machine.markWrite, State.slot, State.th, Bank.get]
      unfold State.th
      rw [e]
      split <;> exact ⟨rfl, rfl, rfl⟩ }
/-- A delivered value goes to a far table or an image: registers take it at the foot (R36). -/
theorem deliver (h : Apart s u) {r : FarRef} {v : FarVal} : Apart s (u.deliver r v) := by
  unfold State.deliver
  dsimp only
  split
  · exact h.setSlot fun _ => ⟨rfl, rfl, rfl⟩
  · exact h.rest rfl rfl rfl

/-! The thread in hand. -/

theorem setMe (h : Apart s u) {t : Thread} : Apart s (u.setMe t) := h.setTh_cur h.cur
theorem modMe (h : Apart s u) {f : Thread → Thread} : Apart s (u.modMe f) := h.setMe
theorem modRegs (h : Apart s u) {f : RegFile → RegFile} : Apart s (u.modRegs f) := h.modMe
theorem wrT (h : Apart s u) {r : SReg} {v : Word} {p : Bool} {g : Tag} : Apart s (u.wrT r v p g) := h.modRegs
theorem wr (h : Apart s u) {r : SReg} {v : Word} {p : Bool} : Apart s (u.wr r v p) := h.wrT
theorem wq (h : Apart s u) {r : PReg} {m : Word} {p : Bool} : Apart s (u.wq r m p) := h.modRegs
theorem wk (h : Apart s u) {r : KReg} {x : BitVec 16} : Apart s (u.wk r x) := h.modRegs
theorem noteV (h : Apart s u) {r : VNum} : Apart s (u.noteV r) := h.modMe
theorem wv (h : Apart s u) {r : VNum} {x : VVal} : Apart s (u.wv r x) := h.noteV.modMe
theorem farS (h : Apart s u) {d : SReg} {v : Option FarVal} {fl : Flags} {k : Bool} : Apart s (u.farS d v fl k) := h.modMe
theorem farV (h : Apart s u) {d : VNum} {v : Option FarVal} {fl : Flags} : Apart s (u.farV d v fl) := h.noteV.modMe
theorem markFp (h : Apart s u) : Apart s u.markFp := h.modMe
theorem modCur (h : Apart s u) {f : Chunk → Chunk} : Apart s (Machine.modCur u f) := h.modMe
theorem setBinding (h : Apart s u) {k : Fin 4} {b : Binding} : Apart s (u.setBinding k b) := h.modMe
theorem opaqueTags (h : Apart s u) {ts : List Tag} : Apart s (Machine.opaqueTags u ts) := h.ofBeside (opaqueTags_spec u ts).1
theorem useRegs (h : Apart s u) {rs : List SReg} : Apart s (Machine.useRegs u rs) := h.opaqueTags
theorem checkUpd (h : Apart s u) {x : CheckUpd} : Apart s (Machine.checkUpd u x) := h.modMe
theorem checkIf (h : Apart s u) {c : Bool} {x : CheckUpd} : Apart s (Machine.checkIf u c x) := h.checkUpd.ite h
theorem orFlags (h : Apart s u) {fl : Flags} : Apart s (Machine.orFlags u fl) := h.modRegs
theorem stepSeed (h : Apart s u) {k : Hdr} {m : RMode} {n : Nat} : Apart s (Machine.stepSeed u k m n) :=
  h.modRegs.ite h
theorem recordRead (h : Apart s u) {as : List Nat} {va : Nat} {p : Bool} : Apart s (Machine.recordRead u as va p) := by
  unfold Machine.recordRead
  exact h.modCur
theorem recordReads (h : Apart s u) {xs : List (List Nat × Nat)} : Apart s (Machine.recordReads u xs) := by
  unfold Machine.recordReads
  exact h.modCur
theorem addHeld (h : Apart s u) {as : List Nat} {va : Nat} {d : List Byte} {p : Bool} {g : Tag} : Apart s (Machine.addHeld u as va d p g) :=
  h.modCur
theorem loadScalar (h : Apart s u) {as : List Nat} {va : Nat} {t : IType} : Apart s (Machine.loadScalar u as va t).2.2 := by
  unfold Machine.loadScalar
  dsimp only
  split
  · split
    · exact h.modMe.recordRead
    · exact h.recordRead
  · exact h.recordRead.opaqueTags
theorem loadPlain (h : Apart s u) {as : List Nat} {va : Nat} : Apart s (Machine.loadPlain u as va).2 := h.recordRead.opaqueTags
theorem addParts (h : Apart s u) {va : Nat} {ps : List (Nat × List Byte × Bool)} : Apart s (Machine.addParts u va ps) :=
  foldl_keeps (Apart s) _ (fun _ _ k => k.addHeld) _ _ h
theorem noteTrans (h : Apart s u) {vas : List Nat} : Apart s (Machine.noteTrans u vas) := h.modCur
theorem addElems (h : Apart s u) {vas : List Nat} {ps : List (Nat × List Byte × Bool)} : Apart s (Machine.addElems u vas ps) :=
  h.addParts.noteTrans.checkIf
theorem narrowing (h : Apart s u) {p : Pairing} : Apart s (Machine.narrowing p u) := by
  unfold Machine.narrowing
  split
  · exact h
  · exact h.setCtl
theorem addConstr (h : Apart s u) {c : Constr} : Apart s (Machine.addConstr u c) := h.modMe
theorem cmpSym (h : Apart s u) {k : Hdr} {cd : Cond} {un : Bool} {ta tb : Tag} {a b : SVal} {r : Bool} :
    Apart s (Machine.cmpSym u k cd un ta tb a b r) := by
  unfold Machine.cmpSym
  split
  · exact h.opaqueTags
  · split
    · exact h
    · split
      · exact h.addConstr
      · exact h.addConstr
      · exact h.opaqueTags
theorem useGov (h : Apart s u) {k : Hdr} {w : Nat} {rs : List SReg} : Apart s (Machine.useGov u k w rs) := h.useRegs.ite h
theorem setUser (h : Apart s u) {x : BitVec 12} {v : Word} : Apart s (Machine.setUser u x v) :=
  h.modRegs.ite (h.modRegs.ite (h.modRegs.ite (h.checkUpd.ite (h.modCur.ite h))))


/-! Chunks: squashes, commits, singletons (R280, R295, R297, R300). The chunk of the slot in hand alone gives registers back. -/

theorem restoreV (h : Apart s u) {i : SlotN} {vs : List (VNum × VReg)} : Apart s (Machine.restoreV u i vs) :=
  foldl_keeps (Apart s) _ (fun _ _ k => k.putV) _ _ h
theorem dropCmds (h : Apart s u) {i : SlotN} {n : Nat} : Apart s (Machine.dropCmds u i n) := h.setCore
theorem unreserve (h : Apart s u) {t : Thread} {cs : List Chunk} : Apart s (Machine.unreserve u t cs) := by
  unfold Machine.unreserve
  refine foldl_keeps (Apart s) _ (fun v c k => ?_) _ _ h
  have pushed : Apart s (c.pushed.foldl (fun s x => match (t.binds.get x.1).kind with
      | .push r => Machine.unresv s r 1 0
      | _ => s) v) := by
    refine foldl_keeps (Apart s) _ (fun w x k => ?_) _ _ k
    split
    · exact k.unresv
    · exact k
  dsimp only
  split
  · exact pushed.unresv
  · exact pushed.unresv
  · exact pushed
theorem squashFrom (h : Apart s u) {i : SlotN} (hi : i = s.ctl.cur) {n : Nat} : Apart s (Machine.squashFrom u i n) := by
  unfold Machine.squashFrom
  dsimp only
  split
  · exact h
  · exact ((foldl_keeps (Apart s) _ (fun _ _ k => k.restoreV) _ _ h.unreserve.dropCmds).setTh_cur hi).setSlot_cur hi
theorem regionAbort (h : Apart s u) {i : SlotN} (hi : i = s.ctl.cur) {x : Nat} : Apart s (Machine.regionAbort u i x) :=
  ((h.squashFrom hi).setTh_cur hi).ite ((h.squashFrom hi).setTh_cur hi)
theorem parkAt (h : Apart s u) {i : SlotN} {p : Park} : Apart s (Machine.parkAt u i p) := h.modTh fun _ => ⟨rfl, rfl⟩
theorem squashCount (h : Apart s u) {i : SlotN} (hi : i = s.ctl.cur) {n k : Nat} : Apart s (Machine.squashCount u i n k) := by
  have squashed : Apart s ((Machine.squashFrom u i 0).modTh i fun t => { t with squash := (u.th i).squash + 1 }) :=
    (h.squashFrom hi).modTh_cur hi
  unfold Machine.squashCount
  split
  · exact h.squashFrom hi
  · split
    · exact h.regionAbort hi
    · split
      · exact h.squashFrom hi
      · dsimp only
        split
        · exact squashed.parkAt.setPkg
        · exact squashed
theorem repair (h : Apart s u) {i : SlotN} (hi : i = s.ctl.cur) {c : Chunk} : Apart s (Machine.repair u i c).1 := by
  unfold Machine.repair
  dsimp only
  split <;> dsimp only
  · exact h.modTh_cur hi
  · exact (h.squashFrom hi).modTh_cur hi
theorem commitStore (h : Apart s u) {i : SlotN} {x : Held} : Apart s (Machine.commitStore i u x) := by
  unfold Machine.commitStore
  split
  · exact h.modTh fun _ => ⟨rfl, rfl⟩
  · exact h.setMem
theorem pushElem (h : Apart s u) {r : RingN} {ws : List (List Byte × Bool)} {e g : Bool} : Apart s (Machine.pushElem u r ws e g) :=
  h.setMem.setRing.markWrite
theorem popHead (h : Apart s u) {r : RingN} : Apart s (Machine.popHead u r) := h.setRing
theorem commitStreams (h : Apart s u) {i : SlotN} {c : Chunk} : Apart s (Machine.commitStreams u i c) := by
  unfold Machine.commitStreams
  refine foldl_keeps (Apart s) _ (fun v x k => ?_) _ _ (foldl_keeps (Apart s) _ (fun v x k => ?_) _ _ h)
  · split
    · exact k.pushElem.unresv
    · exact k
  · split
    · exact k.popHead.unresv
    · exact k
theorem commitAct (h : Apart s u) {c : Chunk} : Apart s (Machine.commitAct u c).1 := by
  unfold Machine.commitAct
  split
  · exact h
  · exact h.pushElem.unresv
  · dsimp only
    split
    · exact h.popHead.unresv.deliver
    · exact h.popHead.unresv.deliver
theorem applyChunk (h : Apart s u) {i : SlotN} (hi : i = s.ctl.cur) {c : Chunk} : Apart s (Machine.applyChunk u i c) := by
  have performed : Apart s (Machine.commitAct (Machine.commitStreams (c.stores.foldl (Machine.commitStore i) u) i c) c).1 :=
    (foldl_keeps (Apart s) _ (fun _ _ k => k.commitStore) _ _ h).commitStreams.commitAct
  have ready : Apart s (readyCmds (Machine.commitAct (Machine.commitStreams (c.stores.foldl (Machine.commitStore i) u) i c) c).1 i c.no) :=
    performed.setCore
  unfold Machine.applyChunk
  dsimp only
  split
  · exact (ready.markWrite.later.modTh_cur hi).setPkg
  · exact ready.markWrite.later.modTh_cur hi
theorem commitChunk (h : Apart s u) {i : SlotN} (hi : i = s.ctl.cur) : Apart s (Machine.commitChunk u i).1 := by
  unfold Machine.commitChunk
  dsimp only
  split
  · exact h.applyChunk hi
  · exact (h.repair hi).applyChunk hi
  · exact h.squashCount hi
theorem transmit (h : Apart s u) {d : BitVec 8} {m : E2EMsg} : Apart s (Machine.transmit u d m) := by
  unfold Machine.transmit
  split
  · exact h.setPkg.send.send
  · exact h
theorem sendE2E (h : Apart s u) {d : BitVec 8} {n : BitVec 2} {b : E2EBody} : Apart s (Machine.sendE2E u d n b) :=
  h.setPkg.setPkg.transmit
theorem waitedWord (h : Apart s u) {b : Issuer} {a : Nat} {c : CoreId} {i : SlotN} : Apart s (Machine.waitedWord u b a c i) := by
  unfold Machine.waitedWord
  cases b with
  | slot => exact h.later
  | core => exact h.later.ite h.send
  | away => exact h.sendE2E
theorem wakeWaiter (h : Apart s u) {b : Issuer} {a : Nat} : Apart s (Machine.wakeWaiter u b a) := by
  unfold Machine.wakeWaiter
  split
  · exact h
  · exact h.setCl.waitedWord
theorem performHome (h : Apart s u) {b : Issuer} {op : HomeOp} : Apart s (Machine.performHome u b op) := by
  have written : Apart s (Machine.markWrite { u with mem := homeMem u.mem op } none (opLines op)) := h.setMem.markWrite
  exact written.wakeWaiter.ite written
theorem checkNow (h : Apart s u) {i : SlotN} {x : CheckUpd} : Apart s (Machine.checkNow u i x) := h.modTh fun _ => ⟨rfl, rfl⟩
theorem opCheck (h : Apart s u) {i : SlotN} {v : SVal} {b : Bool} : Apart s (Machine.opCheck u i v b) :=
  (h.checkNow.ite h).checkNow.ite (h.checkNow.ite h)
theorem settleOwn (h : Apart s u) {i : SlotN} {c : Chunk} : Apart s (Machine.settleOwn u i c) :=
  h.commitStreams.modTh fun _ => ⟨rfl, rfl⟩

/-! Streams, rings, the window, matrix and engine queues. -/

theorem wvb (h : Apart s u) {k : Hdr} {r : VNum} {x : VVal} : Apart s (u.wvb k r x) := by
  unfold State.wvb
  split
  · exact h.wv
  · dsimp only
    split
    · exact h.ite h.checkIf.modCur.setRing.setBinding
    · split
      · exact h
      · split
        · exact h.addParts.checkIf.setBinding
        · exact h
    · exact h.wv
theorem farVb (h : Apart s u) {k : Hdr} {d : VNum} {x : VVal} {fl : Flags} : Apart s (u.farVb k d x fl) := h.wvb.modMe.ite h.farV
theorem rdefNow (h : Apart s u) {r : RingN} : Apart s (Machine.rdefNow u r) := by
  unfold Machine.rdefNow
  dsimp only
  split
  · exact h.setRing.ite h
  · exact h
theorem bindNow (h : Apart s u) {k : Fin 4} {m : BindMode} {r : RingN} {x : Option (Word × BitVec 16 × BindDesc)} :
    Apart s (Machine.bindNow u k m r x) := by
  cases m with
  | pop => exact h.setRing.setBinding
  | push => exact h.setRing.setBinding
  | rd => exact h.setBinding
  | wr => exact h.setBinding
theorem unbindNow (h : Apart s u) {k : Fin 4} : Apart s (Machine.unbindNow u k) := by
  unfold Machine.unbindNow
  dsimp only
  split
  · exact h.setRing.setBinding
  · exact h.setRing.setBinding
  · exact h.setBinding
theorem enqueue (h : Apart s u) {i : Instr} {op : MOp} : Apart s (Machine.enqueue u i op) := by
  unfold Machine.enqueue
  exact h.setCore.modMe
theorem engAccept (h : Apart s u) {d : SReg} {op : EngOp} : Apart s (Machine.engAccept u d op) := h.setCl.farS
theorem stashNow (h : Apart s u) {p : Nat} {g : WordRef} {n : Nat} : Apart s (Machine.stashNow u p g n) := by
  unfold Machine.stashNow
  split
  · exact h
  · split
    · exact h.setMem
    · exact h.setCl
theorem callerSize (h : Apart s u) {n : Nat} : Apart s (Machine.callerSize u n).2 := by
  unfold Machine.callerSize
  split
  · exact h
  · exact h.fresh

/-! Lines asked back (R284, R388), credits (R89), hikers (R90). -/

theorem askOut (h : Apart s u) {ls : List Nat} : Apart s (Machine.askOut u ls) := h.setPkg.later.later
theorem setCredit (h : Apart s u) {c : Credit} : Apart s (Machine.setCredit u c) := h.setCore
theorem askCredit (h : Apart s u) {d : CoreId} {r : Bool} : Apart s (Machine.askCredit u d r) :=
  h.ite (h.setCredit.later.ite h.setCredit.send)
theorem keepEntry (h : Apart s u) {r : Bool} : Apart s (Machine.keepEntry r u) := by
  unfold Machine.keepEntry
  dsimp only
  split
  · exact h.setCore
  · exact h
theorem keepEntries (h : Apart s u) : Apart s (Machine.keepEntries u) := h.keepEntry.keepEntry
theorem launchHiker (h : Apart s u) {k : Hiker} : Apart s (Machine.launchHiker u k) := h.later.ite h.send

/-! A thread's end (R72, R94, R169). The parks of other slots may end with it. -/

theorem unprefetch (h : Apart s u) {i : SlotN} : Apart s (Machine.unprefetch u i) := by
  refine foldl_keeps (Apart s) _ (fun v x k => ?_) _ _ h
  dsimp only
  split
  · exact k.setRing.modTh fun _ => ⟨rfl, rfl⟩
  · exact k.modTh fun _ => ⟨rfl, rfl⟩
theorem unbindAll (h : Apart s u) {i : SlotN} : Apart s (Machine.unbindAll u i) := by
  refine foldl_keeps (Apart s) _ (fun v x k => ?_) _ _ h.unprefetch
  dsimp only
  split
  · exact k.setRing.modTh fun _ => ⟨rfl, rfl⟩
  · exact k.setRing.modTh fun _ => ⟨rfl, rfl⟩
  · exact k.modTh fun _ => ⟨rfl, rfl⟩
theorem vacate (h : Apart s u) {i : SlotN} (hi : i = s.ctl.cur) : Apart s (Machine.vacate u i) := h.setPkg.setSlot_cur hi
theorem freeArrival (h : Apart s u) {t : Thread} : Apart s (Machine.freeArrival u t) := by
  unfold Machine.freeArrival
  split
  · exact h.setCore.keepEntries
  · exact h
theorem freeSpill (h : Apart s u) {t : Thread} : Apart s (Machine.freeSpill u t) := by
  unfold Machine.freeSpill
  split
  · exact h
  · exact h.setCore
theorem mqMove (h : Apart s u) {a b : MOwner} : Apart s (Machine.mqMove u a b) := h.setCore
theorem release (h : Apart s u) {i : SlotN} (hi : i = s.ctl.cur) : Apart s (Machine.release u i) :=
  (h.unbindAll.freeSpill.mqMove.vacate hi).freeArrival
theorem modLaunch (h : Apart s u) {q : BitVec 32} {f : Launch → Launch} : Apart s (Machine.modLaunch u q f) := h.setPart
theorem mergeIntoLaunch (h : Apart s u) {c : BitVec 32} : Apart s (Machine.mergeIntoLaunch u c) := by
  unfold Machine.mergeIntoLaunch
  split
  · exact h
  · split
    · exact h.modLaunch
    · exact h.setCore
theorem wakeParked (h : Apart s u) {p : Park → Bool} : Apart s (Machine.wakeParked p u) := by
  unfold Machine.wakeParked
  generalize allSlots = l
  dsimp only
  generalize e : List.foldl _ u l = v
  have woken : Apart s v := by
    rw [← e]
    refine foldl_keeps (Apart s) _ (fun v i k => ?_) _ _ h
    split
    · exact k.modTh fun _ => ⟨rfl, rfl⟩
    · exact k
  exact woken.rest rfl rfl rfl
theorem clearBarg (h : Apart s u) : Apart s (Machine.clearBarg u) := by
  unfold Machine.clearBarg
  generalize allSlots = l
  dsimp only
  generalize e : List.foldl _ u l = v
  have cleared : Apart s v := by
    rw [← e]
    refine foldl_keeps (Apart s) _ (fun v i k => ?_) _ _ h
    exact k.modTh fun _ => ⟨rfl, rfl⟩
  exact cleared.setCore
theorem bargCheck (h : Apart s u) {q : BitVec 32} : Apart s (Machine.bargCheck u q) := by
  unfold Machine.bargCheck
  split
  · exact h
  · exact h.modLaunch.wakeParked.clearBarg.send.ite h
theorem bargExit (h : Apart s u) {q : BitVec 32} {n : Nat} : Apart s (Machine.bargExit u q n) := h.modLaunch.bargCheck
theorem bargLeave (h : Apart s u) {q : BitVec 32} {i : Option SlotN} {t : Thread} : Apart s (Machine.bargLeave u q i t) := by
  unfold Machine.bargLeave
  cases i with
  | none => exact h.modLaunch.ite h
  | some j =>
    exact h.setAgenda.modLaunch.ite h.setAgenda
theorem threadEnds (h : Apart s u) {i : SlotN} (hi : i = s.ctl.cur) : Apart s (Machine.threadEnds u i) := by
  unfold Machine.threadEnds
  have merged : Apart s (match (u.th i).kind with
      | .guest _ _ => Machine.release u i
      | .ranger => Machine.release u i
      | _ => Machine.mergeIntoLaunch (Machine.release u i) (u.th i).check) := by
    split
    · exact h.release hi
    · exact h.release hi
    · exact (h.release hi).mergeIntoLaunch
  dsimp only
  split
  · exact merged.bargLeave.bargExit
  · exact merged

/-! The journal and the fanning out of a launch (R350, R354, R357). -/

theorem devWrite (h : Apart s u) {sp : BitVec 16} {ws : List Nat} {va : Nat} : Apart s (Machine.devWrite u sp va ws) := by
  induction ws generalizing u va with
  | nil => exact h
  | cons w ws ih =>
    unfold Machine.devWrite
    apply ih
    split
    · exact h.setMem
    · exact h
theorem msix (h : Apart s u) : Apart s (Machine.msix u) := by
  unfold Machine.msix
  split
  · exact h
  · exact h.setPart.send
theorem append (h : Apart s u) {e : JEntry} : Apart s (Machine.append u e) := by
  unfold Machine.append
  split
  · exact h
  · dsimp only
    split
    · exact h.readTime.devWrite.devWrite.setPart.msix
    · exact h.readTime.devWrite.devWrite.setPart
theorem appendMore (h : Apart s u) {l : Launch} {e : JEntry} : Apart s (Machine.appendMore u l e) := h.append.ite h.modLaunch
theorem appendLast (h : Apart s u) {l : Launch} {e : JEntry} : Apart s (Machine.appendLast u l e) := h.append.setPart
theorem fanOut (h : Apart s u) {l : Launch} {bs : List Byte} {k : Header} {sh : List (CoreId × Nat × Nat)} :
    Apart s (Machine.fanOut u l bs k sh) :=
  foldl_keeps (Apart s) _ (fun _ _ k => k.later.ite k.send) _ _ h.modLaunch
end
end Apart

/-! What becomes of a packet. -/

namespace Apart
section
variable {s u v : State}

theorem retire (h : Apart s u) {k : Hdr} {nv : Bool} {t0 : Thread} {nx : Word} {pc : Option Word} :
    Apart s (Machine.retire k nv t0 nx u pc) := h.ofBeside ((Beside.refl u).retire k nv t0 nx pc)
theorem freshChunk (h : Apart s u) : Apart s (Machine.freshChunk u) := h.modMe
theorem armGuard (h : Apart s u) {k : Hdr} : Apart s (Machine.armGuard u k) := h.ofBeside (Beside.armGuard u k)
theorem crownTrap (h : Apart s u) {i : SlotN} (hi : i = s.ctl.cur) {x : TrapInfo} : Apart s (Machine.crownTrap u i x) :=
  (h.setTh_cur hi).setSlot_cur hi
theorem takeTrap (h : Apart s u) {i : SlotN} (hi : i = s.ctl.cur) {x : TrapInfo} : Apart s (Machine.takeTrap u i x) := by
  unfold Machine.takeTrap
  split
  · exact h.rest rfl rfl rfl
  · exact (h.crownTrap hi).sendKill
theorem haunt (h : Apart s u) {r : PRes} : Apart s (Machine.haunt u r) := by
  unfold Machine.haunt
  split
  · exact h.modMe
  · exact h
theorem reemit (h : Apart s v) {n : Names} : Apart s (Machine.reemit n u v) := by
  unfold Machine.reemit
  split
  · exact h.wrT
  · exact h
theorem oweOld (h : Apart s u) (k : Apart s v) {n : Names} : Apart s (Machine.oweOld n u v) := by
  unfold Machine.oweOld
  dsimp only
  split
  · exact h.modRegs.modMe.farS
  · exact h.modRegs.modMe.farV
  · exact k
end
end Apart

/-- What a packet's answer leaves behind it keeps apart from s. An answer that holds the packet back is allowed where b is true; in a
packet that has taken stream elements it would stand for a halt. -/
inductive KeepsApart (b : Bool) (s : State) : PRes → Prop
  | done {t : State} {pc : Option Word} (h : Apart s t) : KeepsApart b s (.done t pc)
  | ends {t : State} {pc : Option Word} (h : Apart s t) : KeepsApart b s (.ends t pc)
  | trap {x : TrapInfo} : KeepsApart b s (.trap x)
  | trapIn {t : State} {x : TrapInfo} (h : Apart s t) : KeepsApart b s (.trapIn t x)
  | replay {t : State} {p : Park} (h : Apart s t) : KeepsApart b s (.replay t p)
  | stall : KeepsApart b s .stall
  | hold {t : State} (allowed : b = true) (h : Apart s t) : KeepsApart b s (.hold t)
  | own {t : State} {pc : Option Word} (h : Apart s t) : KeepsApart b s (.own t pc)
  | launch {i : Instr} : KeepsApart b s (.launch i)
  | gone {t : State} (h : Apart s t) : KeepsApart b s (.gone t)
  | abort {t : State} {x : Nat} (h : Apart s t) : KeepsApart b s (.abort t x)

/-- A body that keeps apart wherever it is run. -/
def Confines (body : State → PRes) : Prop := ∀ s u, Apart s u → KeepsApart true s (body u)
/-- An outcome whose next state keeps apart. -/
def Confined (s : State) (o : Host.Outcome State Fault Refusal) : Prop := ∀ t, o = .next t → Apart s t

section
variable {s u : State} {h : Hdr} {n : Names} {body : State → PRes} {r : PRes}

theorem Confined.next {t : State} (a : Apart s t) : Confined s (.next t) := by
  rintro _ ⟨rfl⟩
  exact a

theorem finish_apart (a : Apart s u) (k : KeepsApart true s r) : Apart s (finish h n u r) := by
  cases k with
  | done k => exact k.retire
  | ends k => exact k.retire.setMe
  | trap => exact a.takeTrap a.cur
  | trapIn k => exact k.takeTrap a.cur
  | replay k =>
    dsimp only [finish]
    split
    · exact k.parkAt
    · exact k.modMe.parkAt.sendKill
  | stall => exact a.passTurn
  | hold _ k => exact k
  | own k => exact k.retire.freshChunk
  | launch => exact a.modMe.parkAt
  | gone k => exact k
  | abort k => exact k.regionAbort a.cur
theorem conclude_apart (hb : Confines body) (a : Apart s u) (k : KeepsApart true s r) : Apart s (conclude h n body u r) :=
  (finish_apart a k).ite ((a.regionAbort a.cur).ite (finish_apart a.setMe (hb _ _ a.setMe)))
theorem underGuard_confines (hb : Confines body) : Confines (underGuard h n body) := by
  intro s u a
  have k := hb s u a
  unfold underGuard
  split
  · next e =>
    rw [e] at k
    obtain ⟨d⟩ := k
    exact .done (((a.oweOld (d.haunt.ite d)).ite (d.haunt.ite d).reemit).ite (d.haunt.ite d))
  · exact k
/-- A packet whose body keeps apart leaves the other slots alone, whatever it comes to. -/
theorem runPacket_confined (hn : NoHalt s) (hb : Confines body) (f : Bool) : Confined s (runPacket h n f body s) := by
  have a : Apart s (armGuard s h) := (Apart.start hn).armGuard
  unfold runPacket
  dsimp only
  split
  · exact .next a.passTurn
  · split
    · exact .next (a.takeTrap a.cur)
    · exact .next (conclude_apart (underGuard_confines hb) a (underGuard_confines hb _ _ a))
/-- Outside the ranger's slot a privileged packet takes a trap of its own (R118). -/
theorem privileged_confined (hn : NoHalt s) (hc : s.ctl.cur ≠ ranger) (o : Host.Outcome State Fault Refusal) :
    Confined s (privileged s o) := by
  unfold privileged
  rw [if_neg hc]
  exact .next ((Apart.start hn).takeTrap rfl)
end

/-! What packets answer. -/

/-- A check that finds nothing, or an answer that keeps apart. -/
def Passes (b : Bool) (s : State) (o : Option PRes) : Prop := ∀ r, o = some r → KeepsApart b s r

section
variable {b : Bool} {s u : State}

theorem Passes.none : Passes b s none := by
  rintro _ ⟨⟩
theorem Passes.some {r : PRes} (k : KeepsApart b s r) : Passes b s (some r) := by
  rintro _ ⟨rfl⟩
  exact k
theorem Passes.ite {c : Prop} [Decidable c] {x y : Option PRes} (h : Passes b s x) (k : Passes b s y) : Passes b s (if c then x else y) := by
  split
  · exact h
  · exact k
theorem Passes.causeIf {c : Bool} {t : TrapInfo} : Passes b s (causeIf c t) := Passes.ite (.some .trap) .none
theorem Passes.map_trap {o : Option TrapInfo} : Passes b s (o.map .trap) := by
  cases o with
  | none => exact .none
  | some t => exact .some .trap
theorem Passes.nil : Passes b s (causes []) := .none
theorem Passes.cons {o : Option PRes} {l : List (Option PRes)} (h : Passes b s o) (k : Passes b s (causes l)) :
    Passes b s (causes (o :: l)) := by
  cases o with
  | none => exact k
  | some r => exact h
theorem Passes.findSome? {α : Type} {f : α → Option PRes} (h : ∀ x, Passes b s (f x)) (l : List α) : Passes b s (l.findSome? f) := by
  intro r e
  obtain ⟨x, -, hx⟩ := List.exists_of_findSome?_eq_some e
  exact h x r hx
theorem Passes.or {x y : Option PRes} (h : Passes b s x) (k : Passes b s y) : Passes b s (x.or y) := by
  cases x with
  | none => exact k
  | some r => exact h

/-! Translation and data breakpoints (R228, R366, R368, R397). -/

theorem NoHalt.getLsbD (h : NoHalt s) (k : Fin 2) : s.cl.dbg.drctl.getLsbD (36 + k.val) = false := by
  have e := congrArg (fun x => x.getLsbD k.val) h
  simpa [BitVec.getLsbD_extractLsb', k.isLt] using e
/-- Where no data breakpoint halts, one that is met is a trap. -/
theorem breakAt_passes (a : Apart s u) (reach : BitVec 16) (off : Word) (n : Nat) (load store : Bool) (lane : Option Nat) :
    Passes b s (breakAt u reach off n load store lane) := by
  intro r e
  obtain ⟨halt, hd, rfl⟩ := Option.map_eq_some_iff.mp e
  unfold dataBreak at hd
  dsimp only at hd
  split at hd
  · cases hd
  · obtain ⟨k, -, rfl⟩ := Option.map_eq_some_iff.mp hd
    rw [a.noHalt.getLsbD k]
    exact .trap
theorem missRes_apart (a : Apart s u) {sp : BitVec 16} {va : Nat} : KeepsApart b s (missRes u sp va) := .replay a.later
theorem padMissRes_apart (a : Apart s u) {l : Nat} : KeepsApart b s (padMissRes u l) := .replay a.later
theorem translated_apart (a : Apart s u) {reach : BitVec 16} {off : Word} {n : Nat} {ps : List Nat} {lane : Option Nat} {r : PRes}
    (e : translated u reach off n ps lane = .stop r) : KeepsApart b s r := by
  unfold translated at e
  split at e
  · obtain ⟨⟩ := e; exact .trap
  · obtain ⟨⟩ := e; exact missRes_apart a
  · obtain ⟨⟩ := e; exact padMissRes_apart a
  · cases e
theorem access_apart (a : Apart s u) {reach : BitVec 16} {off : Word} {n : Nat} {ps : List Nat} {load store : Bool} {lane : Option Nat}
    {r : PRes} (e : access u reach off n ps load store lane = .stop r) : KeepsApart b s r := by
  unfold access at e
  split at e
  · next t => obtain ⟨⟩ := e; exact translated_apart a t
  · split at e
    · next t => obtain ⟨⟩ := e; exact breakAt_passes a _ _ _ _ _ _ _ t
    · cases e
theorem spanBad_passes (a : Apart s u) {reach : BitVec 16} {off : Word} {n : Nat} {ps : List Nat} :
    Passes b s (spanBad u reach off n ps) := by
  unfold spanBad
  split
  · exact .some .trap
  · exact .some (missRes_apart a)
  · exact .none
theorem spanAccess_passes (a : Apart s u) {reach : BitVec 16} {off : Word} {n : Nat} {ps : List Nat} :
    Passes b s (spanAccess u reach off n ps) := (spanBad_passes a).or (breakAt_passes a _ _ _ _ _ _)
theorem translatedAll_apart (a : Apart s u) {reach : BitVec 16} {ps : List Nat} {r : PRes} :
    ∀ {es : List (Nat × Word × Nat)}, translatedAll u reach ps es = .stop r → KeepsApart b s r
  | [], e => nomatch e
  | (lane, off, n) :: es, e => by
    unfold translatedAll at e
    split at e
    · next t => obtain ⟨⟩ := e; exact translated_apart a t
    · split at e
      · cases e
      · exact translatedAll_apart a e
theorem breakAll_passes (a : Apart s u) {reach : BitVec 16} {load store : Bool} {es : List (Nat × Word × Nat)} :
    Passes b s (breakAll u reach load store es) := Passes.findSome? (fun _ => breakAt_passes a _ _ _ _ _ _) _

/-! Results. -/

namespace KeepsApart

theorem ite {c : Prop} [Decidable c] {x y : PRes} (h : KeepsApart b s x) (k : KeepsApart b s y) : KeepsApart b s (if c then x else y) := by
  split
  · exact h
  · exact k
theorem finS (a : Apart s u) {h : Hdr} {d : SReg} {rs : List SReg} {r : SVal} {sym : SymRes} :
    KeepsApart b s (finS u h d rs r sym) := by
  unfold Machine.finS
  split
  · exact .done a.useRegs.wr
  · split
    · split
      · exact ite (.done a.useRegs.wr) (.done a.wrT)
      · exact .done a.wr
      · exact .done a.useRegs.wr
    · exact .done a.wrT
theorem finCmp (a : Apart s u) {h : Hdr} {d c : PReg} {r p : Bool} : KeepsApart b s (finCmp u h d c r p) :=
  ite (.done a.wq.wq) (ite (.done a.wq.wq) (.done a.wq.wq))
theorem fpTrap {fl : Flags} {r : PRes} (k : KeepsApart b s r) :
    KeepsApart b s (match Machine.fpTrap u fl with | some t => .trap t | none => r) := by
  split
  · exact .trap
  · exact k
theorem finV (a : Apart s u) {h : Hdr} {d : VNum} {m : RMode} {n : Nat} {o : VOut} : KeepsApart b s (finV u h d m n o) :=
  fpTrap (.done a.stepSeed.wvb.orFlags)
theorem finFarV (a : Apart s u) {h : Hdr} {w : Nat} {d : VNum} {m : RMode} {n : Nat} {o : VOut} {i : Instr} :
    KeepsApart b s (finFarV u h w d m n o i) :=
  ite .trap (ite (.done a.stepSeed.wvb)
    (ite (ite .launch (fpTrap (.done a.stepSeed.wvb.orFlags))) (.done a.stepSeed.farVb.markFp)))
theorem finFarS (a : Apart s u) {h : Hdr} {d : SReg} {rs : List SReg} {m : RMode} {n : Nat} {r : SVal} {fl : Flags} {i : Instr} :
    KeepsApart b s (finFarS u h d rs m n r fl i) :=
  ite .trap (ite (.done a.stepSeed)
    (ite (ite .launch (fpTrap (.done a.useRegs.stepSeed.wr.orFlags))) (.done a.useRegs.stepSeed.farS.markFp)))
theorem finFp (a : Apart s u) {h : Hdr} {d : SReg} {rs : List SReg} {m : RMode} {n : Nat} {r : SVal} {fl : Flags} :
    KeepsApart b s (finFp u h d rs m n r fl) := fpTrap (finS a.stepSeed.orFlags)
theorem finRead (a : Apart s u) {h : Hdr} {d : SReg} {f : State → Word × State} (hf : Apart s (f u).2) :
    KeepsApart b s (finRead u h d f) := ite (finS hf) (finS a)
theorem farGuard (a : Apart s u) {h : Hdr} {k : State → PRes} (hk : KeepsApart b s (k u)) : KeepsApart b s (farGuard u h k) :=
  ite .trap (ite hk (.done a))
theorem commitWait (a : Apart s u) {k : State → PRes} (hk : KeepsApart b s (k u)) : KeepsApart b s (commitWait u k) :=
  ite (.abort a) (ite (.replay a.setMe) hk)
theorem regionStop (a : Apart s u) {r : PRes} (hr : KeepsApart b s r) : KeepsApart b s (regionStop u r) := ite (.abort a) hr
/-- A packet's causes, then its effect. -/
theorem checked {o : Option PRes} {r : PRes} (hr : KeepsApart b s r) :
    Passes b s o → KeepsApart b s (match o with | some q => q | none => r) := by
  intro hc
  split
  · next q => exact hc q rfl
  · exact hr
theorem ender (a : Apart s u) {h : Hdr} {c : State → Option PRes} {k : State → PRes} (hc : Passes b s (c u))
    (hk : KeepsApart b s (k u)) : KeepsApart b s (ender u h c k) := farGuard a (checked (commitWait a hk) hc)
theorem withCredit (a : Apart s u) {d : CoreId} {r : Bool} {k : State → PRes} (hk : ∀ v, Apart s v → KeepsApart b s (k v)) :
    KeepsApart b s (withCredit u d r k) := ite (.replay a.askCredit) (hk _ a.setCredit)
theorem loadAt (a : Apart s u) {d : SReg} {rs : List SReg} {r : BitVec 16} {off : Word} {t : IType} :
    KeepsApart b s (loadAt u d rs r off t) := by
  refine ite .trap (ite .trap ?_)
  split
  · next e => exact access_apart a e
  · exact .done a.useRegs.loadScalar.checkIf.farS
theorem storeAt (a : Apart s u) {d : SReg} {rs : List SReg} {r : BitVec 16} {off : Word} {t : IType} :
    KeepsApart b s (storeAt u d rs r off t) := by
  refine ite .trap (ite .trap ?_)
  split
  · next e => exact access_apart a e
  · exact .done a.useRegs.addHeld.checkIf
theorem finLoad (a : Apart s u) {h : Hdr} {d : VNum} {w : Nat} {rs : List SReg} {es offs : List Nat} {as : List (List Nat)}
    {f : Nat → Nat → Nat × Bool} : KeepsApart b s (finLoad u h d w rs es offs as f) :=
  .done a.useRegs.recordReads.opaqueTags.checkIf.farVb
theorem callTo (a : Apart s u) {t : Word} : KeepsApart b s (callTo u t) := ite .trap (.done a.modRegs)
theorem single (a : Apart s u) {d : Option SReg} {op : HomeOp} : KeepsApart b s (single u d op) := by
  have owe : ∀ (v : State) (x : Option FarVal), Apart s v → Apart s (match d with | some d => v.farS d x 0 false | none => v) := by
    intro v x k
    split
    · exact k.farS
    · exact k
  unfold Machine.single
  dsimp only
  split
  · exact .own (owe _ _ a).modMe
  · split
    · exact .own (owe _ _ a.performHome).opCheck.settleOwn
    · exact .own (owe _ _ a).modMe
end KeepsApart
end

/-! Streams (R268). -/

/-- Taking elements leaves a state that keeps apart, or an answer that does. -/
inductive Takes (b : Bool) (s : State) : Take → Prop
  | ok {t : State} (h : Apart s t) : Takes b s (.ok t)
  | stop {r : PRes} (h : KeepsApart b s r) : Takes b s (.stop r)

section
variable {b : Bool} {s s0 u : State}

theorem KeepsApart.weaken {r : PRes} (k : KeepsApart false s r) : KeepsApart b s r := by
  cases k with
  | done k => exact .done k
  | ends k => exact .ends k
  | trap => exact .trap
  | trapIn k => exact .trapIn k
  | replay k => exact .replay k
  | stall => exact .stall
  | hold f _ => cases f
  | own k => exact .own k
  | launch => exact .launch
  | gone k => exact .gone k
  | abort k => exact .abort k

theorem Apart.noteTaken (a : Apart s u) {l : List (VNum × VVal)} : Apart s { u with ctl := { u.ctl with taken := l } } := a.setCtl

theorem Takes.ite {c : Prop} [Decidable c] {x y : Take} (h : Takes b s x) (k : Takes b s y) : Takes b s (if c then x else y) := by
  split
  · exact h
  · exact k
theorem Takes.orTrap {o : Option TrapInfo} {x : Take} (k : Takes b s x) : Takes b s (match o with | some t => .stop (.trap t) | none => x) := by
  cases o with
  | none => exact k
  | some t => exact .stop .trap
theorem takeSrc_takes (a0 : Apart s s0) (a : Apart s u) (r : VNum) : Takes b s (takeSrc s0 u r) := by
  unfold takeSrc
  split
  · exact .ok a
  · next k _ =>
    extract_lets x
    split
    · exact .ok a
    · exact .stop .trap
    · exact .stop .trap
    · next ring _ =>
      refine .ite (.stop .trap) (.ite (.stop .trap) ?_)
      generalize x.buf = l
      obtain _ | ⟨⟨y, e, g, w⟩, l⟩ := l
      · exact .stop (.replay a0)
      · refine .orTrap (.ite (.stop .trap) (.ite (.stop (.trapIn a0.setRing)) (.ok (.noteTaken ?_))))
        exact a.setBinding.modCur.checkIf
    · next reach base _ =>
      refine .ite (.stop .trap) ?_
      generalize x.buf = l
      obtain _ | ⟨⟨y, e, g, w⟩, l⟩ := l
      · exact .stop (.replay a0)
      · cases t : translated s0 reach (x.off base) 128 [permR] none with
        | stop p => exact .stop (translated_apart a0 t)
        | ok as => exact .ok (.noteTaken a.opaqueTags.setBinding.recordRead.modCur.checkIf)

theorem takeAll_takes (a0 : Apart s s0) (rs : List VNum) (a : Apart s u) : Takes b s (takeAll s0 rs u) := by
  induction rs generalizing u with
  | nil => exact .ok a
  | cons r rs ih =>
    unfold takeAll
    split
    · exact ih a
    · have k := takeSrc_takes (b := b) a0 a r
      split
      · next e =>
        rw [e] at k
        obtain ⟨k⟩ := k
        exact ih k
      · exact k
theorem dstStop_passes (a : Apart s u) (r : VNum) : Passes b s (dstStop u r) := by
  unfold dstStop
  split
  · exact .none
  · dsimp only
    split
    · exact .none
    · exact .some .trap
    · exact .some .trap
    · refine .ite (.some .trap) (.ite (.some .trap) ?_)
      split
      · exact .some .trap
      · exact .ite (.some (.replay a)) .none
    · refine .ite (.some .trap) ?_
      split
      · next e => exact .some (translated_apart a e)
      · exact .none
theorem Passes.bind {α : Type} {o : Option α} {f : α → Option PRes} (h : ∀ x, Passes b s (f x)) : Passes b s (o.bind f) := by
  cases o with
  | none => exact .none
  | some x => exact h x
theorem streamBreaks_passes (a : Apart s u) (srcs : List VNum) (dst : Option VNum) : Passes b s (streamBreaks u srcs dst) := by
  refine Passes.or (.findSome? (fun _ => .bind fun _ => ?_) _) (.bind fun _ => .bind fun _ => ?_)
  all_goals
    dsimp only
    split
    · exact breakAt_passes a _ _ _ _ _ _
    · exact breakAt_passes a _ _ _ _ _ _
    · exact .none
theorem afterBreaks_apart {o : Option PRes} {r : PRes} (h : Passes b s o) (k : KeepsApart b s r) : KeepsApart b s (afterBreaks o r) := by
  have getD : KeepsApart b s (o.getD r) := by
    cases o with
    | none => exact k
    | some q => exact h q rfl
  unfold afterBreaks
  split
  · exact k
  · exact k
  · exact k
  · exact .ite k getD
  · exact getD
theorem untaken_apart {r : PRes} (a0 : Apart s s0) (k : KeepsApart false s r) : KeepsApart b s (untaken s0 r) := by
  cases k with
  | done k => exact .done k
  | ends k => exact .ends k
  | trap => exact .trap
  | trapIn k => exact .trapIn k
  | replay k => exact .replay (a0.setMe.ite a0.setAgenda)
  | stall => exact .stall
  | hold f _ => cases f
  | own k => exact .own k
  | launch => exact .launch
  | gone k => exact .gone k
  | abort k => exact .abort a0
theorem KeepsApart.withStreams (a : Apart s u) {h : Hdr} {srcs : List VNum} {dst : Option VNum} {k : State → PRes}
    (hk : ∀ v, Apart s v → KeepsApart false s (k v)) : KeepsApart b s (withStreams h srcs dst k u) := by
  refine .ite (hk u a).weaken (checked ?_ (.bind (dstStop_passes a)))
  have t := takeAll_takes (b := b) a srcs a
  split
  · next e =>
    rw [e] at t
    obtain ⟨⟩ | ⟨t⟩ := t
    exact t
  · next e =>
    rw [e] at t
    obtain ⟨t⟩ := t
    exact afterBreaks_apart (streamBreaks_passes a _ _) (untaken_apart a (hk _ t))
end

/-! Shapes of packets. -/

section
variable {s : State} (hn : NoHalt s) {h : Hdr}
include hn

theorem run2_confined (d a b : SReg) (f : Word → Word → Word) : Confined s (run2 h d a b f s) :=
  runPacket_confined hn (fun _ _ k => .finS k) false
theorem run1_confined (d a : SReg) (f : Word → Word) : Confined s (run1 h d a f s) := runPacket_confined hn (fun _ _ k => .finS k) false
theorem runQS_confined (d : SReg) (a : PReg) (f : Word → Word) : Confined s (runQS h d a f s) :=
  runPacket_confined hn (fun _ _ k => .finS k) false
theorem runFp_confined (d : SReg) (rs : List SReg) (rm : Rm) (f : State → RMode → Nat → FRes) : Confined s (runFp h d rs rm f s) :=
  runPacket_confined hn (fun _ _ k => .finFp k) false
theorem runFpExact_confined (d : SReg) (rs : List SReg) (f : State → FRes) : Confined s (runFpExact h d rs f s) :=
  runPacket_confined hn (fun _ _ k => .finFp k) false
theorem runFarFp_confined (d : SReg) (rs : List SReg) (rm : Rm) (f : State → RMode → Nat → FRes) (i : Instr) :
    Confined s (runFarFp h d rs rm f i s) := runPacket_confined hn (fun _ _ k => .finFarS k) false
theorem runNearV_confined (d : VNum) (vs : List VNum) (rs : List SReg) (ps : List PReg) (w : Nat) (rm : Rm) (n : Nat)
    (f : State → RMode → List Word → Word → Bool → VVal → VOut) : Confined s (runNearV h d vs rs ps w rm n f s) :=
  runPacket_confined hn (fun _ _ k => .withStreams k fun _ v => .finV v.useGov) false
theorem runFarV_confined (d : VNum) (vs : List VNum) (rs : List SReg) (w : Nat) (rm : Rm) (n : Nat)
    (f : State → RMode → List Word → Word → Bool → VVal → VOut) (i : Instr) : Confined s (runFarV h d vs rs w rm n f i s) :=
  runPacket_confined hn (fun _ _ k => .ite .trap (.withStreams k fun _ v => .finFarV v.useGov)) false
theorem runLanes_confined (w : Nat) (d : VNum) (vs : List VNum) (rs : List SReg) (f : State → Nat → Nat × Bool) :
    Confined s (runLanes h w d vs rs f s) := runNearV_confined hn _ _ _ _ _ _ _ _
theorem runSingle_confined {n : Names} {d : Option SReg} {used : List SReg} {acc : State → Acc} {mk : State → Nat → HomeOp}
    (ha : ∀ s u r, Apart s u → acc u = .stop r → KeepsApart true s r) : Confined s (runSingle h n d used acc mk s) := by
  refine runPacket_confined hn (fun _ _ k => .farGuard k ?_) false
  split
  · next e => exact ha _ _ _ k e
  · exact .commitWait k (.single k.useRegs)
theorem runMatrix_confined {n : Names} {checks : State → List (Option PRes)} {act : State → State}
    (hc : ∀ s u, Apart s u → Passes true s (causes (checks u))) (ha : ∀ s u, Apart s u → Apart s (act u)) :
    Confined s (runMatrix h n checks act s) :=
  runPacket_confined hn (fun _ _ k => .farGuard k (.checked (.regionStop k (.ite (.replay k) (.ends (ha _ _ k)))) (hc _ _ k))) false
end

/-! Loads, stores, singletons (R230, R232 to R242). -/

section
variable {b : Bool} {s u : State} {r : PRes}

theorem homeAccess_apart (a : Apart s u) {addr : List SReg} {reach : BitVec 16} {off : Word} {n align : Nat} {ps : List Nat} {fe : Bool}
    (e : homeAccess u addr reach off n align ps fe = .stop r) : KeepsApart b s r := by
  unfold homeAccess at e
  split at e
  · obtain ⟨⟩ := e; exact .trap
  · split at e
    · obtain ⟨⟩ := e; exact .trap
    · split at e
      · next t => obtain ⟨⟩ := e; exact translated_apart a t
      · split at e
        · obtain ⟨⟩ := e; exact .trap
        · split at e
          · next t => obtain ⟨⟩ := e; exact breakAt_passes a _ _ _ _ _ _ _ t
          · cases e
theorem laneAccess_apart (a : Apart s u) {h : Hdr} {x : SReg} {iv : VVal} {reach : BitVec 16} {sh : BitVec 2} {sgn : Bool}
    {ps es : List Nat} (e : laneAccess u h x iv reach sh sgn ps es = .stop r) : KeepsApart b s r := by
  unfold laneAccess at e
  dsimp only at e
  split at e
  · obtain ⟨⟩ := e; exact .trap
  · split at e
    · obtain ⟨⟩ := e; exact .trap
    · split at e
      · next t => obtain ⟨⟩ := e; exact translatedAll_apart a t
      · split at e
        · obtain ⟨⟩ := e; exact .trap
        · split at e
          · next t => obtain ⟨⟩ := e; exact breakAll_passes a _ t
          · cases e
theorem redAccess_apart (a : Apart s u) {h : Hdr} {x : SReg} {reach : BitVec 16} {t : VTy} (e : redAccess u h x reach t = .stop r) :
    KeepsApart b s r := by
  unfold redAccess at e
  dsimp only at e
  split at e
  · obtain ⟨⟩ := e; exact .trap
  · split at e
    · obtain ⟨⟩ := e; exact .trap
    · split at e
      · next t => obtain ⟨⟩ := e; exact translatedAll_apart a t
      · split at e
        · next t => obtain ⟨⟩ := e; exact breakAll_passes a _ t
        · cases e
end

section
variable {s : State} (hn : NoHalt s) {h : Hdr}
include hn

theorem runHome_confined {n : Names} {d : Option SReg} {used addr : List SReg} {reach : State → BitVec 16} {off : State → Word}
    {k align : Nat} {ps : List Nat} {fe : Bool} {mk : State → Nat → HomeOp} :
    Confined s (runSingle h n d used (fun s => homeAccess s addr (reach s) (off s) k align ps fe) mk s) :=
  runSingle_confined hn fun _ _ _ a e => homeAccess_apart a e
theorem execLd_confined (d a b : SReg) (k : KReg) (t : IType) (sh : BitVec 2) (disp : BitVec 5) :
    Confined s (execLd h d a b k t sh disp s) := runPacket_confined hn (fun _ _ k => .farGuard k (.loadAt k)) false
theorem execSt_confined (d a b : SReg) (k : KReg) (t : IType) (sh : BitVec 2) (disp : BitVec 5) :
    Confined s (execSt h d a b k t sh disp s) := runPacket_confined hn (fun _ _ k => .farGuard k (.storeAt k)) false
theorem execLdo_confined (d a : SReg) (k : KReg) (t : IType) (i : BitVec 48) :
    Confined s (execLdo h d a k t i s) := runPacket_confined hn (fun _ _ k => .farGuard k (.loadAt k)) false
theorem execSto_confined (d a : SReg) (k : KReg) (t : IType) (i : BitVec 48) :
    Confined s (execSto h d a k t i s) := runPacket_confined hn (fun _ _ k => .farGuard k (.storeAt k)) false
theorem execPref_confined (k : KReg) (a : SReg) (m : Bool) : Confined s (execPref h k a m s) :=
  runPacket_confined hn (fun _ _ k => .done (k.useRegs.ite k)) false
theorem execVld_confined (d : VNum) (a b : SReg) (disp : BitVec 5) (k : KReg) (t : VTy) (sh : BitVec 2) :
    Confined s (execVld h d a b disp k t sh s) := by
  refine runPacket_confined hn (fun s u a => .ite .trap (.withStreams a fun v a => .ite (.done a.wvb) (.ite .trap (.ite .trap ?_)))) false
  split
  · next e => exact translatedAll_apart a e
  · refine .ite .trap (.checked (.finLoad a) (breakAll_passes a))
theorem execVldg_confined (d : VNum) (a : SReg) (b : VNum) (k : KReg) (t : VTy) (sh : BitVec 2) (sgn : Bool) :
    Confined s (execVldg h d a b k t sh sgn s) := by
  refine runPacket_confined hn (fun s u a => .ite .trap (.withStreams a fun v a => .ite (.done a.wvb) ?_)) false
  split
  · next e => exact laneAccess_apart a e
  · exact .finLoad a
theorem execVst_confined (d : VNum) (a b : SReg) (disp : BitVec 5) (k : KReg) (t : VTy) (sh : BitVec 2) (rm : Rm) (nar : Bool) :
    Confined s (execVst h d a b disp k t sh rm nar s) := by
  refine runPacket_confined hn (fun s u a => .ite .trap (.withStreams a fun v a => .ite (.done a.stepSeed) (.ite .trap (.ite .trap ?_)))) false
  split
  · next e => exact translatedAll_apart a e
  · exact .ite .trap (.checked (.fpTrap (.done a.useRegs.stepSeed.orFlags.addElems.narrowing)) (breakAll_passes a))
theorem execVsts_confined (d : VNum) (a : SReg) (b : VNum) (k : KReg) (t : VTy) (sh : BitVec 2) (sgn : Bool) :
    Confined s (execVsts h d a b k t sh sgn s) := by
  refine runPacket_confined hn (fun s u a => .ite .trap (.withStreams a fun v a => .ite (.done a) ?_)) false
  split
  · next e => exact laneAccess_apart a e
  · exact .done a.useRegs.addElems
theorem execVred_confined (a : SReg) (b : VNum) (k : KReg) (op : FoldOp) (t : VTy) : Confined s (execVred h a b k op t s) := by
  refine runPacket_confined hn (fun s u a0 => .ite .trap (.withStreams a0 fun v a => .ite (.done a) ?_)) false
  split
  · next e => exact redAccess_apart a e
  · exact .commitWait a0 (.single a.useRegs)
theorem execGathn_confined (d : VNum) (a : SReg) (b : VNum) (k : KReg) (t : VTy) (sh : BitVec 2) (sgn : Bool) :
    Confined s (execGathn h d a b k t sh sgn s) := by
  refine runPacket_confined hn (fun s u a0 => .ite .trap (.withStreams a0 fun v a => .ite (.done a.wvb) ?_)) false
  split
  · next e => exact laneAccess_apart a e
  · exact .commitWait a0 (.ite (.own a.useRegs.checkIf.farVb.settleOwn) (.own a.useRegs.farV.later.settleOwn))

/-! Compares, predicates, moves between files (R209 to R215, R254 to R260). -/

theorem execCmp_confined (d c : PReg) (a b : SReg) (cd : Cond) (un : Bool) : Confined s (execCmp h d c a b cd un s) :=
  runPacket_confined hn (fun _ _ k => .finCmp k.cmpSym) false
theorem execCmpi_confined (d c : PReg) (a : SReg) (cd : Cond) (un : Bool) (i : BitVec 12) : Confined s (execCmpi h d c a cd un i s) :=
  runPacket_confined hn (fun _ _ k => .finCmp k.cmpSym) false
theorem execFcmp_confined (d c : PReg) (a b : SReg) (t : FTy) (cd : Cond) : Confined s (execFcmp h d c a b t cd s) :=
  runPacket_confined hn (fun _ _ k => .fpTrap (.finCmp (k.useRegs.ite k).orFlags)) false
theorem execPlog_confined (d a b : PReg) (tt : BitVec 4) : Confined s (execPlog h d a b tt s) :=
  runPacket_confined hn (fun _ _ k => .done k.wq) false
theorem execPfrom_confined (d : PReg) (a : SReg) : Confined s (execPfrom h d a s) :=
  runPacket_confined hn (fun _ _ k => .done k.useGov.wq) false
theorem execPlim_confined (d : PReg) (a b : SReg) (byte : Bool) : Confined s (execPlim h d a b byte s) :=
  runPacket_confined hn (fun _ _ k => .done k.useGov.wq) false
theorem execVcmp_confined (d c : PReg) (a b : VNum) (t : VTy) (cd : Cond) (sb : Bool) : Confined s (execVcmp h d c a b t cd sb s) :=
  runPacket_confined hn (fun _ _ k => .withStreams k fun _ k => .fpTrap (.done k.orFlags.useGov.wq.wq)) false
theorem execVget_confined (d : SReg) (a : VNum) (lane : BitVec 5) (sx : Bool) : Confined s (execVget h d a lane sx s) :=
  runPacket_confined hn (fun _ _ k => .withStreams k fun _ k => .finS k) false
theorem execVfold_confined (d : SReg) (a : VNum) (t : VTy) (rm : Rm) (op : FoldOp) : Confined s (execVfold h d a t rm op s) :=
  runPacket_confined hn (fun _ _ k => .withStreams k fun _ k => .ite (.done k.wrT) (.fpTrap (.done k.stepSeed.orFlags.wr))) false
theorem execVpack_confined (d a b : VNum) (dt : PackTy) (rm : Rm) (nar : Bool) : Confined s (execVpack h d a b dt rm nar s) :=
  runPacket_confined hn (fun _ _ k => .checked
    (.withStreams k fun _ k => .ite (.done (k.wvb.ite k).wvb)
      (.fpTrap (.done (k.stepSeed.orFlags.wvb.wvb.ite k.stepSeed.orFlags.wvb))))
    (.ite (dstStop_passes k _) .none)) false
theorem execTload_confined (d a : SReg) : Confined s (execTload h d a s) := by
  refine runPacket_confined hn (fun s u a => .ender a (.cons .causeIf (.cons .causeIf (.cons (spanAccess_passes a) .nil))) ?_) false
  split
  · exact missRes_apart a
  · exact padMissRes_apart a
  · exact .trap
  · exact .own a.setCore.farS.later
end

/-! Windows (R60 to R62, R165, R166). -/

/-- Making room, or a refill, leaves a state that keeps apart, or an answer that does. -/
inductive Makes (b : Bool) (s : State) : Except PRes State → Prop
  | ok {t : State} (h : Apart s t) : Makes b s (.ok t)
  | error {r : PRes} (h : KeepsApart b s r) : Makes b s (.error r)

section
variable {b : Bool} {s u : State}

theorem Makes.ite {c : Prop} [Decidable c] {x y : Except PRes State} (h : Makes b s x) (k : Makes b s y) :
    Makes b s (if c then x else y) := by
  split
  · exact h
  · exact k
theorem Makes.bind {x : Except PRes State} {k : State → Except PRes State} (m : Makes b s x)
    (hk : ∀ v, Apart s v → Makes b s (k v)) : Makes b s (match (generalizing := false) x with | .error r => .error r | .ok v => k v) := by
  cases m with
  | ok h => exact hk _ h
  | error h => exact .error h
theorem KeepsApart.moved {x : Except PRes State} {k : State → PRes} (m : Makes b s x) (hk : ∀ v, Apart s v → KeepsApart b s (k v)) :
    KeepsApart b s (match (generalizing := false) x with | .error r => r | .ok v => k v) := by
  cases m with
  | ok h => exact hk _ h
  | error h => exact h
end

/-! The kernel cannot check the equations of spillGo and refillGo at a successor: it would evaluate the translation of an address,
a product with 2^64. So their recursion is opened at a variable count, and the case split waits until the translation is named. -/

/-- What holds of the result for the count before this one. -/
def Below {α : Type} (P : α → Prop) : ∀ n, Nat.below (motive := fun _ => α) n → Prop
  | 0, _ => True
  | _ + 1, b => P b.1
theorem brecOn_all {α : Type} {P : α → Prop} {F : ∀ n, Nat.below (motive := fun _ => α) n → α} (h : ∀ n b, Below P n b → P (F n b))
    (n : Nat) : P (Nat.brecOn n F) := by
  have all : ∀ n, P (Nat.brecOn.go n F).1 ∧ Below P n (Nat.brecOn.go n F).2 := by
    intro n
    induction n with
    | zero => exact ⟨h 0 _ trivial, trivial⟩
    | succ n ih => exact ⟨h (n + 1) _ ih.1, ih.1⟩
  exact (all n).1
theorem count_all {α : Type} {B : Nat → Type} {P : α → Prop} {Q : ∀ n, B n → Prop} {z : B 0 → α} {f : ∀ n, B (n + 1) → α} {n : Nat}
    {b : B n} (hb : Q n b) (hz : ∀ b, P (z b)) (hf : ∀ k b, Q (k + 1) b → P (f k b)) :
    P ((match (motive := ∀ n, B n → α) n with | 0 => z | k + 1 => f k) b) := by
  cases n with
  | zero => exact hz b
  | succ k => exact hf k b hb
theorem countFrom_all {α : Type} {B : Nat → Type} {P : α → Prop} {Q : ∀ n, B n → Prop} {z : Nat → B 0 → α}
    {f : ∀ n, Nat → B (n + 1) → α} {n j : Nat} {b : B n} (hb : Q n b) (hz : ∀ b, P (z j b)) (hf : ∀ k b, Q (k + 1) b → P (f k j b)) :
    P ((match (motive := ∀ n, Nat → B n → α) n, j with | 0, j => z j | k + 1, j => f k j) b) := by
  cases n with
  | zero => exact hz b
  | succ k => exact hf k b hb

section
variable {b : Bool} {s u : State}

theorem spillGo_makes (area n : Nat) (a : Apart s u) (j : Nat) : Makes b s (spillGo u area n j) := by
  delta spillGo
  refine brecOn_all (P := fun g : State → Nat → Except PRes State => ∀ u, Apart s u → ∀ j, Makes b s (g u j)) (fun n below hb u a j => ?_) n u a j
  delta spillGo._f
  refine countFrom_all hb (fun _ => .ok a) (fun k below hb => ?_)
  extract_lets c r off
  generalize xlate u u.ctl.cur u.me.space [permW] (vaOf r off) 8 = x
  cases x with
  | bad => exact .error .trap
  | miss => exact .error (missRes_apart a)
  | padMiss => exact .error (padMissRes_apart a)
  | ok as => exact hb _ a.opaqueTags.addHeld.checkIf _
theorem refillGo_makes (area n : Nat) (a : Apart s u) : Makes b s (refillGo u area n) := by
  delta refillGo
  refine brecOn_all (P := fun g : State → Except PRes State => ∀ u, Apart s u → Makes b s (g u)) (fun n below hb u a => ?_) n u a
  delta refillGo._f
  refine count_all hb (fun _ => .ok a) (fun k below hb => ?_)
  extract_lets j r off
  generalize xlate u u.ctl.cur u.me.space [permR] (vaOf r off) 8 = x
  cases x with
  | bad => exact .error .trap
  | miss => exact .error (missRes_apart a)
  | padMiss => exact .error (padMissRes_apart a)
  | ok as => exact hb _ a.loadPlain.modRegs.checkIf
theorem spillFor_makes {n : Nat} (a : Apart s u) : Makes b s (spillFor u n) := by
  refine .ite (.ok a) (.ite (.error .stall) ?_)
  split
  · exact .error (.trapIn a.fresh)
  · next x _ =>
    exact .ite (.error .trap) (.bind (spillGo_makes _ _ a.setCore.modMe _) fun _ k => .ok k.modRegs)
theorem refillTo_makes {n : Nat} (a : Apart s u) : Makes b s (refillTo u n) := by
  unfold refillTo
  dsimp only
  split
  · exact .ok a
  · exact refillGo_makes _ _ a
theorem strikeOut_apart (a : Apart s u) {d : SReg} {r : Region} : KeepsApart true s (strikeOut u h d r) := by
  have k : Apart s (commitChunk u u.ctl.cur).1 := a.commitChunk a.cur
  unfold strikeOut
  split
  · next e =>
    rw [e] at k
    exact .hold rfl k
  · next e =>
    rw [e] at k
    exact .own k.modMe.wr
end

section
variable {s : State} (hn : NoHalt s) {h : Hdr}
include hn

theorem execFrame_confined (k o : BitVec 5) : Confined s (execFrame h k o s) :=
  runPacket_confined hn (fun _ _ a => .ite .trap
    (.ite (.ite .trap (.moved (spillFor_makes a) fun _ v => .done v.modRegs)) (.ite .trap (.done a.modRegs)))) true
theorem execRet_confined : Confined s (execRet h s) :=
  runPacket_confined hn (fun _ _ a => .farGuard a (.ite .trap (.moved (refillTo_makes a) fun _ a =>
    .ite .trap (.moved (refillTo_makes a) fun _ a => .done a.callerSize.modRegs)))) false

/-! Group 0 (R160 to R186). -/

theorem execNop_confined : Confined s (execNop h s) := runPacket_confined hn (fun _ _ a => .farGuard a (.done a)) false
theorem execBr_confined (j : BitVec 5) (l : BitVec 27) : Confined s (execBr h j l s) :=
  runPacket_confined hn (fun _ _ a => .farGuard a (.done a)) false
theorem execJmp_confined (a : SReg) : Confined s (execJmp h a s) :=
  runPacket_confined hn (fun _ _ a => .farGuard a (.ite .trap (.done a.useRegs))) false
theorem execCall_confined (j : BitVec 5) (l : BitVec 27) : Confined s (execCall h j l s) :=
  runPacket_confined hn (fun _ _ a => .farGuard a (.callTo a)) false
theorem execCalli_confined (a : SReg) : Confined s (execCalli h a s) :=
  runPacket_confined hn (fun _ _ a => .farGuard a (.ite .trap (.callTo a.useRegs))) false
theorem execLoop_confined (d a : SReg) (j : BitVec 5) (l : BitVec 17) : Confined s (execLoop h d a j l s) :=
  runPacket_confined hn (fun _ _ a => .farGuard a (.ite .trap (.ite .trap (.done a.useRegs.wr)))) false
theorem execJtab_confined (a b : SReg) (x : BitVec 12) : Confined s (execJtab h a b x s) := by
  refine runPacket_confined hn (fun _ _ a => .farGuard a (.ite .trap (.ite (.done a.useRegs) (.ite .trap ?_)))) false
  split
  · next e => exact access_apart a e
  · exact .ite .launch (.ite .trap (.done a.useRegs.loadPlain))
theorem execYield_confined : Confined s (execYield h s) := runPacket_confined hn (fun _ _ a => .farGuard a (.done a.modMe)) false
theorem execWakeat_confined (a : SReg) : Confined s (execWakeat h a s) :=
  runPacket_confined hn (fun _ _ a => .farGuard a (.ite .trap (.done a.useRegs.readTime.modMe))) false
theorem execTrap_confined (n : BitVec 5) : Confined s (execTrap h n s) := runPacket_confined hn (fun _ _ a => .farGuard a .trap) false
theorem execChkerr_confined (d : SReg) (m : Bool) : Confined s (execChkerr h d m s) :=
  runPacket_confined hn (fun _ _ a => .ite (.replay a) (.ite .trap (.finRead a a.checkUpd))) false
theorem execTstamp_confined (d : SReg) : Confined s (execTstamp h d s) := runPacket_confined hn (fun _ _ a => .finRead a a.readTime) false
theorem execCycle_confined (d : SReg) : Confined s (execCycle h d s) := runPacket_confined hn (fun _ _ a => .finRead a a.readCycles) false
theorem execPitch_confined (j : BitVec 5) (l : BitVec 27) : Confined s (execPitch h j l s) :=
  runPacket_confined hn (fun _ _ a => .farGuard a (.ite .trap (.ends a.modMe))) false
theorem execStrike_confined (d : SReg) : Confined s (execStrike h d s) :=
  runPacket_confined hn (fun _ _ a => .ite (.finS a) (.ite .trap (.ite (.hold rfl (a.askOut.ite a).passTurn) (strikeOut_apart a)))) false
theorem execDouse_confined : Confined s (execDouse h s) :=
  runPacket_confined hn (fun _ _ a => .farGuard a (.ite (.abort a) .trap)) false
theorem execFence_confined (sc : Scope) (m : Bool) : Confined s (execFence h sc m s) :=
  runPacket_confined hn (fun _ _ a => .ender a .none (.own a.modMe)) false
theorem execChunk_confined : Confined s (execChunk h s) :=
  runPacket_confined hn (fun _ _ a => .farGuard a (.ite (.abort a) (.ends a))) false
theorem execIflush_confined : Confined s (execIflush h s) :=
  runPacket_confined hn (fun _ _ a => .farGuard a (.ite .stall (.done a.setCore))) false
theorem execGetsr_confined (d : SReg) (x : BitVec 12) : Confined s (execGetsr h d x s) :=
  runPacket_confined hn (fun _ _ a => .ite (.farGuard a (.done a.farS)) (.ite (.replay a) (.finRead a (by
    split
    · exact a.readTime
    · split
      · exact a.readCycles
      · exact a)))) false
theorem execSetsr_confined (a : SReg) (x : BitVec 12) : Confined s (execSetsr h a x s) :=
  runPacket_confined hn (fun _ _ a => .farGuard a (.ite .trap (.ite (.replay a) (.done a.useRegs.setUser)))) false

/-! Group 1 (R187 to R195). -/

theorem execAdd_confined (d a b : SReg) (m : Bool) : Confined s (execAdd h d a b m s) := runPacket_confined hn (fun _ _ a => .finS a) false
theorem execSub_confined (d a b : SReg) (m : Bool) : Confined s (execSub h d a b m s) := runPacket_confined hn (fun _ _ a => .finS a) false
theorem execAddi_confined (d a : SReg) (i : BitVec 22) : Confined s (execAddi h d a i s) :=
  runPacket_confined hn (fun _ _ a => .finS a) false
theorem execMovi_confined (d : SReg) (i : BitVec 48) : Confined s (execMovi h d i s) := runPacket_confined hn (fun _ _ a => .finS a) false
theorem execSel_confined (d a b : SReg) (q : PReg) (neg : Bool) : Confined s (execSel h d a b q neg s) :=
  runPacket_confined hn (fun _ _ a => .finS a) false
theorem execGetk_confined (d : SReg) (a : KReg) : Confined s (execGetk h d a s) := runPacket_confined hn (fun _ _ a => .finS a) false
theorem execSetk_confined (d : KReg) (a : SReg) : Confined s (execSetk h d a s) :=
  runPacket_confined hn (fun _ _ a => .ite .trap (.ite (.done a.wk) (.ite .trap (.done a.useRegs.wk)))) false
theorem divide_confined (d a b : SReg) (f : Word → Word → Word) : Confined s (runPacket h (NDiv d a b) false (divBody h d a b f) s) :=
  runPacket_confined hn (fun _ _ a => .farGuard a (.ite (.done a.useRegs.farS) (.ite .trap (.done a.useRegs.farS)))) false
end

/-! Threads, join words, barriers, hikers (R67 to R95, R169 to R178). -/

section
variable {b : Bool} {s u : State}

theorem joinRead_passes (a : Apart s u) {reach : BitVec 16} {off : Word} {n : Nat} {ps : List Nat} :
    Passes b s (match translated u reach off n ps none with | .stop p => some p | .ok _ => none) := by
  split
  · next e => exact .some (translated_apart a e)
  · exact .none
theorem joinBreak_passes (a : Apart s u) {r : SReg} : Passes b s (joinBreak u r) := breakAt_passes a _ _ _ _ _ _

/-- What the destination of a hiker comes to: a state that keeps apart, or an answer that does. -/
inductive Finds (b : Bool) (s : State) : Dest → Prop
  | ok {c : CoreId} {t : State} (h : Apart s t) : Finds b s (.ok c t)
  | stop {r : PRes} (h : KeepsApart b s r) : Finds b s (.stop r)

theorem Finds.ite {c : Prop} [Decidable c] {x y : Dest} (h : Finds b s x) (k : Finds b s y) : Finds b s (if c then x else y) := by
  split
  · exact h
  · exact k
theorem Finds.checked {o : Option PRes} {x : Dest} (hc : Passes b s o) (k : Finds b s x) :
    Finds b s (match (generalizing := false) o with | some r => .stop r | none => x) := by
  cases o with
  | none => exact k
  | some q => exact .stop (hc q rfl)
theorem destOf_finds (a : Apart s u) (r : SReg) (core more : Bool) : Finds b s (destOf u r core more) := by
  have p : Passes b s (breakAt u (u.k 0) (u.s r).v 1 true true none) := breakAt_passes a _ _ _ _ _ _
  refine .ite (.ite (.stop .trap) (.ite (.stop .trap) (.ok a))) ?_
  generalize breakAt u (u.k 0) (u.s r).v 1 true true none = o at p ⊢
  cases t : translated u (u.k 0) (u.s r).v 1 [] none with
  | stop q => exact .stop (translated_apart a t)
  | ok as =>
    dsimp only
    split
    · exact .stop .trap
    · exact .ite (.stop .trap) (.checked p (.ok a))
    · exact .ite (.stop .trap) (.checked p (.ok a.fresh))
theorem KeepsApart.found {d : Dest} {k : CoreId → State → PRes} (f : Finds b s d) (hk : ∀ c v, Apart s v → KeepsApart b s (k c v)) :
    KeepsApart b s (match (generalizing := false) d with | .stop r => r | .ok c v => k c v) := by
  cases f with
  | ok h => exact hk _ _ h
  | stop h => exact h
end

section
variable {s : State} (hn : NoHalt s) {h : Hdr}
include hn

theorem execExit_confined : Confined s (execExit h s) := by
  refine runPacket_confined hn (fun _ u a => .ender a .none (.ite (.replay a) (.gone (.threadEnds ?_ a.cur)))) false
  split
  · exact a.later
  · exact a
theorem execFork_confined (a b c : SReg) (lvl : BitVec 2) : Confined s (execFork h a b c lvl s) :=
  runPacket_confined hn (fun _ _ a => .ender a
    (.cons .causeIf (.cons .causeIf (.cons (joinRead_passes a) (.cons .causeIf (.cons (joinBreak_passes a) .nil)))))
    (.own a.useRegs.later)) false
theorem execJoin_confined (a : SReg) : Confined s (execJoin h a s) := by
  refine runPacket_confined hn (fun _ _ a => .ender a
    (.cons .causeIf (.cons .causeIf (.cons (joinRead_passes a) (.cons (joinBreak_passes a) .nil)))) ?_) false
  split
  · next e => exact translated_apart a e
  · exact .ite (.hold rfl a.passTurn) (.own (a.useRegs.ite a.useRegs.modMe))
theorem execBarc_confined (d : BarN) (a : SReg) : Confined s (execBarc h d a s) :=
  runPacket_confined hn (fun _ _ a => .ender a (.cons .causeIf (.cons .causeIf (.cons .causeIf .nil))) (.own a.useRegs.modMe.later)) false
theorem execBarg_confined : Confined s (execBarg h s) :=
  runPacket_confined hn (fun _ _ a => .ender a (.cons .causeIf .nil) (.own a.modMe.later)) false
theorem execHike_confined (a : SReg) (m : Bool) : Confined s (execHike h a m s) :=
  runPacket_confined hn (fun _ _ a => .farGuard a (.ite .trap (.found (destOf_finds a _ _ _) fun _ _ a =>
    .commitWait a (.ite (.replay a) (.ite (.own a.useRegs) (.withCredit a fun _ a => .gone (a.launchHiker.release a.cur))))))) false
theorem execPost_confined (a b c : SReg) (n : BitVec 4) (core reply : Bool) : Confined s (execPost h a b c n core reply s) :=
  runPacket_confined hn (fun _ _ a => .farGuard a (.ite .trap (.ite .trap (.ite .trap (.found (destOf_finds a _ _ _) fun _ _ a =>
    .commitWait a (.withCredit a fun _ a => .own a.useRegs.launchHiker)))))) false
theorem execSettle_confined : Confined s (execSettle h s) :=
  runPacket_confined hn (fun _ _ a => .ender a (.cons .causeIf (.cons (.ite (.some .trap) .none) .nil)) (.own a.modMe)) false
end

/-! Rings and streams (R261 to R268, R275). -/

section
variable {b : Bool} {s u : State}

theorem Apart.ownChunk (a : Apart s u) : Apart s (ownChunk u) := a.ite a.setMe
theorem ringBad_passes {r : RingN} {vec bound : Bool} {n : Nat} {ps : List Nat} : Passes b s (ringBad u r vec bound n ps) :=
  .cons .causeIf (.cons .causeIf (.cons .map_trap .nil))
theorem ringGate_apart (a : Apart s u) {r : RingN} {bad : Option PRes} {why : RingWait} {k : State → PRes} (hb : Passes b s bad)
    (hk : KeepsApart b s (k u)) : KeepsApart b s (ringGate u r bad why k) :=
  .ite (.regionStop a (.replay a)) (.checked (.regionStop a (.ite hk (.replay a))) hb)
theorem popToStream_apart (a : Apart s u) {h : Hdr} {d : VNum} {r : RingN} : KeepsApart b s (popToStream u h d r) :=
  .commitWait a (.own a.popHead.checkIf.farVb.settleOwn)
theorem bindRead_apart (a : Apart s u) {x : SReg} {reach : BitVec 16} {desc : Bool} {r : PRes} (e : bindRead u x reach desc = .stop r) :
    KeepsApart b s r := by
  unfold bindRead at e
  dsimp only at e
  split at e
  · cases e
  · split at e
    · obtain ⟨⟩ := e; exact .trap
    · split at e
      · obtain ⟨⟩ := e; exact .trap
      · split at e
        · next t => obtain ⟨⟩ := e; exact translated_apart a t
        · cases e
theorem KeepsApart.afterRead {x : BindRead} {p : PRes} {k : Word → BitVec 16 → BindDesc → PRes}
    (hs : ∀ r, x = .stop r → KeepsApart b s r) (hp : KeepsApart b s p) (hk : ∀ off reach d, KeepsApart b s (k off reach d)) :
    KeepsApart b s (match (generalizing := false) x with | .stop r => r | .none => p | .ok off reach d => k off reach d) := by
  cases x with
  | none => exact hp
  | ok off reach d => exact hk off reach d
  | stop r => exact hs r rfl
end

section
variable {s : State} (hn : NoHalt s) {h : Hdr}
include hn

theorem execRdef_confined (d : RingN) (a b : SReg) : Confined s (execRdef h d a b s) :=
  runPacket_confined hn (fun _ _ a => .ender a (.cons .causeIf (.cons .causeIf .nil)) (.own a.useRegs.setRing.rdefNow)) false
theorem execRpush_confined (d : RingN) (a : VNum) (vec : Bool) : Confined s (execRpush h d a vec s) :=
  runPacket_confined hn (fun _ _ a => .ite .trap (.withStreams a.ownChunk fun _ a => .ite (.done a)
    (ringGate_apart a ringBad_passes (.ends (a.ite a.useRegs).setRing.modCur.checkIf)))) false
theorem execRpop_confined (d : VNum) (a : RingN) (vec : Bool) : Confined s (execRpop h d a vec s) :=
  runPacket_confined hn (fun _ _ a => .ite .trap (.withStreams (a.ite a.ownChunk) fun _ a => .ite (.done (a.wvb.ite a))
    (ringGate_apart a ringBad_passes
      (.ite (.ends a.setRing.modCur.farS) (.ite (popToStream_apart a) (.ends a.setRing.modCur.farV)))))) false
theorem execRstat_confined (d : SReg) (a : RingN) : Confined s (execRstat h d a s) :=
  runPacket_confined hn (fun _ _ a => .ender a .none (.own a.farS)) false
theorem execBind_confined (d a : VNum) (mode : BindMode) (dsc : Bool) (k : KReg) : Confined s (execBind h d a mode dsc k s) := by
  refine runPacket_confined hn (fun s u a => .ite .trap (.farGuard a ?_)) false
  split
  · exact .trap
  · refine .afterRead (fun _ e => bindRead_apart a e) ?_ fun _ _ _ => ?_
    all_goals
      refine .checked (.ite (.regionStop a (.replay a)) (.checked (.commitWait a ?_) (.cons .causeIf (.cons ?_ .nil))))
        (.cons .causeIf (.cons .causeIf .nil))
    · exact .own (a.useRegs.ite a).bindNow
    · exact .none
    · exact .own (a.useRegs.ite a).bindNow
    · exact breakAt_passes a _ _ _ _ _ _
theorem execUnbind_confined (d : VNum) : Confined s (execUnbind h d s) := by
  refine runPacket_confined hn (fun s u a => .ite .trap (.ender a .none ?_)) false
  split
  · exact .own a
  · exact .own a.unbindNow
theorem execRquery_confined (d a : SReg) (k : KReg) : Confined s (execRquery h d a k s) := by
  refine runPacket_confined hn (fun s u a => .farGuard a (.ite .trap (.ite ?_ ?_))) false
  · split
    · exact .done a.useRegs.farS
    · exact .done a.useRegs.farS
  · split
    · exact .done a.useRegs.farS
    · exact .ite (.done a.useRegs.farS) (missRes_apart a)
end

/-! The matrix queue, stashed lines, the engine (R244 to R251, R269 to R272). -/

section
variable {b : Bool} {s u : State}

theorem tileChecks_passes (a : Apart s u) (r : SReg) (reach : BitVec 16) (ps : List Nat) (store : Bool) :
    Passes b s (causes (tileChecks u r reach ps store)) :=
  .cons .causeIf (.cons .causeIf (.cons (spanBad_passes a) (.cons (breakAt_passes a _ _ _ _ _ _) .nil)))
theorem Apart.clearSpan (a : Apart s u) {m : Memory} {l : List Span} : Apart s { u with mem := m, cl := { u.cl with spans := l } } :=
  a.rest rfl rfl rfl
theorem stashLate_passes (a : Apart s u) (x y z : SVal) : Passes b s (causes (stashLate u x y z)) := by
  unfold stashLate
  dsimp only
  split
  · exact .nil
  · exact .cons (.ite .none (spanBad_passes a)) (.cons .causeIf (.cons .causeIf (.cons .causeIf
      (.cons (.ite .none (breakAt_passes a _ _ _ _ _ _)) .nil))))
theorem spanIf_passes (a : Apart s u) (reach : BitVec 16) (off : Word) (n : Option Nat) (ps : List Nat) :
    Passes b s (spanIf u reach off n ps) := by
  cases n with
  | none => exact .none
  | some k => exact spanBad_passes a
theorem breakIf_passes (a : Apart s u) (reach : BitVec 16) (off : Word) (n : Option Nat) : Passes b s (breakIf u reach off n) := by
  cases n with
  | none => exact .none
  | some k => exact breakAt_passes a _ _ _ _ _ _
theorem rowLen_apart (a : Apart s u) (c : SVal) (desc ring : Bool) : ∀ r, rowLen u c desc ring = .stop r → KeepsApart b s r := by
  have p : Passes b s (spanBad u (u.k 0) c.v 32 [permR]) := spanBad_passes a
  unfold rowLen
  generalize spanBad u (u.k 0) c.v 32 [permR] = o at p ⊢
  cases t : translated u (u.k 0) c.v 32 [permR] none with
  | stop q =>
    intro r e
    split at e
    · cases e
    · split at e
      · obtain ⟨⟩ := e; exact p _ rfl
      · obtain ⟨⟩ := e; exact translated_apart a t
  | ok as =>
    intro r e
    split at e
    · cases e
    · split at e
      · obtain ⟨⟩ := e; exact p _ rfl
      · cases e
theorem copyChecks_passes (a : Apart s u) (x y z : SReg) (desc ring : Bool) : Passes b s (copyChecks u x y z desc ring) := by
  unfold copyChecks
  dsimp only
  have early : Passes b s (causes [causeIf ((u.s x).p || (!ring && (u.s y).p) || (u.s z).p) (trapOf cPoison),
    causeIf (decide ((u.s x).v.toNat % 8 ≠ 0)) ⟨cMisaligned, (u.s x).v, auxOf (u.k 0) none⟩,
    causeIf (!ring && decide ((u.s y).v.toNat % 8 ≠ 0)) ⟨cMisaligned, (u.s y).v, auxOf (u.k 1) none⟩,
    causeIf (decide ((u.s z).v.toNat % (if desc then 32 else 8) ≠ 0)) ⟨cMisaligned, (u.s z).v, auxOf (u.k 0) none⟩]) :=
    .cons .causeIf (.cons .causeIf (.cons .causeIf (.cons .causeIf .nil)))
  split
  · next e => exact .some (early _ e)
  · split
    · next e => exact .some (rowLen_apart a _ _ _ _ e)
    · exact .cons (spanIf_passes a _ _ _ _) (.cons (.ite .none (spanIf_passes a _ _ _ _)) (.cons .causeIf
        (.cons (.ite (breakAt_passes a _ _ _ _ _ _) .none) (.cons (breakIf_passes a _ _ _) (.cons (.ite .none (breakIf_passes a _ _ _)) .nil)))))
theorem mcastPad_passes (off : Word) (n : Nat) : Passes b s (mcastPad off n) := by
  unfold mcastPad
  split
  · exact .some .trap
  · exact .causeIf
theorem mcastChecks_passes (a : Apart s u) (x y z : SReg) (ring : Bool) : Passes b s (mcastChecks u x y z ring) :=
  .cons .causeIf (.cons .causeIf (.cons .causeIf (.cons (.ite .none (mcastPad_passes _ _)) (.cons (spanBad_passes a) (.cons .causeIf
    (.cons .causeIf (.cons (breakAt_passes a _ _ _ _ _ _) .nil)))))))
end

section
variable {s : State} (hn : NoHalt s) {h : Hdr}
include hn

theorem execMma_confined (d : TileN) (a b : RingN) (n : BitVec 6) : Confined s (execMma h d a b n s) :=
  runMatrix_confined hn (fun _ _ _ => .cons .causeIf (.cons .causeIf (.cons .map_trap (.cons .map_trap .nil)))) fun _ _ a => a.enqueue
theorem execMzero_confined (d : TileN) : Confined s (execMzero h d s) := runMatrix_confined hn (fun _ _ _ => .nil) fun _ _ a => a.enqueue
theorem execMfill_confined (d : TileN) (a : SReg) (k : KReg) : Confined s (execMfill h d a k s) :=
  runMatrix_confined hn (fun _ _ a => tileChecks_passes a _ _ _ _) fun _ _ a => a.useRegs.enqueue
theorem execMdrain_confined (d : TileN) (a c : SReg) (k : KReg) : Confined s (execMdrain h d a c k s) :=
  runMatrix_confined hn (fun _ _ a => tileChecks_passes a _ _ _ _) fun _ _ a => a.useRegs.enqueue.farS
theorem execStash_confined (a b c : SReg) : Confined s (execStash h a b c s) :=
  runPacket_confined hn (fun _ _ a => .ender a
    (.cons .causeIf (.cons .causeIf (.cons .causeIf (.cons .causeIf (.cons .causeIf (stashLate_passes a _ _ _))))))
    (.own a.useRegs.stashNow)) false
theorem execUnstash_confined (d a : SReg) : Confined s (execUnstash h d a s) := by
  refine runPacket_confined hn (fun s u a => .ender a (.cons .causeIf (.cons .causeIf .nil)) ?_) false
  split
  · exact .own a
  · exact .own (Apart.farS (Apart.later a.useRegs.clearSpan))
theorem execFlush_confined (d a b : SReg) (k : KReg) : Confined s (execFlush h d a b k s) :=
  runPacket_confined hn (fun _ _ a => .ender a (.cons .causeIf (.cons (spanAccess_passes a) .nil)) (.own a.useRegs.later.farS)) false
theorem execCopy_confined (d a b c : SReg) (desc ring : Bool) : Confined s (execCopy h d a b c desc ring s) :=
  runPacket_confined hn (fun _ _ a => .farGuard a (.checked
    (.regionStop a (.ite (.replay a) (.commitWait a (.own a.useRegs.engAccept)))) (copyChecks_passes a _ _ _ _ _))) false
theorem execMcast_confined (d a b c : SReg) (ring : Bool) : Confined s (execMcast h d a b c ring s) :=
  runPacket_confined hn (fun _ _ a => .farGuard a (.checked
    (.regionStop a (.ite (.replay a) (.commitWait a (.own a.useRegs.engAccept)))) (mcastChecks_passes a _ _ _ _))) false
end

/-! FANOUT (R178, R347 to R350). -/

section
variable {s u : State}

theorem refuseLaunch_apart {b : Bool} (a : Apart s u) {q : BitVec 32} {packet : Word} {cause : BitVec 8} {detail : Nat} :
    KeepsApart b s (refuseLaunch u q packet cause detail) := by
  unfold refuseLaunch
  dsimp only
  split
  · exact .ite (.trapIn a.appendLast) (.trapIn a.appendMore)
  · exact .trapIn (a.append.ite a)
theorem fanoutAct_apart (a : Apart s u) {c : PartCfg} {q : BitVec 32} {packet off : Word} {as : List Nat} :
    KeepsApart true s (fanoutAct u c q packet off as) := by
  unfold fanoutAct
  dsimp only
  split
  · refine .ite (.own a.appendLast) (.ite (refuseLaunch_apart a) ?_)
    split
    · exact .hold rfl a.passTurn
    · exact refuseLaunch_apart a
    · exact .ite (.own a.fanOut) (refuseLaunch_apart a)
  · refine .ite (refuseLaunch_apart a) ?_
    split
    · exact .hold rfl a.passTurn
    · exact refuseLaunch_apart a
    · exact refuseLaunch_apart a
theorem execFanout_confined (hn : NoHalt s) {h : Hdr} (a : SReg) : Confined s (execFanout h a s) := by
  refine runPacket_confined hn (fun s u a => .ender a (.cons .causeIf (.cons .causeIf (.cons (joinRead_passes a) (.cons .causeIf
    (.cons (breakAt_passes a _ _ _ _ _ _) .nil))))) ?_) false
  split
  · next e => exact translated_apart a e
  · exact fanoutAct_apart a.useRegs
  · exact .trap
end

/-- An encoded packet outside the ranger's slot leaves the other slots alone; a step that is no packet has no encoding (R104). -/
theorem exec_confined {s : State} (hn : NoHalt s) (hc : s.ctl.cur ≠ ranger) (i : Instr) (he : (encode i).isSome = true) :
    Confined s (exec i s) := by
  cases i with
  | nop => exact execNop_confined hn
  | br => exact execBr_confined hn _ _
  | jmp => exact execJmp_confined hn _
  | call => exact execCall_confined hn _ _
  | calli => exact execCalli_confined hn _
  | ret => exact execRet_confined hn
  | frame => exact execFrame_confined hn _ _
  | jtab => exact execJtab_confined hn _ _ _
  | loop => exact execLoop_confined hn _ _ _ _
  | exit => exact execExit_confined hn
  | yield => exact execYield_confined hn
  | wakeat => exact execWakeat_confined hn _
  | fork => exact execFork_confined hn _ _ _ _
  | join => exact execJoin_confined hn _
  | hike => exact execHike_confined hn _ _
  | post => exact execPost_confined hn _ _ _ _ _ _
  | settle => exact execSettle_confined hn
  | barc => exact execBarc_confined hn _ _
  | barg => exact execBarg_confined hn
  | fanout => exact execFanout_confined hn _
  | trap => exact execTrap_confined hn _
  | chkerr => exact execChkerr_confined hn _ _
  | tstamp => exact execTstamp_confined hn _
  | cycle => exact execCycle_confined hn _
  | pitch => exact execPitch_confined hn _ _
  | strike => exact execStrike_confined hn _
  | douse => exact execDouse_confined hn
  | fence => exact execFence_confined hn _ _
  | chunk => exact execChunk_confined hn
  | getsr => exact execGetsr_confined hn _ _
  | setsr => exact execSetsr_confined hn _ _
  | iflush => exact execIflush_confined hn
  | add => exact execAdd_confined hn _ _ _ _
  | sub => exact execSub_confined hn _ _ _ _
  | mul h d a b m => exact show Confined s (execMul h d a b m s) from run2_confined hn _ _ _ _
  | mulh h d a b m => exact show Confined s (execMulh h d a b m s) from run2_confined hn _ _ _ _
  | div h d a b m => exact show Confined s (execDiv h d a b m s) from divide_confined hn _ _ _ _
  | rem h d a b m => exact show Confined s (execRem h d a b m s) from divide_confined hn _ _ _ _
  | and h d a b m => exact show Confined s (execAnd h d a b m s) from run2_confined hn _ _ _ _
  | or h d a b m => exact show Confined s (execOr h d a b m s) from run2_confined hn _ _ _ _
  | xor h d a b m => exact show Confined s (execXor h d a b m s) from run2_confined hn _ _ _ _
  | andn h d a b m => exact show Confined s (execAndn h d a b m s) from run2_confined hn _ _ _ _
  | shl h d a b m => exact show Confined s (execShl h d a b m s) from run2_confined hn _ _ _ _
  | shr h d a b m => exact show Confined s (execShr h d a b m s) from run2_confined hn _ _ _ _
  | rot h d a b m => exact show Confined s (execRot h d a b m s) from run2_confined hn _ _ _ _
  | min h d a b m => exact show Confined s (execMin h d a b m s) from run2_confined hn _ _ _ _
  | max h d a b m => exact show Confined s (execMax h d a b m s) from run2_confined hn _ _ _ _
  | clz h d a m => exact show Confined s (execClz h d a m s) from run1_confined hn _ _ _
  | ctz h d a m => exact show Confined s (execCtz h d a m s) from run1_confined hn _ _ _
  | popc h d a m => exact show Confined s (execPopc h d a m s) from run1_confined hn _ _ _
  | mov h d a m => exact show Confined s (execMov h d a m s) from run1_confined hn _ _ _
  | addi => exact execAddi_confined hn _ _ _
  | andi h d a imm => exact show Confined s (execAndi h d a imm s) from run1_confined hn _ _ _
  | ori h d a imm => exact show Confined s (execOri h d a imm s) from run1_confined hn _ _ _
  | xori h d a imm => exact show Confined s (execXori h d a imm s) from run1_confined hn _ _ _
  | shli h d a n => exact show Confined s (execShli h d a n s) from run1_confined hn _ _ _
  | shri h d a n ar => exact show Confined s (execShri h d a n ar s) from run1_confined hn _ _ _
  | ext h d a p n => exact show Confined s (execExt h d a p n s) from run1_confined hn _ _ _
  | exts h d a p n => exact show Confined s (execExts h d a p n s) from run1_confined hn _ _ _
  | ins h d a p n => exact show Confined s (execIns h d a p n s) from run2_confined hn _ _ _ _
  | movi => exact execMovi_confined hn _ _
  | movk h d imm hw => exact show Confined s (execMovk h d imm hw s) from run1_confined hn _ _ _
  | sel => exact execSel_confined hn _ _ _ _ _
  | lea h d a b sh disp => exact show Confined s (execLea h d a b sh disp s) from run2_confined hn _ _ _ _
  | getk => exact execGetk_confined hn _ _
  | setk => exact execSetk_confined hn _ _
  | fadd h d a b t rm => exact show Confined s (execFadd h d a b t rm s) from runFp_confined hn _ _ _ _
  | fsub h d a b t rm => exact show Confined s (execFsub h d a b t rm s) from runFp_confined hn _ _ _ _
  | fmul h d a b t rm => exact show Confined s (execFmul h d a b t rm s) from runFp_confined hn _ _ _ _
  | fdiv h d a b t rm => exact show Confined s (execFdiv h d a b t rm s) from runFarFp_confined hn _ _ _ _ _
  | ffma h d a b c t rm => exact show Confined s (execFfma h d a b c t rm s) from runFp_confined hn _ _ _ _
  | fsqrt h d a t rm => exact show Confined s (execFsqrt h d a t rm s) from runFarFp_confined hn _ _ _ _ _
  | fmin h d a b t => exact show Confined s (execFmin h d a b t s) from runFpExact_confined hn _ _ _
  | fmax h d a b t => exact show Confined s (execFmax h d a b t s) from runFpExact_confined hn _ _ _
  | fsgn h d a b t op => exact show Confined s (execFsgn h d a b t op s) from runFpExact_confined hn _ _ _
  | fcvt h d a dt sty rm inf => exact show Confined s (execFcvt h d a dt sty rm inf s) from runFp_confined hn _ _ _ _
  | frnd h d a t rm => exact show Confined s (execFrnd h d a t rm s) from runFp_confined hn _ _ _ _
  | fcls h d a t => exact show Confined s (execFcls h d a t s) from runFpExact_confined hn _ _ _
  | fxf h d a t rm fn => exact show Confined s (execFxf h d a t rm fn s) from runFarFp_confined hn _ _ _ _ _
  | cmp => exact execCmp_confined hn _ _ _ _ _ _
  | cmpi => exact execCmpi_confined hn _ _ _ _ _ _
  | fcmp => exact execFcmp_confined hn _ _ _ _ _ _
  | plog => exact execPlog_confined hn _ _ _ _
  | pfrom => exact execPfrom_confined hn _ _
  | ptos h d a => exact show Confined s (execPtos h d a s) from runQS_confined hn _ _ _
  | pcnt h d a => exact show Confined s (execPcnt h d a s) from runQS_confined hn _ _ _
  | pfirst h d a => exact show Confined s (execPfirst h d a s) from runQS_confined hn _ _ _
  | plim => exact execPlim_confined hn _ _ _ _
  | vcmp => exact execVcmp_confined hn _ _ _ _ _ _ _
  | ld => exact execLd_confined hn _ _ _ _ _ _ _
  | st => exact execSt_confined hn _ _ _ _ _ _ _
  | ldf h d a b k t sh disp => exact show Confined s (execLdf h d a b k t sh disp s) from runHome_confined hn
  | ldfe h d a b k t sh disp => exact show Confined s (execLdfe h d a b k t sh disp s) from runHome_confined hn
  | stef h d a b k t sh disp => exact show Confined s (execStef h d a b k t sh disp s) from runHome_confined hn
  | stf h d a b k t sh disp => exact show Confined s (execStf h d a b k t sh disp s) from runHome_confined hn
  | ldo => exact execLdo_confined hn _ _ _ _ _
  | sto => exact execSto_confined hn _ _ _ _ _
  | vld => exact execVld_confined hn _ _ _ _ _ _ _
  | vst => exact execVst_confined hn _ _ _ _ _ _ _ _ _
  | vldg => exact execVldg_confined hn _ _ _ _ _ _ _
  | vsts => exact execVsts_confined hn _ _ _ _ _ _ _
  | gathn => exact execGathn_confined hn _ _ _ _ _ _ _
  | feset h k a m => exact show Confined s (execFeset h k a m s) from runHome_confined hn
  | atom h d a b k op w => exact show Confined s (execAtom h d a b k op w s) from runHome_confined hn
  | cas h d a b c k w => exact show Confined s (execCas h d a b c k w s) from runHome_confined hn
  | vred => exact execVred_confined hn _ _ _ _ _
  | pref h k a m => exact execPref_confined hn k a m
  | stash => exact execStash_confined hn _ _ _
  | unstash => exact execUnstash_confined hn _ _
  | flush => exact execFlush_confined hn _ _ _ _
  | copy => exact execCopy_confined hn _ _ _ _ _ _
  | mcast => exact execMcast_confined hn _ _ _ _ _
  | vadd h d a b t rm na nb sat sb => exact show Confined s (execVadd h d a b t rm na nb sat sb s) from runNearV_confined hn _ _ _ _ _ _ _ _
  | vsub h d a b t rm na nb sat sb => exact show Confined s (execVsub h d a b t rm na nb sat sb s) from runNearV_confined hn _ _ _ _ _ _ _ _
  | vmul h d a b t rm na nb sat sb => exact show Confined s (execVmul h d a b t rm na nb sat sb s) from runNearV_confined hn _ _ _ _ _ _ _ _
  | vfma h d a b c t rm na nb nc sat sb => exact show Confined s (execVfma h d a b c t rm na nb nc sat sb s) from runNearV_confined hn _ _ _ _ _ _ _ _
  | vmin h d a b t sb => exact show Confined s (execVmin h d a b t sb s) from runNearV_confined hn _ _ _ _ _ _ _ _
  | vmax h d a b t sb => exact show Confined s (execVmax h d a b t sb s) from runNearV_confined hn _ _ _ _ _ _ _ _
  | vand h d a b t sb => exact show Confined s (execVand h d a b t sb s) from runNearV_confined hn _ _ _ _ _ _ _ _
  | vor h d a b t sb => exact show Confined s (execVor h d a b t sb s) from runNearV_confined hn _ _ _ _ _ _ _ _
  | vxor h d a b t sb => exact show Confined s (execVxor h d a b t sb s) from runNearV_confined hn _ _ _ _ _ _ _ _
  | vshr h d a b t sb => exact show Confined s (execVshr h d a b t sb s) from runNearV_confined hn _ _ _ _ _ _ _ _
  | vmulh h d a b t sb => exact show Confined s (execVmulh h d a b t sb s) from runNearV_confined hn _ _ _ _ _ _ _ _
  | vsgn h d a b t op sb => exact show Confined s (execVsgn h d a b t op sb s) from runNearV_confined hn _ _ _ _ _ _ _ _
  | vdiv h d a b t rm sb => exact show Confined s (execVdiv h d a b t rm sb s) from runFarV_confined hn _ _ _ _ _ _ _ _
  | vxf h d a t rm fn => exact show Confined s (execVxf h d a t rm fn s) from runFarV_confined hn _ _ _ _ _ _ _ _
  | vcvt h d a dt sty rm x => exact show Confined s (execVcvt h d a dt sty rm x s) from runNearV_confined hn _ _ _ _ _ _ _ _
  | vshl h d a b t sat sb => exact show Confined s (execVshl h d a b t sat sb s) from runNearV_confined hn _ _ _ _ _ _ _ _
  | vdot h d a b t rm na nb sat sb => exact show Confined s (execVdot h d a b t rm na nb sat sb s) from runNearV_confined hn _ _ _ _ _ _ _ _
  | vclamp h d a b c t sb => exact show Confined s (execVclamp h d a b c t sb s) from runNearV_confined hn _ _ _ _ _ _ _ _
  | vsel h d a b q neg t sb => exact show Confined s (execVsel h d a b q neg t sb s) from runNearV_confined hn _ _ _ _ _ _ _ _
  | vmov h d a => exact show Confined s (execVmov h d a s) from runLanes_confined hn _ _ _ _ _
  | vbcast h d a t => exact show Confined s (execVbcast h d a t s) from runLanes_confined hn _ _ _ _ _
  | vget => exact execVget_confined hn _ _ _ _
  | vins h d a lane => exact show Confined s (execVins h d a lane s) from runNearV_confined hn _ _ _ _ _ _ _ _
  | vperm h d a b t sb => exact show Confined s (execVperm h d a b t sb s) from runNearV_confined hn _ _ _ _ _ _ _ _
  | vslide h d a t n => exact show Confined s (execVslide h d a t n s) from runNearV_confined hn _ _ _ _ _ _ _ _
  | vfold => exact execVfold_confined hn _ _ _ _ _
  | vscan h d a t rm op => exact show Confined s (execVscan h d a t rm op s) from runNearV_confined hn _ _ _ _ _ _ _ _
  | vidx h d m => exact show Confined s (execVidx h d m s) from runLanes_confined hn _ _ _ _ _
  | vpack => exact execVpack_confined hn _ _ _ _ _ _
  | vunpk h d a sty n => exact show Confined s (execVunpk h d a sty n s) from runLanes_confined hn _ _ _ _ _
  | tenc h d a => exact show Confined s (execTenc h d a s) from runNearV_confined hn _ _ _ _ _ _ _ _
  | tdec h d a => exact show Confined s (execTdec h d a s) from runLanes_confined hn _ _ _ _ _
  | tload => exact execTload_confined hn _ _
  | vmxs h d a b rm inf sb => exact show Confined s (execVmxs h d a b rm inf sb s) from runNearV_confined hn _ _ _ _ _ _ _ _
  | rdef => exact execRdef_confined hn _ _ _
  | rpush => exact execRpush_confined hn _ _ _
  | rpop => exact execRpop_confined hn _ _ _
  | rstat => exact execRstat_confined hn _ _
  | bind => exact execBind_confined hn _ _ _ _ _
  | unbind => exact execUnbind_confined hn _
  | mma => exact execMma_confined hn _ _ _ _
  | mzero => exact execMzero_confined hn _
  | mdrain => exact execMdrain_confined hn _ _ _ _
  | mfill => exact execMfill_confined hn _ _ _
  | rquery => exact execRquery_confined hn _ _ _
  | rett => exact privileged_confined hn hc _
  | ctxsave => exact privileged_confined hn hc _
  | ctxload => exact privileged_confined hn hc _
  | rload => exact privileged_confined hn hc _
  | rinval => exact privileged_confined hn hc _
  | rsplit => exact privileged_confined hn hc _
  | rmerge => exact privileged_confined hn hc _
  | rgrow => exact privileged_confined hn hc _
  | rcompact => exact privileged_confined hn hc _
  | resume => exact privileged_confined hn hc _
  | killt => exact privileged_confined hn hc _
  | dbghalt => exact privileged_confined hn hc _
  | wakef => exact privileged_confined hn hc _
  | credsync => exact privileged_confined hn hc _
  | getpr => exact privileged_confined hn hc _
  | setpr => exact privileged_confined hn hc _
  | idle => exact privileged_confined hn hc _
  | _ => exact absurd he Bool.false_ne_true

/-- Settles O60: every packet keeps the other slots' registers, PC and occupancy, whatever it comes to. -/
theorem packetsLeaveOtherThreads : Obligations.PacketsLeaveOtherThreads := by
  unfold Obligations.PacketsLeaveOtherThreads
  intro i s t j he hc hn ht hj
  exact (exec_confined hn hc i he t ht).others j hj

end Sys2Proof.Machine
end

section
/-! The step's choice (R39, R40, R119, R345, log 10): what `pick` makes of the inbox, of the candidates that are due and of the next
runnable slot, and what the issue of a slot makes of the cached line. -/
namespace Sys2Proof.Machine

/-- A decoding that gives an instruction is of an assigned opcode. -/
theorem opFmt_of_decode_ok {head : BitVec 16} {tail : BitVec 64} {i : Instr} (h : decode head tail = .ok i) :
    ∃ f, opFmt (headOp head) = some f := by
  unfold decode at h
  cases e : opFmt (headOp head) with
  | none =>
    rw [e] at h
    cases h
  | some f => exact ⟨f, rfl⟩

/-! A message that has come in. -/

theorem step_message {s : State} {i : Instr} {rest : List Instr} (hi : s.inbox = i :: rest)
    (ha : (isPortWrite i && s.agenda.any isPortWrite) = false) : step s = exec i { s with inbox := rest } := by
  unfold step pick
  simp only [hi, ha, Bool.false_eq_true, if_false]
  rfl
theorem step_portWrite {s : State} {i : Instr} {rest : List Instr} (hi : s.inbox = i :: rest)
    (ha : (isPortWrite i && s.agenda.any isPortWrite) = true) :
    step s = .next { s with inbox := rest, agenda := s.agenda ++ [i] } := by
  unfold step pick
  simp only [hi, ha, if_true]
  rfl

/-! A free choice among the candidates, the next slot's issue among them. -/

theorem choose_free (s : State) (n : Nat) : ∃ f, (choose s n).2 = { s with ctl := { s.ctl with free := f } } := by
  unfold choose
  split
  · exact ⟨s.ctl.free, rfl⟩
  · exact ⟨s.ctl.free + 1, rfl⟩
theorem step_chosen {s : State} (hi : s.inbox = []) :
    (∃ c n, c ∈ cands s ∧ step s = runPick (c.go { s with ctl := { s.ctl with free := n } })) ∨
      ∃ n, step s = runPick (issueNext { s with ctl := { s.ctl with free := n } }) := by
  obtain ⟨n, hn⟩ := choose_free s ((cands s).length + (if (nextSlot s).isSome then 1 else 0))
  unfold step pick
  simp only [hi, hn]
  cases e : (cands s)[(choose s ((cands s).length + (if (nextSlot s).isSome then 1 else 0))).1]? with
  | some c => exact .inl ⟨c, n, List.mem_of_getElem? e, rfl⟩
  | none => exact .inr ⟨n, rfl⟩
theorem step_issue {s : State} {i : SlotN} (hi : s.inbox = []) (hc : cands s = []) (hs : nextSlot s = some i) :
    step s = runPick (issue s i) := by
  have alone : choose s (([] : List Cand).length + (if (some i).isSome then 1 else 0)) = (0, s) := rfl
  unfold step pick issueNext
  simp only [hi, hc, hs, alone]
  rfl

/-! The issue of a slot. -/

theorem runPick_issue_trap {s : State} {i : SlotN} {x : TrapInfo} (h : fetch (turn s i) i = .trap x) :
    runPick (issue s i) = .next (fetchTrap (turn s i) i x) := by
  simp only [issue, h, runPick]
theorem runPick_issue_instr {s : State} {i : SlotN} {ins : Instr} {n : Nat} (h : fetch (turn s i) i = .instr ins n) :
    runPick (issue s i) = exec ins { turn s i with ctl := { (turn s i).ctl with curN := n } } := by
  simp only [issue, h, runPick]
theorem fetch_cached {u : State} {i : SlotN} {l : ILine} {a : Nat} {r : Bool} (hp : (u.th i).pc.getLsbD 5 = false)
    (hx : xByte u i (u.th i).space (vaOf (u.th i).creach (pcLine (u.th i).pc)) [permX] = .ok a r) (hl : findLine u i = some l) :
    fetch u i = fromLine u i l := by
  unfold fetch
  simp only [hp, hx, hl, Bool.false_eq_true, if_false]
/-- A line that carries no cause gives the instruction that its head and tail decode to. -/
theorem fromLine_instr {u : State} {i : SlotN} {l : ILine} {ins : Instr} (hh : headP l = false) (hl : lineOk l.bits = true)
    (hb : l.badPatch = false) (hj : pcHead (u.th i).pc < lineN l.bits) (ht : tailP l (pcHead (u.th i).pc) = false)
    (hf : ∀ x, x ∈ l.headFault → x.1 ≠ pcHead (u.th i).pc)
    (hd : decode (lineHead l.bits (pcHead (u.th i).pc)) (lineTail l.bits (pcHead (u.th i).pc)) = .ok ins)
    (hi : opPrivileged (headOp (lineHead l.bits (pcHead (u.th i).pc))) = true → i = ranger) (hn : pcBreak u i = none) :
    fromLine u i l = .instr ins (lineN l.bits) := by
  obtain ⟨f, hf'⟩ := opFmt_of_decode_ok hd
  have fault : l.headFault.find? (fun x => decide (x.1 = pcHead (u.th i).pc)) = none :=
    List.find?_eq_none.mpr fun x hx => by simpa using hf x hx
  have allowed : (opPrivileged (headOp (lineHead l.bits (pcHead (u.th i).pc))) && decide (i ≠ ranger)) = false := by
    cases e : opPrivileged (headOp (lineHead l.bits (pcHead (u.th i).pc))) with
    | false => rfl
    | true => simp [hi e]
  unfold fromLine
  simp only [hh, hl, hb, ht, fault, hf', allowed, hd, hn, Nat.not_le.mpr hj, Bool.not_true, Bool.false_eq_true, if_false]

/-- Settles O56: each of its parts is one case of `pick`, the last of them the issue of a slot whose line is cached. -/
theorem stepRunsTheDecodedInstruction : Obligations.StepRunsTheDecodedInstruction := by
  unfold Obligations.StepRunsTheDecodedInstruction
  intro s
  refine ⟨fun i rest hi => ⟨step_message hi, step_portWrite hi⟩, step_chosen, fun i l a ins => ?_⟩
  intro u j hin hc hs
  refine ⟨fun x hx => (step_issue hin hc hs).trans (runPick_issue_trap hx), ?_⟩
  rintro hp ⟨r, hx⟩ hl hh ho hb hj ht hf hd hr hn
  have fetched : fetch u i = .instr ins (lineN l.bits) := (fetch_cached hp hx hl).trans (fromLine_instr hh ho hb hj ht hf hd hr hn)
  exact (step_issue hin hc hs).trans (runPick_issue_instr fetched)

end Sys2Proof.Machine
end
